-- ==== Sys2Proof/Word.lean ====
section
/-! DEFINITION. The words of the LN-960: byte, half, word, double word, lane mask (R2, R3), and the plainest
conversions between lists of bytes and numbers. -/
namespace Sys2Proof

/-- A byte of memory. -/
abbrev Byte := BitVec 8
/-- A 16-bit half register. -/
abbrev Half := BitVec 16
/-- A 32-bit register. -/
abbrev Word := BitVec 32
/-- A 64-bit operand: a register pair, a virtual address, an instruction word. -/
abbrev DWord := BitVec 64
/-- One bit per lane of a wave, bit l for lane l. -/
abbrev LaneMask := BitVec 32

/-- R3: the number whose bytes are listed from the lowest address (little-endian). -/
def leNat : List Byte → Nat
  | [] => 0
  | b :: bs => b.toNat + 256 * leNat bs

/-- R3: the `n` low bytes of `x`, the lowest address first. -/
def leBytes : Nat → Nat → List Byte
  | 0, _ => []
  | n + 1, x => BitVec.ofNat 8 x :: leBytes n (x / 256)

/-- The `n` low bytes of `x`, the most significant first (digests and signatures). -/
def beBytes (n x : Nat) : List Byte := (leBytes n x).reverse

/-- The number whose bytes are listed most significant first. -/
def beNat (bs : List Byte) : Nat := leNat bs.reverse

/-- Bits [hi:lo] of a number, as a number (R2). -/
def bits (x hi lo : Nat) : Nat := x / 2 ^ lo % 2 ^ (hi + 1 - lo)

/-- Bit `n` of a number (R2). -/
def bitAt (x n : Nat) : Bool := x / 2 ^ n % 2 == 1

/-- A Bool as 0 or 1. -/
def bn (b : Bool) : Nat := if b then 1 else 0

/-- The signed value of the low `w` bits of `x`. -/
def sx (w x : Nat) : Int :=
  let y := x % 2 ^ w
  if 2 * y < 2 ^ w then (y : Int) else (y : Int) - (2 ^ w : Nat)

/-- The `w` low bits of an integer (R22: wraps modulo 2^w). -/
def wrapNat (w : Nat) (x : Int) : Nat := (x % ((2 ^ w : Nat) : Int)).toNat

/-- Bit `l` of a lane mask. -/
def inMask (m : LaneMask) (l : Nat) : Bool := m.getLsbD l

/-- The mask of the lanes of 0 to 31 that satisfy `f`. -/
def maskOf (f : Nat → Bool) : LaneMask :=
  BitVec.ofNat 32 ((List.range 32).foldl (fun a l => if f l then a + 2 ^ l else a) 0)

/-- The lanes of a mask in ascending order. -/
def lanesOf (m : LaneMask) : List Nat := (List.range 32).filter (inMask m)

/-- The lowest lane of a mask, when there is one. -/
def lowest (m : LaneMask) : Option Nat := (lanesOf m).head?

end Sys2Proof
end

