-- ==== Sys2Proof/Config.lean ====
section
/-! DEFINITION. What one implementation fixes and the reference does not, and the free values: constants without a body,
so that nothing can be proved of their values. Every one has an entry in notes/assumptions. -/
namespace Sys2Proof.Config

/-- R4: the n-th undefined 32-bit value the device produces. The argument is the machine's own counter (log 1). -/
opaque freeWord : Nat → Word
/-- R50: whether a read of a pending destination (counter, register, lane) gets the landed value already (log 6). -/
opaque readsLanded : Nat → Nat → Nat → Bool
/-- R50: of two results that share a destination register in a lane, whether the later landing stands (log 6). -/
opaque laterStands : Nat → Nat → Nat → Bool
/-- R220, R222: the choice of the implementation among the values the accuracy bound of a special function allows, by
function code and operand bits (log 8). -/
opaque sfuChoice : Nat → Nat → Nat
/-- R83, R96: the SHA-384 digest of the firmware image that runs after reset. -/
opaque fwDigest : BitVec 384
/-- R84: the version of the firmware that runs after reset. -/
opaque fwVersion : BitVec 64
/-- R99: the secret of a P-384 key of the device: 0 identity, g alias of generation g (log 119). -/
opaque p384Secret : Nat → BitVec 384
/-- R98: the per-signature number of an ECDSA signature of a key over a body (log 119). -/
opaque ecdsaNonce : Nat → Nat → BitVec 384
/-- R98: the identifier I of an LMS tree: key, level, index (log 119). -/
opaque lmsIdent : Nat → Nat → Nat → BitVec 128
/-- R98: a secret element of an LM-OTS key: key, level, index, 64 × leaf + chain (log 119). -/
opaque lmsSecret : Nat → Nat → Nat → Nat → BitVec 256
/-- R98: the randomizer C of an LM-OTS signature: key, level, index, leaf (log 119). -/
opaque lmsRandom : Nat → Nat → Nat → Nat → BitVec 256
/-- R117: the bytes of a certificate item (0, 1 or 3) of the key store. -/
opaque certificate : Nat → List Byte
/-- R100: whether the n-th reservation write to key-store flash succeeds. -/
opaque flashWriteOk : Nat → Bool
/-- R118: the firmware-private part of the n-th crash record (3,460 bytes). -/
opaque crashPrivate : Nat → BitVec 27680
/-- R439: the microjoules an island spends in one microsecond of device time (time, island). -/
opaque islandEnergy : Nat → Nat → Nat
/-- R440: the array clocks of the n-th MXE command. -/
opaque arrayClocks : Nat → Nat
/-- R440: the line transfers of a context with work on a cache-die or HBM island in the interval that ends at a device time. -/
opaque lineTransfers : Nat → Nat → Nat → Nat
/-- R80: the slice that is the home of a 128-byte line of device memory (log 162). -/
opaque homeSlice : Nat → Nat
/-- R415: the replays of the host port's link in the microsecond that begins at a device time. -/
opaque hostReplays : Nat → Nat
/-- R415, R416: the host physical base that host software programs into the HDM decoder (log 159). -/
opaque hdmBase : Nat
/-- R417: the slots that a flit sent while the model's counter stands at a number returns: requests in the low byte, responses in the next
(log 158). -/
opaque flitCredits : Nat → BitVec 16
/-- R443: the predicted end of life in hours that an island's monitors report at a device time. -/
opaque wearHours : Nat → Nat → Word
/-- R435: the clocks that pass on a core while the model's counter of free values stands at a number (core, number). -/
opaque coreClocks : Nat → Nat → Nat
/-- R96, R435: the nanoseconds that pass while the model's counter stands at a number. -/
opaque nanoClocks : Nat → Nat
/-- R421, R422: the firmware digest that the peer package reports when the model's counter stands at a number. -/
opaque peerDigest : Nat → BitVec 384
/-- R421: whether the peer package holds no context when the model's counter stands at a number. -/
opaque peerFree : Nat → Bool
/-- R14: the limit in milliwatts that the peer package of a card has been given by the time the model's counter stands at a number, if any. -/
opaque peerLimit : Nat → Option Nat
/-- R15, R442: while the package draws more than its budget at a device time, the number of the lowest priorities whose admissions are
deferred (log 121). -/
opaque deferredPriorities : Nat → Nat
/-- R11, R445: of a group of eight consecutive 2 MiB frames of device memory, the HBM stack that holds the first (log 122). -/
opaque hbmTurn : Nat → Nat
/-- R278: which entry of a full TLB a new one replaces, while the model's counter stands at a number (log 96). -/
opaque tlbVictim : Nat → Nat
/-- R281: which Lighter of a partition performs a COPY, while the model's counter stands at a number (log 131). -/
opaque copyLighter : Nat → Nat
/-- R447: whether Boot ROM verifies the firmware image at a boot, by boot count. -/
opaque fwVerified : Nat → Bool
/-- R82: ARCHVER, version 1.0. -/
def archver : Word := 0x00010000
/-- R82: STEPPING, B0. -/
def stepping : Word := 0xB0
/-- R270, R419: bytes of device memory of one package. -/
def hbmBytes : Nat := 0x8000000000
/-- R117: the key statement and certificate area limit. -/
def keyItemMax : Nat := 16368

end Sys2Proof.Config
end

