-- ==== Sys2Proof/Syntax.lean ====
section
/-! DEFINITION. The instruction set and the events of the LN-960: the five instruction formats of R57 and R58, and the
one inductive `Instr` with one constructor per row of spec/opcode_table.json. -/
namespace Sys2Proof

/-- Format F3 (R57, R58): the register format. -/
structure F3 where
  pred : BitVec 4
  mod : BitVec 4
  d : BitVec 8
  a : BitVec 8
  b : BitVec 8
  c : BitVec 8
  fmt : BitVec 4
  rnd : BitVec 3
  sat : Bool
  markA : Bool
  markB : Bool
  markC : Bool
  reuse : Bool
  negA : Bool
  negB : Bool
  absA : Bool
  absB : Bool
  deriving DecidableEq, Repr, Inhabited

/-- Format FI (R57, R58): a 32-bit immediate. -/
structure FI where
  pred : BitVec 4
  mod : BitVec 4
  d : BitVec 8
  a : BitVec 8
  imm : Word
  deriving DecidableEq, Repr, Inhabited

/-- Format FM (R57, R58): memory access with scope, order, token and offset. -/
structure FM where
  pred : BitVec 4
  mod : BitVec 4
  d : BitVec 8
  a : BitVec 8
  b : BitVec 8
  scope : BitVec 3
  order : BitVec 2
  wk : BitVec 4
  tv : Bool
  off : BitVec 14
  deriving DecidableEq, Repr, Inhabited

/-- Format FB (R57, R58): a signed clause offset in 8-byte words. -/
structure FB where
  pred : BitVec 4
  mod : BitVec 4
  d : BitVec 8
  a : BitVec 8
  off : Word
  deriving DecidableEq, Repr, Inhabited

/-- Format FE (R57, R58): engine and record commands. -/
structure FE where
  pred : BitVec 4
  mod : BitVec 4
  d : BitVec 8
  a : BitVec 8
  b : BitVec 8
  c : BitVec 8
  imm : BitVec 16
  deriving DecidableEq, Repr, Inhabited

/-- The rows of spec/opcode_table.json: the instruction forms of R68 first, then the events (the part's other steps; first those
that `State.autoEvent` names: the compiler runs constructors with arguments up to number 244 only), whose arguments name the agent or carry what the host or a link hands to the device. -/
inductive Instr where
  /-- NOP, R181: opcode 0x00, class CTL. -/
  | nop (f : F3)
  /-- BRA, R183: opcode 0x01, class CTL. -/
  | bra (f : FB)
  /-- BRX, R183: opcode 0x02, class CTL. -/
  | brx (f : F3)
  /-- CALL, R183: opcode 0x03, class CTL. -/
  | call (f : FB)
  /-- CALLX, R183: opcode 0x04, class CTL. -/
  | callx (f : F3)
  /-- RET, R183: opcode 0x05, class CTL. -/
  | ret (f : F3)
  /-- MEET, R185: opcode 0x06, class CTL. -/
  | meet (f : FB)
  /-- MVMEET, R186: opcode 0x07, class CTL. -/
  | mvmeet (f : F3)
  /-- JMOP, R187: opcode 0x08, class CTL. -/
  | jmop (f : F3)
  /-- EXIT, R161: opcode 0x09, class CTL. -/
  | exit (f : F3)
  /-- YIELD, R162: opcode 0x0A, class CTL. -/
  | yield (f : F3)
  /-- SLEEP, R164: opcode 0x0B, class CTL. -/
  | sleep (f : FI)
  /-- REGION, R165: opcode 0x0C, class CTL. -/
  | region (f : FI)
  /-- SPAWN, R167: opcode 0x0D, class CTL. -/
  | spawn (f : F3)
  /-- LAUNCH, R139: opcode 0x0E, class CTL. -/
  | launch (f : F3)
  /-- WAITKIDS, R140: opcode 0x0F, class CTL. -/
  | waitkids (f : F3)
  /-- MOV, R191: opcode 0x10, class VEC. -/
  | mov (f : F3)
  /-- MOVI, R191: opcode 0x11, class VEC. -/
  | movi (f : FI)
  /-- MOVW, R191: opcode 0x12, class VEC. -/
  | movw (f : F3)
  /-- SEL, R191: opcode 0x13, class VEC. -/
  | sel (f : F3)
  /-- IADD, R192: opcode 0x14, class VEC. -/
  | iadd (f : F3)
  /-- IADDC, R193: opcode 0x15, class VEC. -/
  | iaddc (f : F3)
  /-- ISUB, R192: opcode 0x16, class VEC. -/
  | isub (f : F3)
  /-- ISUBB, R193: opcode 0x17, class VEC. -/
  | isubb (f : F3)
  /-- IMUL, R192: opcode 0x18, class VEC. -/
  | imul (f : F3)
  /-- IMULH, R192: opcode 0x19, class VEC. -/
  | imulh (f : F3)
  /-- IMAD, R192: opcode 0x1A, class VEC. -/
  | imad (f : F3)
  /-- IMADW, R194: opcode 0x1B, class VEC. -/
  | imadw (f : F3)
  /-- IADDI, R192: opcode 0x1C, class VEC. -/
  | iaddi (f : FI)
  /-- IMIN, R192: opcode 0x1D, class VEC. -/
  | imin (f : F3)
  /-- IMAX, R192: opcode 0x1E, class VEC. -/
  | imax (f : F3)
  /-- IABS, R192: opcode 0x1F, class VEC. -/
  | iabs (f : F3)
  /-- INEG, R192: opcode 0x20, class VEC. -/
  | ineg (f : F3)
  /-- ISAD, R192: opcode 0x21, class VEC. -/
  | isad (f : F3)
  /-- IDP4, R195: opcode 0x22, class VEC. -/
  | idp4 (f : F3)
  /-- IDP2, R195: opcode 0x23, class VEC. -/
  | idp2 (f : F3)
  /-- SHL, R196: opcode 0x24, class VEC. -/
  | shl (f : F3)
  /-- SHR, R196: opcode 0x25, class VEC. -/
  | shr (f : F3)
  /-- SAR, R196: opcode 0x26, class VEC. -/
  | sar (f : F3)
  /-- FSH, R196: opcode 0x27, class VEC. -/
  | fsh (f : F3)
  /-- ROT, R196: opcode 0x28, class VEC. -/
  | rot (f : F3)
  /-- LOP3, R197: opcode 0x29, class VEC. -/
  | lop3 (f : F3)
  /-- ANDI, R197: opcode 0x2A, class VEC. -/
  | andi (f : FI)
  /-- ORI, R197: opcode 0x2B, class VEC. -/
  | ori (f : FI)
  /-- XORI, R197: opcode 0x2C, class VEC. -/
  | xori (f : FI)
  /-- BFE, R198: opcode 0x2D, class VEC. -/
  | bfe (f : F3)
  /-- BFI, R198: opcode 0x2E, class VEC. -/
  | bfi (f : F3)
  /-- POPC, R198: opcode 0x2F, class VEC. -/
  | popc (f : F3)
  /-- CLZ, R198: opcode 0x30, class VEC. -/
  | clz (f : F3)
  /-- CTZ, R198: opcode 0x31, class VEC. -/
  | ctz (f : F3)
  /-- BREV, R198: opcode 0x32, class VEC. -/
  | brev (f : F3)
  /-- ISET, R200: opcode 0x33, class VEC. -/
  | iset (f : F3)
  /-- ISETI, R201: opcode 0x34, class VEC. -/
  | iseti (f : FI)
  /-- PLOP, R202: opcode 0x35, class VEC. -/
  | plop (f : F3)
  /-- VOTE, R203: opcode 0x36, class VEC. -/
  | vote (f : F3)
  /-- SHFL, R204: opcode 0x37, class VEC. -/
  | shfl (f : F3)
  /-- BCAST, R204: opcode 0x38, class VEC. -/
  | bcast (f : F3)
  /-- LEA, R205: opcode 0x39, class VEC. -/
  | lea (f : F3)
  /-- IADDW, R205: opcode 0x3A, class VEC. -/
  | iaddw (f : F3)
  /-- SHW, R196: opcode 0x3B, class VEC. -/
  | shw (f : F3)
  /-- CVTI, R206: opcode 0x3C, class VEC. -/
  | cvti (f : F3)
  /-- PRMT, R199: opcode 0x3D, class VEC. -/
  | prmt (f : F3)
  /-- FADD, R210: opcode 0x40, class VEC. -/
  | fadd (f : F3)
  /-- FMUL, R210: opcode 0x41, class VEC. -/
  | fmul (f : F3)
  /-- FFMA, R210: opcode 0x42, class VEC. -/
  | ffma (f : F3)
  /-- FMIN, R211: opcode 0x43, class VEC. -/
  | fmin (f : F3)
  /-- FMAX, R211: opcode 0x44, class VEC. -/
  | fmax (f : F3)
  /-- FCLMP, R211: opcode 0x45, class VEC. -/
  | fclmp (f : F3)
  /-- FSET, R212: opcode 0x46, class VEC. -/
  | fset (f : F3)
  /-- FRND, R213: opcode 0x47, class VEC. -/
  | frnd (f : F3)
  /-- FADDI, R210: opcode 0x48, class VEC. -/
  | faddi (f : FI)
  /-- FMULI, R210: opcode 0x49, class VEC. -/
  | fmuli (f : FI)
  /-- FCLASS, R214: opcode 0x4A, class VEC. -/
  | fclass (f : F3)
  /-- FSCALE, R215: opcode 0x4B, class VEC. -/
  | fscale (f : F3)
  /-- FEXPT, R215: opcode 0x4C, class VEC. -/
  | fexpt (f : F3)
  /-- FMANT, R215: opcode 0x4D, class VEC. -/
  | fmant (f : F3)
  /-- DADD, R216: opcode 0x50, class VEC. -/
  | dadd (f : F3)
  /-- DMUL, R216: opcode 0x51, class VEC. -/
  | dmul (f : F3)
  /-- DFMA, R216: opcode 0x52, class VEC. -/
  | dfma (f : F3)
  /-- DMIN, R216: opcode 0x53, class VEC. -/
  | dmin (f : F3)
  /-- DMAX, R216: opcode 0x54, class VEC. -/
  | dmax (f : F3)
  /-- DSET, R216: opcode 0x55, class VEC. -/
  | dset (f : F3)
  /-- DRND, R216: opcode 0x56, class VEC. -/
  | drnd (f : F3)
  /-- HADD2, R217: opcode 0x58, class VEC. -/
  | hadd2 (f : F3)
  /-- HMUL2, R217: opcode 0x59, class VEC. -/
  | hmul2 (f : F3)
  /-- HFMA2, R217: opcode 0x5A, class VEC. -/
  | hfma2 (f : F3)
  /-- HMIN2, R217: opcode 0x5B, class VEC. -/
  | hmin2 (f : F3)
  /-- HMAX2, R217: opcode 0x5C, class VEC. -/
  | hmax2 (f : F3)
  /-- HSET2, R218: opcode 0x5D, class VEC. -/
  | hset2 (f : F3)
  /-- RCP, R219: opcode 0x60, class VEC. -/
  | rcp (f : F3)
  /-- RSQ, R219: opcode 0x61, class VEC. -/
  | rsq (f : F3)
  /-- SQRT, R219: opcode 0x62, class VEC. -/
  | sqrt (f : F3)
  /-- EXP2, R219: opcode 0x63, class VEC. -/
  | exp2 (f : F3)
  /-- LOG2, R219: opcode 0x64, class VEC. -/
  | log2 (f : F3)
  /-- SINCY, R219: opcode 0x65, class VEC. -/
  | sincy (f : F3)
  /-- COSCY, R219: opcode 0x66, class VEC. -/
  | coscy (f : F3)
  /-- TANH, R219: opcode 0x67, class VEC. -/
  | tanh (f : F3)
  /-- SIGM, R219: opcode 0x68, class VEC. -/
  | sigm (f : F3)
  /-- DRCP, R219: opcode 0x69, class VEC. -/
  | drcp (f : F3)
  /-- DRSQ, R219: opcode 0x6A, class VEC. -/
  | drsq (f : F3)
  /-- F2I, R223: opcode 0x6C, class VEC. -/
  | f2i (f : F3)
  /-- I2F, R224: opcode 0x6D, class VEC. -/
  | i2f (f : F3)
  /-- F2F, R225: opcode 0x6E, class VEC. -/
  | f2f (f : F3)
  /-- F2FP, R226: opcode 0x6F, class VEC. -/
  | f2fp (f : F3)
  /-- MMA_F16, R344: opcode 0x70, class MTX. -/
  | mmaF16 (f : F3)
  /-- MMA_BF16, R344: opcode 0x71, class MTX. -/
  | mmaBf16 (f : F3)
  /-- MMA_E4, R344: opcode 0x72, class MTX. -/
  | mmaE4 (f : F3)
  /-- MMA_E5, R344: opcode 0x73, class MTX. -/
  | mmaE5 (f : F3)
  /-- MMA_ZB8, R344: opcode 0x74, class MTX. -/
  | mmaZb8 (f : F3)
  /-- MMA_ZB5, R344: opcode 0x75, class MTX. -/
  | mmaZb5 (f : F3)
  /-- MMA_ZB3, R344: opcode 0x76, class MTX. -/
  | mmaZb3 (f : F3)
  /-- MMA_I8, R344: opcode 0x77, class MTX. -/
  | mmaI8 (f : F3)
  /-- ZBPACK, R346: opcode 0x79, class VEC. -/
  | zbpack (f : F3)
  /-- ZBUNP, R347: opcode 0x7A, class VEC. -/
  | zbunp (f : F3)
  /-- ZBEXP, R348: opcode 0x7B, class VEC. -/
  | zbexp (f : F3)
  /-- LD, R250: opcode 0x80, class MEM. -/
  | ld (f : FM)
  /-- ST, R250: opcode 0x81, class MEM. -/
  | st (f : FM)
  /-- LDL, R251: opcode 0x82, class MEM. -/
  | ldl (f : FM)
  /-- STL, R251: opcode 0x83, class MEM. -/
  | stl (f : FM)
  /-- LDLW, R251: opcode 0x84, class MEM. -/
  | ldlw (f : FM)
  /-- LDP, R252: opcode 0x85, class MEM. -/
  | ldp (f : FM)
  /-- STP, R252: opcode 0x86, class MEM. -/
  | stp (f : FM)
  /-- LDC, R253: opcode 0x87, class MEM. -/
  | ldc (f : FM)
  /-- ATOM, R256: opcode 0x88, class MEM. -/
  | atom (f : FM)
  /-- ACAS, R257: opcode 0x89, class MEM. -/
  | acas (f : FM)
  /-- ATOML, R256: opcode 0x8A, class MEM. -/
  | atoml (f : FM)
  /-- ACASL, R257: opcode 0x8B, class MEM. -/
  | acasl (f : FM)
  /-- FENCE, R259: opcode 0x8C, class MEM. -/
  | fence (f : FM)
  /-- PREF, R260: opcode 0x8D, class MEM. -/
  | pref (f : FM)
  /-- CCTL, R261: opcode 0x8E, class MEM. -/
  | cctl (f : FM)
  /-- LDZ, R263: opcode 0x8F, class MEM. -/
  | ldz (f : FM)
  /-- STZ, R263: opcode 0x90, class MEM. -/
  | stz (f : FM)
  /-- FPUT, R311: opcode 0x91, class MEM. -/
  | fput (f : FM)
  /-- FGET, R311: opcode 0x92, class MEM. -/
  | fget (f : FM)
  /-- FTRY, R311: opcode 0x93, class MEM. -/
  | ftry (f : FM)
  /-- LCOPY, R295: opcode 0x94, class MEM. -/
  | lcopy (f : FE)
  /-- LCOPYO, R295: opcode 0x95, class MEM. -/
  | lcopyo (f : FE)
  /-- TCOPY, R298: opcode 0x96, class MEM. -/
  | tcopy (f : FE)
  /-- TCOPYO, R298: opcode 0x97, class MEM. -/
  | tcopyo (f : FE)
  /-- TRED, R298: opcode 0x98, class MEM. -/
  | tred (f : FE)
  /-- TAG, R301: opcode 0x99, class MEM. -/
  | tag (f : FM)
  /-- TAGQ, R301: opcode 0x9A, class MEM. -/
  | tagq (f : FM)
  /-- ACINIT, R309: opcode 0x9B, class MEM. -/
  | acinit (f : FM)
  /-- ACADD, R309: opcode 0x9C, class MEM. -/
  | acadd (f : FM)
  /-- ACWAIT, R309: opcode 0x9D, class MEM. -/
  | acwait (f : FM)
  /-- TEX, R268: opcode 0x9E, class MEM. -/
  | tex (f : FE)
  /-- TEXF, R268: opcode 0x9F, class MEM. -/
  | texf (f : FE)
  /-- BAR, R305: opcode 0xB0, class CTL. -/
  | bar (f : FI)
  /-- BARG, R305: opcode 0xB1, class CTL. -/
  | barg (f : FI)
  /-- ELECT, R307: opcode 0xB2, class CTL. -/
  | elect (f : F3)
  /-- PBIND, R334: opcode 0xB3, class MEM. -/
  | pbind (f : FM)
  /-- PLD, R333: opcode 0xB4, class MEM. -/
  | pld (f : FM)
  /-- PLDX, R333: opcode 0xB5, class MEM. -/
  | pldx (f : FM)
  /-- PST, R332: opcode 0xB6, class MEM. -/
  | pst (f : FM)
  /-- PSTP, R332: opcode 0xB7, class MEM. -/
  | pstp (f : FM)
  /-- PSTEP, R327: opcode 0xB8, class MEM. -/
  | pstep (f : FM)
  /-- PQRY, R334: opcode 0xB9, class MEM. -/
  | pqry (f : FM)
  /-- DOCK, R402: opcode 0xC0, class RAY. -/
  | dock (f : FE)
  /-- RTRACE, R381: opcode 0xC1, class RAY. -/
  | rtrace (f : FE)
  /-- RENQ, R403: opcode 0xC2, class RAY. -/
  | renq (f : FE)
  /-- RRETIRE, R404: opcode 0xC3, class RAY. -/
  | rretire (f : FE)
  /-- RLD, R383: opcode 0xC4, class RAY. -/
  | rld (f : FE)
  /-- RST, R383: opcode 0xC5, class RAY. -/
  | rst (f : FE)
  /-- RHIT, R382: opcode 0xC6, class RAY. -/
  | rhit (f : FE)
  /-- RKEY, R384: opcode 0xC7, class RAY. -/
  | rkey (f : FE)
  /-- RACC, R385: opcode 0xC8, class RAY. -/
  | racc (f : FE)
  /-- RSTAT, R405: opcode 0xC9, class RAY. -/
  | rstat (f : FE)
  /-- SHLD, R364: opcode 0xD0, class ENG. -/
  | shld (f : FE)
  /-- SHSET, R364: opcode 0xD1, class ENG. -/
  | shset (f : FE)
  /-- SHGET, R364: opcode 0xD2, class ENG. -/
  | shget (f : FE)
  /-- MXGEMM, R358: opcode 0xD3, class ENG. -/
  | mxgemm (f : FE)
  /-- MXCONV, R358: opcode 0xD4, class ENG. -/
  | mxconv (f : FE)
  /-- MXELT, R362: opcode 0xD5, class ENG. -/
  | mxelt (f : FE)
  /-- MXLDA, R363: opcode 0xD6, class ENG. -/
  | mxlda (f : FE)
  /-- MXSTA, R363: opcode 0xD7, class ENG. -/
  | mxsta (f : FE)
  /-- MXWAIT, R364: opcode 0xD8, class ENG. -/
  | mxwait (f : FE)
  /-- MXQRY, R364: opcode 0xD9, class ENG. -/
  | mxqry (f : FE)
  /-- SRD, R431: opcode 0xE0, class CTL. -/
  | srd (f : FI)
  /-- SWR, R431: opcode 0xE1, class CTL. -/
  | swr (f : FI)
  /-- TRAP, R433: opcode 0xE2, class CTL. -/
  | trap (f : FI)
  /-- TRET, R434: opcode 0xE3, class CTL. -/
  | tret (f : F3)
  /-- MEASURE, R91: opcode 0xE4, class CTL. -/
  | measure (f : FE)
  /-- CLOCK, R435: opcode 0xE5, class CTL. -/
  | clock (f : F3)
  /-- ECNT, R441: opcode 0xE6, class CTL. -/
  | ecnt (f : FI)
  /-- SIGNAL, R121: opcode 0xE7, class CTL. -/
  | signal (f : FM)
  /-- ISSUE_SELECT, R154. -/
  | issueSelect (core : Nat) (quad : Nat)
  /-- RESULT_LANDS, R49. -/
  | resultLands (wave : Nat) (n : Nat)
  /-- PARK_RELEASE, R148. -/
  | parkRelease (wave : Nat) (n : Nat)
  /-- TAKE_TRAP, R427. -/
  | takeTrap (wave : Nat)
  /-- CLAUSE_REPLAY, R53. -/
  | clauseReplay (wave : Nat)
  /-- SLEEP_EXPIRY, R164. -/
  | sleepExpiry (wave : Nat)
  /-- TEAM_ADMIT, R151. -/
  | teamAdmit (part : Nat)
  /-- GANG_PLACE, R150. -/
  | gangPlace (part : Nat)
  /-- TEAM_PARK, R152. -/
  | teamPark (team : Nat)
  /-- TEAM_UNPARK, R153. -/
  | teamUnpark (core : Nat)
  /-- TEAM_RETIRE, R149. -/
  | teamRetire (team : Nat)
  /-- LCOPY_COMPLETE, R295. -/
  | lcopyComplete (job : Nat)
  /-- LCOPYO_COMPLETE, R295. -/
  | lcopyoComplete (job : Nat)
  /-- TCOPY_ARRIVAL, R298. -/
  | tcopyArrival (job : Nat) (team : Nat)
  /-- TRED_ARRIVAL, R299. -/
  | tredArrival (job : Nat) (team : Nat)
  /-- TCOPYO_COMPLETE, R298. -/
  | tcopyoComplete (job : Nat)
  /-- TILE_TRANSFER_ACKNOWLEDGED, R291. -/
  | tileTransferAcknowledged (job : Nat)
  /-- MXE_COMMAND_START, R354. -/
  | mxeCommandStart (cmd : Nat)
  /-- MXE_COMMAND_COMPLETE, R361. -/
  | mxeCommandComplete (cmd : Nat)
  /-- MXE_ISLAND_POWER_UP, R16. -/
  | mxeIslandPowerUp (cluster : Nat)
  /-- CHILD_GRID_DECODE, R137. -/
  | childGridDecode (grid : Nat)
  /-- GRID_RETIRE, R133. -/
  | gridRetire (grid : Nat)
  /-- GRAPH_NODE_COMPLETE, R143. -/
  | graphNodeComplete (queue : Nat) (pkt : Nat) (node : Nat)
  /-- NOP_PACKET, R105. -/
  | nopPacket (queue : Nat)
  /-- LAUNCH_PACKET, R105. -/
  | launchPacket (queue : Nat)
  /-- GRAPH_PACKET, R142. -/
  | graphPacket (queue : Nat)
  /-- FLOW_START, R400. -/
  | flowStart (queue : Nat)
  /-- FLOW_QUIESCE, R401. -/
  | flowQuiesce (queue : Nat)
  /-- FLOW_STOP, R401. -/
  | flowStop (queue : Nat)
  /-- COPY_PACKET, R105. -/
  | copyPacket (queue : Nat)
  /-- SIGNAL_PACKET, R105. -/
  | signalPacket (queue : Nat)
  /-- WAIT_PACKET, R108. -/
  | waitPacket (queue : Nat)
  /-- PSTEP_PACKET, R328. -/
  | pstepPacket (queue : Nat)
  /-- MEASURE_PACKET, R87. -/
  | measurePacket (queue : Nat)
  /-- RECEIPT_PACKET, R95. -/
  | receiptPacket (queue : Nat)
  /-- FENCE_PACKET, R105. -/
  | fencePacket (queue : Nat)
  /-- ENERGY_BUDGET, R13. -/
  | energyBudget (queue : Nat)
  /-- ENERGY_ALLOWANCE, R442. -/
  | energyAllowance (queue : Nat)
  /-- MARKER_PACKET, R105. -/
  | markerPacket (queue : Nat)
  /-- PACKET_COMPLETE, R106. -/
  | packetComplete (queue : Nat) (pkt : Nat)
  /-- WAIT_REREAD, R108. -/
  | waitReread (queue : Nat)
  /-- WAIT_TIMEOUT, R108. -/
  | waitTimeout (queue : Nat)
  /-- QUEUE_SLOT_GRANT, R113. -/
  | queueSlotGrant (queue : Nat)
  /-- QUEUE_MAPPING_DONE, R112. -/
  | queueMappingDone (queue : Nat)
  /-- QUEUE_UNMAP, R112. -/
  | queueUnmap (queue : Nat)
  /-- QUEUE_UNMAP_DONE, R112. -/
  | queueUnmapDone (queue : Nat)
  /-- CONTEXT_QUIESCED, R77. -/
  | contextQuiesced (ctx : Nat)
  /-- CHAIN_APPEND, R84. -/
  | chainAppend (ctx : Nat)
  /-- PREEMPT, R436. -/
  | preempt (ctx : Nat)
  /-- PREEMPT_COMPLETE, R437. -/
  | preemptComplete (ctx : Nat)
  /-- CONTEXT_RESTORE, R438. -/
  | contextRestore (ctx : Nat)
  /-- BIN_PATIENCE_EXPIRY, R391. -/
  | binPatienceExpiry (rec : Nat)
  /-- BATCH_DELIVERY, R396. -/
  | batchDelivery (slice : Nat)
  /-- BERTH_RETARGET, R397. -/
  | berthRetarget (wave : Nat)
  /-- SPILL_RETURN, R388. -/
  | spillReturn (rec : Nat)
  /-- ROOT_TASK_CREATE, R401. -/
  | rootTaskCreate (flow : Nat)
  /-- NODE_STEP, R375. -/
  | nodeStep (rec : Nat)
  /-- ENERGY_ATTRIBUTION, R440. -/
  | energyAttribution (island : Nat)
  /-- RESERVED_KIND_PACKET, R105. -/
  | reservedKindPacket (queue : Nat)
  /-- FIFOMAP_WRITE, R289. -/
  | fifomapWrite (team : Nat) (val : BitVec 32)
  /-- OCTANT_MODE_SWITCH, R284. -/
  | octantModeSwitch (core : Nat) (oct : Nat) (mode : Nat)
  /-- OCTANT_DRAIN_COMPLETE, R284. -/
  | octantDrainComplete (core : Nat) (oct : Nat)
  /-- ENGINE_WATCHDOG, R430. -/
  | engineWatchdog (cmd : Nat)
  /-- WAKE_REGISTER_WRITE, R110. -/
  | wakeRegisterWrite (queue : Nat)
  /-- MBXBASE_WRITE, R116. -/
  | mbxbaseWrite (val : BitVec 64)
  /-- MBXDOOR_WRITE, R116. -/
  | mbxdoorWrite (val : BitVec 64)
  /-- CREATE_CONTEXT, R75. -/
  | createContext
  /-- SUSPEND, R77. -/
  | suspend
  /-- RESUME, R77. -/
  | resume
  /-- DESTROY, R77. -/
  | destroy
  /-- RECEIPT_CONTEXT, R95. -/
  | receiptContext
  /-- PARTITION, R79. -/
  | partition
  /-- CREATE_QUEUE, R102. -/
  | createQueue
  /-- DESTROY_QUEUE, R112. -/
  | destroyQueue
  /-- RESET_QUEUE, R112. -/
  | resetQueue
  /-- LOGBOOK_READ, R118. -/
  | logbookRead
  /-- LOGBOOK_CLEAR, R118. -/
  | logbookClear
  /-- KEY_READ, R117. -/
  | keyRead
  /-- ALIAS_GENERATION_CREATE, R99. -/
  | aliasGenerationCreate
  /-- RSSIZE_WRITE, R387. -/
  | rssizeWrite (val : BitVec 64)
  /-- PFRESOLVE_RETRY, R279. -/
  | pfresolveRetry (token : Nat)
  /-- PFRESOLVE_FAIL, R279. -/
  | pfresolveFail (token : Nat)
  /-- INVALIDATE_RANGE, R281. -/
  | invalidateRange (val : BitVec 64)
  /-- INVALIDATE_CONTEXT, R281. -/
  | invalidateContext (val : BitVec 64)
  /-- INVALIDATION_COMPLETE, R281. -/
  | invalidationComplete
  /-- HOST_REGISTER_WRITE, R281. -/
  | hostRegisterWrite (off : Nat) (val : BitVec 64)
  /-- DBGSTOP_WRITE, R429. -/
  | dbgstopWrite (val : BitVec 64)
  /-- LNKCTL_ENABLE_SET, R422. -/
  | lnkctlEnableSet (port : Nat)
  /-- LNKCTL_ENABLE_CLEAR, R422. -/
  | lnkctlEnableClear (port : Nat)
  /-- LNKCTL_RETRAIN, R422. -/
  | lnkctlRetrain (port : Nat)
  /-- PAGE_WALK_COMPLETE, R279. -/
  | pageWalkComplete (ctx : Nat) (va : Nat) (access : Nat) (agent : Nat)
  /-- EBC_SHARE_INTERVAL, R14. -/
  | ebcShareInterval (demand0 : Nat) (demand1 : Nat)
  /-- ENERGY_COUNTER_TICK, R439. -/
  | energyCounterTick
  /-- WEAR_REFRESH, R443. -/
  | wearRefresh
  /-- CORRECTABLE_ERROR, R444. -/
  | correctableError (unit : BitVec 24)
  /-- UNCORRECTABLE_ERROR, R444. -/
  | uncorrectableError (unit : BitVec 24) (cause : Nat) (target : Nat) (lanes : BitVec 32)
  /-- UNIT_SELF_TEST_COMPLETE, R445. -/
  | unitSelfTestComplete (unit : BitVec 24) (pass : Bool)
  /-- PILOT_EXCEPTION, R119. -/
  | pilotException (pilot : Nat) (cause : BitVec 64) (pc : BitVec 64) (addr : BitVec 64)
  /-- PILOT_WATCHDOG, R119. -/
  | pilotWatchdog (pilot : Nat)
  /-- PILOT_COMPLEX_RESTART, R119. -/
  | pilotComplexRestart
  /-- PACKAGE_RESET, R447. -/
  | packageReset
  /-- POWER_ON, R447. -/
  | powerOn
  /-- LINK_TRAINED, R422. -/
  | linkTrained (port : Nat) (width : Nat)
  /-- LINK_TRAINING_TIMEOUT, R422. -/
  | linkTrainingTimeout (port : Nat)
  /-- LINK_RETRAIN_TRIGGER, R422. -/
  | linkRetrainTrigger (port : Nat)
  /-- LINK_RETRAIN_TIMEOUT, R422. -/
  | linkRetrainTimeout (port : Nat)
  /-- HAWSER_FLIT_RECEIVE, R418. -/
  | hawserFlitReceive (port : Nat) (flit : BitVec 2048)
  /-- HAWSER_NAK_RECEIVE, R418. -/
  | hawserNakReceive (port : Nat) (ackseq : BitVec 10)
  /-- MESH_PACKET_DROP, R410. -/
  | meshPacketDrop (pkt : Nat)
  /-- MESH_RESEND, R410. -/
  | meshResend (pkt : Nat)
  /-- CXL_MEM_ACCESS, R415. -/
  | cxlMemAccess (write : Bool) (addr : Nat) (val : BitVec 64)
  /-- POWER_LOSS, R101. -/
  | powerLoss
  /-- MXE_ISLAND_POWER_DOWN, R16. -/
  | mxeIslandPowerDown (cluster : Nat)
  /-- PEER_PACKAGE_RESET, R430. -/
  | peerPackageReset
  /-- FIRMWARE_UPDATE, R84. -/
  | firmwareUpdate (version : BitVec 64) (digest : BitVec 384)
  /-- UNASSIGNED_MAILBOX_OPCODE, R116. -/
  | unassignedMailboxOpcode
  deriving DecidableEq, Repr, Inhabited

end Sys2Proof
end

