-- ==== Sys2Proof/Machine/State.lean ====
section
/-! DEFINITION. The state of one LN-960 package as plain data: lanes, waves, teams, gangs, grids, contexts, queues,
records, engines, links, the host's registers and memory. One field per piece of state the reference names. -/
namespace Sys2Proof.Machine

/-- Why the machine stops with a fault. -/
inductive Fault where
  /-- Raised by `step` alone, while the package has no supply (after POWER_LOSS and before POWER_ON): nothing of the
  package runs. Safe: the model stops where the hardware does nothing. -/
  | unpowered
  deriving DecidableEq, Repr

/-- Why the model gives no meaning. -/
inductive Refusal where
  /-- Raised by `exec` for a row of the opcode table that has no meaning yet. Safe: the model stops. -/
  | notModelled (mnemonic : String)
  deriving DecidableEq, Repr

/-- Finite maps by a number, ascending in the key and without repeats. -/
abbrev Map (α : Type) := List (Nat × α)

/-! ## Lanes and waves -/

/-- R172: what blocks a lane. -/
inductive Block where
  | none | bar (b : Nat) | barg (b : Nat) | pstep (k : Nat) | dock | park
  deriving DecidableEq, Repr, Inhabited

/-- R37, R53: the record that a lane sent on or ended in a clause that then stopped: the clause, the record, its logical id. -/
structure SentOn where
  hdr : DWord
  held : Option Nat
  lid : DWord
  deriving DecidableEq, Repr, Inhabited

/-- A lane's control state and registers (R146, R170, R32, R37, R66). `pc` keeps the bits of a branch target that no PC has, for the
fault of R184 (log 123); `xblock` is what blocked the lane when its set entered a trap; `xlpc` is the continue point of R428, `held`
the record the lane holds in an episode (R368), `lid` its logical id there (R36), `sent` what it held when a stopped clause had sent it
on (log 154). `clkSeen` and `e100` are the last values it read of its core's clock and of its context's energy over 100 ms, below which no
later read falls (R435, R441). -/
structure Lane where
  pc : DWord
  depth : BitVec 6
  meet : DWord
  exited : Bool
  block : Block
  xblock : Block
  p : BitVec 7
  i0 : Word
  i1 : Word
  i2 : Word
  i3 : Word
  lsr : Word
  srcnt : Word
  v : List Word
  xlpc : DWord
  held : Option Nat
  lid : DWord
  sent : Option SentOn := none
  clkSeen : Nat := 0
  e100 : Nat := 0
  deriving DecidableEq, Repr, Inhabited

/-- R148: wave states; IN-TRAP is the wave's `trapped`, over the state its lanes give it. -/
inductive WaveState where
  | ready | issuing | waiting | parked | held | barrier | sleeping | docked | retired
  deriving DecidableEq, Repr, Inhabited

/-- The register files a landing result writes. -/
inductive RegFile where
  | v | w | p | sh
  deriving DecidableEq, Repr, Inhabited

/-- One 32-bit result on its way to a register (for `sh`, register 16·n + word; for `p`, the predicate number). -/
structure RegWrite where
  file : RegFile
  reg : Nat
  lane : Nat
  val : Word
  deriving DecidableEq, Repr, Inhabited

/-- R49: a long-latency operation whose results have not landed: the token it counts on, the lanes whose next clause is held
(TV = 0, R50), its register results and the flags of each lane (R40). `fence` marks a FENCE: it completes after every older
one (R412); `mma` an in-core matrix operation (R341). -/
structure Flight where
  tok : Option Nat
  hold : LaneMask
  writes : List RegWrite
  flags : List (Nat × BitVec 5)
  fence : Bool := false
  mma : Bool := false
  deriving DecidableEq, Repr, Inhabited

/-- R50: an operation that withholds its token until a condition clears. It keeps its instruction, the values each waiting
lane captured at issue, and the registers its result still goes to (R50: another instruction may have taken some over).
`seq` orders parks by arrival (R311); `flags` are those of the lanes that wait no longer, which merge with the token (R40). -/
structure Park where
  seq : Nat
  instr : Instr
  tok : Option Nat
  hold : LaneMask
  lanes : List (Nat × List Nat)
  dst : List RegWrite
  flags : List (Nat × BitVec 5) := []
  deriving DecidableEq, Repr, Inhabited

/-- A condition to be taken as a trap (R425 to R428). `after` is set for a trap after completion. -/
structure Cond where
  cause : Nat
  lanes : LaneMask
  addr : DWord
  info : Word
  after : Bool
  deriving DecidableEq, Repr, Inhabited

/-- R45, R47: the clause a wave is issuing: the address of its header, the header, the instruction words, the index of
the next one and the issuing set. `cond` is the trap after completion to take when it retires, `rotate` a rotation asked
for by YIELD (R173), `pcs` and `depths` the lanes a branch moves (R183), `ends` what blocks the set afterwards, `dropRec`
the lanes whose jm7 bit clears at retirement (R381, R382, R404), `latch` the A latch of R339, `freed` the registers with a
last-read mark (R54), `trap` whether the wave was IN-TRAP at issue, and `sr0` each lane's SRCNT at issue (R37). -/
structure Clause where
  hdr : DWord
  head : DWord
  words : List DWord
  idx : Nat
  set : LaneMask
  cond : Option Cond
  rotate : Bool
  pcs : List (Nat × DWord)
  depths : List (Nat × BitVec 6)
  ends : Option Block
  dropRec : LaneMask
  latch : List (List Word)
  freed : List Nat
  trap : Bool
  sr0 : List Word
  deriving DecidableEq, Repr, Inhabited

/-- R53: the lanes in which the effect of an instruction of a clause has been performed. -/
structure Perf where
  hdr : DWord
  idx : Nat
  mask : LaneMask
  deriving DecidableEq, Repr, Inhabited

/-- R428: the trap registers of a wave, with the issuing set S of the trap. -/
structure XRegs where
  xpc : DWord
  cause : Word
  addr : DWord
  lanes : Word
  info : Word
  resume : Word
  s : LaneMask
  deriving DecidableEq, Repr, Inhabited

/-- R429: the debug registers of a wave, the pending single-step and debug-stop, and the mark that a breakpoint was just
replayed. -/
structure DbgRegs where
  ctl : Word
  brkl : Word
  brkh : Word
  watch : List DWord
  stepPending : Bool
  stopPending : Bool
  brkSkip : Bool
  deriving DecidableEq, Repr, Inhabited

/-- R395, R396: what a berth wave keeps: its flow graph, the stage it serves and the delivered stage. -/
structure Berth where
  flow : Nat
  stage : Nat
  delivered : Nat
  deriving DecidableEq, Repr, Inhabited

/-- R364: what MXQRY reads of the wave's last stopped command. -/
structure MxStop where
  vec : List Nat
  status : Word
  deriving DecidableEq, Repr, Inhabited

/-- A wave (R146). `ctxNo` is its wave context number (R154); `lastSet` and `turn` are the current lane set and the instructions its
turn has issued, `due` a turn that ended while the wave was IN-TRAP (R173); `blkd` the lanes blocked when it last settled (R176); `xsleep` and `xkids` are the sleep and the wait for children that a trap interrupted;
`perf` holds performed masks (R53); `faultWait` the fault records a stopped clause waits for, with `pend` the trap that a
failed answer to each delivers and `pendNxt` its continue point (R279); `priv` the bytes of private memory the wave has written, by 65,536 × lane + offset (R160). -/
structure Wave where
  team : Nat
  rank : Nat
  core : Nat
  quad : Nat
  ctxNo : Nat
  ctxn : Nat
  st : WaveState
  trapped : Bool
  alloc : Nat
  lanes : List Lane
  w : List Word
  jm : List LaneMask
  wk : List Nat
  sh : List (BitVec 512)
  staged : List Nat
  lastSet : LaneMask
  turn : Nat
  due : Bool
  blkd : LaneMask := 0
  waited : Nat
  clause : Option Clause
  perf : List Perf
  flights : List Flight
  parks : List Park
  faultWait : List Nat
  pend : Map Cond
  pendNxt : DWord
  x : XRegs
  dbg : DbgRegs
  sleep : Option Nat
  kidsWait : Option Nat
  xsleep : Option Nat
  xkids : Option Nat
  mfreads : Word
  berth : Option Berth
  mxStop : Option MxStop
  priv : Map Byte
  deriving DecidableEq, Repr, Inhabited

/-! ## Teams, gangs, grids -/

/-- R149: team states. -/
inductive TeamState where
  | queued | resident | parked | draining | retired
  deriving DecidableEq, Repr, Inhabited

/-- R302: a barrier: arrived and generation. The expected count is the number of members not retired. -/
structure Bar where
  arrived : Nat
  gen : Word
  deriving DecidableEq, Repr, Inhabited

/-- R287: line tags. -/
inductive Tag where
  | empty | filling | full | draining
  deriving DecidableEq, Repr, Inhabited

/-- The state of one 128-byte line that is not EMPTY with OVF clear: its tag, OVF, and the transfer that owns it. -/
structure LineTag where
  tag : Tag
  ovf : Bool
  owner : Nat
  deriving DecidableEq, Repr, Inhabited

/-- R285, R289: the condition of a local page. -/
inductive PageCond where
  | unpinned | local | fifo
  deriving DecidableEq, Repr, Inhabited

/-- R299: an open TRED slot: the transfer group, its offset, the element width in bytes, whether it is FX64, the offset of
its arrival counter, and the hidden sums of the elements whose lines it holds. -/
structure SumSlot where
  group : Nat
  off : Nat
  width : Nat
  fx : Bool
  ctr : Nat
  sums : Map Int
  deriving DecidableEq, Repr, Inhabited

/-- R285 to R290: a team's local store: its size, its bytes other than zero, line tags, page conditions, FIFO contents by
page, writes to FIFOMAP that wait for a frame (oldest first), open reduction slots. -/
structure Local where
  size : Nat
  data : List Host.Cell
  tags : Map LineTag
  pages : Map PageCond
  fifomap : Word
  fifoPend : List Word
  fifos : Map (List Byte)
  sums : List SumSlot
  deriving DecidableEq, Repr, Inhabited

/-- R127: a plane declaration: cell count, fxscale, format code, init (carry), rule. -/
structure PlaneDecl where
  cells : Nat
  fxscale : Int
  fmt : Nat
  carry : Bool
  rule : Nat
  deriving DecidableEq, Repr, Inhabited

/-- R320 to R323: the contributions one cell of a next copy has received in the open step: the writer, its slot's
tiebreak, the priority and the value (an integer for SUM, raw bits otherwise). -/
structure Contrib where
  cell : Nat
  writer : Nat × Nat
  key : Nat
  val : Int
  deriving DecidableEq, Repr, Inhabited

/-- R313, R326: a plane region: its declaration, the bases of its copies, which is present, the W bits set in each copy,
the contributions of the open step, the step count and the flags OVF, INV, COLL. -/
structure Region where
  decl : PlaneDecl
  index : Nat
  baseA : Nat
  baseB : Nat
  presentB : Bool
  wA : List Nat
  wB : List Nat
  contribs : List Contrib
  steps : DWord
  ovf : Bool
  inv : Bool
  coll : Bool
  deriving DecidableEq, Repr, Inhabited

/-- A team (R146, R149). `kids` pairs each child's sequence with its grid (R139); `runnableAt` orders parked teams by
becoming runnable (0: not runnable, R153); `estimate` over `estDen` is its energy in microjoules (R442); `preempted` says that
its frames are given up (R437). -/
structure Team where
  grid : Nat
  berthTeam : Bool
  index : Nat
  core : Nat
  part : Nat
  st : TeamState
  loc : Local
  sub : DWord
  bars : List Bar
  slots : Map Region
  childSeq : Nat
  kids : List (Nat × Nat)
  priv : Option Nat
  since : Nat
  runnableAt : Nat
  gang : Option Nat
  gangRank : Nat
  preempted : Bool
  estimate : Nat
  estDen : Nat
  deriving DecidableEq, Repr, Inhabited

/-- R150: gang states. -/
inductive GangState where
  | unplaced | reserving | placed | parked
  deriving DecidableEq, Repr, Inhabited

/-- A gang: its grid, its ticket, its teams in rank order, its cluster when placed, the teams it holds reservations for
(with their cores), and its four barriers (R302). -/
structure Gang where
  grid : Nat
  ticket : Nat
  part : Nat
  teams : List Nat
  st : GangState
  cluster : Nat
  reserved : List (Nat × Nat)
  bars : List Bar
  deriving DecidableEq, Repr, Inhabited

/-- R133: launch states. -/
inductive GridState where
  | submitted | decoded | admitting | running | draining | retired | faulted
  deriving DecidableEq, Repr, Inhabited

/-- R125: an entry of a code object. -/
structure Entry where
  clause : Nat
  gang : Nat
  waves : Nat
  regblk : Nat
  loc : Nat
  plnn : Nat
  pln0 : Nat
  live0 : Nat
  liven : Nat
  measn : Nat
  meas0 : Nat
  deriving DecidableEq, Repr, Inhabited

/-- Where a grid comes from: a packet, a node of a packet's graph, or the team that launched it. -/
inductive Origin where
  | packet (queue pkt : Nat) | node (queue pkt node : Nat) | child (team : Nat)
  deriving DecidableEq, Repr, Inhabited

/-- A grid (R130, R133). `decoded` is its place in decode order, `childFault` is set when a descendant failed its decode
(R137), `since` is the model's counter at the acquire that starts its lanes (R240, R242), `e0` its context's energy when it was
decoded (R442). -/
structure Grid where
  ctx : Nat
  st : GridState
  origin : Origin
  parent : Option Nat
  launch : Nat
  desc : Nat
  args : Nat
  arglen : Nat
  depth : Nat
  code : Nat
  codeId : Nat
  entryIx : Nat
  entry : Entry
  teams : Nat
  prio : Nat
  seed : DWord
  estimate : Nat
  privBase : Nat
  privTeams : Nat
  privSize : Nat
  nextTeam : Nat
  retiredTeams : Nat
  decoded : Nat
  mResult : Bool
  childFault : Bool
  since : Nat
  e0 : Nat := 0
  deriving DecidableEq, Repr, Inhabited

/-! ## Code objects, contexts -/

/-- R126: a liveness entry: clause offset and the map of live registers. -/
structure Live where
  off : Nat
  map : BitVec 192
  deriving DecidableEq, Repr, Inhabited

/-- R127: a stage declaration. -/
structure StageDecl where
  mask : Word
  patience : Nat
  entry : Nat
  deriving DecidableEq, Repr, Inhabited

/-- R127: a measure mark. -/
structure Mark where
  off : Nat
  result : Bool
  deriving DecidableEq, Repr, Inhabited

/-- R124, R128: a loaded code object. -/
structure CodeObj where
  addr : Nat
  len : Nat
  id : Nat
  textOff : Nat
  textLen : Nat
  entries : List Entry
  lives : List Live
  planes : List PlaneDecl
  stages : List StageDecl
  marks : List Mark
  lastUse : Nat
  deriving DecidableEq, Repr, Inhabited

/-- R77: context states. -/
inductive CtxState where
  | created | active | quiescing | suspended | faulted | destroyed
  deriving DecidableEq, Repr, Inhabited

/-- R74: the context descriptor as copied at CREATE. -/
structure CtxDesc where
  asroot : Nat
  pairctx : Bool
  rcpt : Bool
  meas : Bool
  prio : Nat
  part : Nat
  trapbase : DWord
  allow : Nat
  planetab : Nat
  stagecnt : Nat
  planecnt : Nat
  stagetab : Nat
  logbase : Nat
  loglen : Nat
  spillbase : Nat
  spillsize : Nat
  nonce : BitVec 256
  deriving DecidableEq, Repr, Inhabited

/-- What waits on an append to the measurement log (R85). -/
inductive Waiter where
  | none | flight (wave tok : Nat) (dst : List RegWrite) | packet (queue pkt : Nat)
  | node (queue pkt node : Nat) | grid (g : Nat) | flow (f : Nat)
  deriving DecidableEq, Repr, Inhabited

/-- R84: a record of the measurement chain before its append. An index is given to it when it is appended. -/
structure ChainRec where
  type : Nat
  subject : Nat
  addr : Nat
  len : Nat
  aux : Nat
  digest : BitVec 384
  waiter : Waiter
  deriving DecidableEq, Repr, Inhabited

/-- A context command the mailbox has taken and not completed (R77, R78): its ring slot and whether it destroys. -/
structure CtxCmd where
  slot : Nat
  destroy : Bool
  deriving DecidableEq, Repr, Inhabited

/-- R74, R76, R77: a context. `measured` lists the buffers it has measured (R279), `firstEvent` is the cause of its first EVENT record (R133), `objs` its loaded code objects
by image address (R128), `regions` its declared global plane regions (R318), `avgEst` the average energy per team of
the last grid of an entry (R442), `hist` what it was charged in the last 100 ms, each with its time (R441), `errs` the errors that met its pre-emption (cause, address, unit; R446),
`preempting` and `saved` its pre-emption (R437). -/
structure Ctx where
  st : CtxState
  desc : CtxDesc
  chain : BitVec 384
  count : Nat
  receipts : Nat
  nextLaunch : Nat
  nextCode : Nat
  measured : List (Nat × Nat)
  events : Nat
  summary : DWord
  home : Nat
  serial : Nat
  cmd : Option CtxCmd
  preempting : Bool
  saved : Bool
  firstEvent : Option Nat
  appends : List ChainRec
  objs : List CodeObj
  regions : Map Region
  energy : Nat
  hist : List (Nat × Nat)
  avgEst : Map Nat
  residentSince : Nat
  errs : List (Nat × Nat × Nat) := []
  deriving DecidableEq, Repr, Inhabited

/-! ## Queues, packets, graphs -/

/-- R112: queue states. `unmapTo` of an UNMAPPING queue says why it leaves its slot. -/
inductive QState where
  | idleUnmapped | runnableUnmapped | mapping | mappedActive | mappedIdle | unmapping | suspended | faulted | destroyed
  deriving DecidableEq, Repr, Inhabited

/-- What an UNMAPPING queue becomes (R112). -/
inductive UnmapTo where
  | unmapped | suspended | destroyed
  deriving DecidableEq, Repr, Inhabited

/-- R141, R143: a launch-graph node with its counter, whether a run edge has arrived, and its state:
0 waiting, 1 started, 2 completed, 3 skipped, 4 its record is being appended, 5 and 6 a CONDITIONAL that read true, false. -/
structure Node where
  kind : Nat
  nsucc : Nat
  ntrue : Nat
  preds : Nat
  body : List Nat
  succ : List Nat
  counter : Nat
  run : Bool
  st : Nat
  grid : Option Nat
  deriving DecidableEq, Repr, Inhabited

/-- A packet from its copy to its completion: its copy (64 bytes as 8 words), whether its decode still goes on (a resolvable
fault holds it), the launch id it took, its nodes, the status its work ended with, the status that a node or its children failed
with, the deadline of a WAIT, the status (code and detail) that a fault it waits for completes it with when it is answered fail, how many
of its completion's writes (STATUS, signal, RETIRE) are behind it, the cause of the first that was not made (R106), and whether it
completes because its context went to FAULTED (R107, R112). -/
structure Pkt where
  words : List Nat
  opening : Bool
  launch : Nat
  nodes : List Node
  done : Option (Nat × Nat)
  bad : Option (Nat × Nat)
  deadline : Option Nat
  onFail : Nat × Nat
  stage : Nat
  lost : Option Nat
  ctxDown : Bool := false
  deriving DecidableEq, Repr, Inhabited

/-- R102, R103, R112: a queue. `fsOwed` says that the write of its fault status waits for the host's answer (R106). -/
structure Queue where
  ctx : Nat
  priv : Bool
  hostRing : Bool
  prio : Nat
  ring : Nat
  ctl : Nat
  logSize : Nat
  irqMsg : DWord
  st : QState
  slot : Option Nat
  unmapTo : UnmapTo
  write : Nat
  decode : Nat
  retire : Nat
  faultStatus : DWord
  fsOwed : Bool
  pkts : Map Pkt
  doneIdx : List Nat
  mappedAt : Nat
  idleAt : Nat
  deriving DecidableEq, Repr, Inhabited

/-! ## Copies and the MXE -/

/-- R352: a shape, decoded. -/
structure Shape where
  base : Nat
  scaleBase : Nat
  fmt : Nat
  rank : Nat
  space : Nat
  oob : Word
  dims : List Nat
  strides : List Nat
  box : List Nat
  reserved : Bool
  deriving DecidableEq, Repr, Inhabited

/-- The kinds of copy and reduction jobs (R294, R297). -/
inductive CopyKind where
  | lcopy | lcopyo | tcopy | tcopyo | tred (type : Nat)
  deriving DecidableEq, Repr, Inhabited

/-- Bytes of a copy and where they go; `mask` marks the bits that are written. A store to global memory keeps the physical places that its
pages had at issue, one for each 4 KiB piece (R281). -/
structure Chunk where
  addr : Nat
  data : List Byte
  mask : List Byte
  locs : List Nat := []
  deriving DecidableEq, Repr, Inhabited

/-- A copy or reduction in flight (R291, R295, R298): its issuer and token, the registers its status goes to with the part
of the status known at issue, what it writes (addresses relative to the slot in a tile transfer), the elements of a
reduction, its slot, the lines it fills or drains, its counter, its group id, the cores it names, the receivers that have
arrived, the bytes one receiver lands and skips, and what it has gathered; `opened` are the lines that its arrival has begun to fill at a
team (R287), `served` the cores with a receiver that has arrived. -/
structure CopyJob where
  kind : CopyKind
  ctx : Nat
  wave : Nat
  team : Nat
  tok : Nat
  dst : List RegWrite
  chunks : List Chunk
  vals : List Nat
  off : Nat
  ext : Nat
  lines : List Nat
  ctr : Option Nat
  consume : Bool
  group : Option Nat
  cores : List Nat
  arrived : List Nat
  land : Nat
  skip : Nat
  bytes : Nat
  oob : Bool
  conflict : Bool
  moved : Bool
  opened : Map (List Nat) := []
  served : List Nat := []
  deriving DecidableEq, Repr, Inhabited

/-- R351: an accumulator window: its rows' elements (index 128·row + column) other than +0, and the rows of kind INT32. -/
structure Window where
  acc : Map Word
  ints : List Nat
  deriving DecidableEq, Repr, Inhabited

/-- States of an MXE command. -/
inductive CmdState where
  | queued | running
  deriving DecidableEq, Repr, Inhabited

/-- R354: an MXE command issued and not complete: its issuer and token, the registers its status goes to, its shapes (a
local one with the offset as its base and its team as `scaleBase`), block and start vector as read at issue, the logical id and seed of l0 (R363), the lines of its operands (team, line, consumed)
and of its slot, since when it made no progress, and the flags raised so far. A product's start vector moves on with each iteration (R360). -/
structure MxCmd where
  instr : Instr
  ctx : Nat
  wave : Nat
  team : Nat
  cluster : Nat
  tok : Nat
  dst : List RegWrite
  shapes : List Shape
  block : List Word
  start : List Nat
  id : Nat
  seed : Nat
  lines : List (Nat × Nat × Bool)
  outLines : List (Nat × Nat)
  st : CmdState
  since : Nat
  flags : BitVec 5
  deriving DecidableEq, Repr, Inhabited

/-- What MXWAIT will report of a completed command (R40, R364): its wave, the flags to merge and the cause of a stop. -/
structure MxDone where
  wave : Nat
  flags : BitVec 5
  cause : Option Nat
  deriving DecidableEq, Repr, Inhabited

/-- R350: the MXE of a cluster: power of its island, the team whose command started last (R354), and the windows teams hold (at most
four). -/
structure Mxe where
  powered : Bool
  turn : Nat
  windows : Map Window
  deriving DecidableEq, Repr, Inhabited

/-! ## Records and flow graphs -/

/-- R368: record states. -/
inductive RecState where
  | binned | delivered | traversing
  deriving DecidableEq, Repr, Inhabited

/-- R375: the ray a part of the traversal uses (FP32 patterns): the world ray, or the object-space ray below an instance,
with the instance id (0xFFFFFFFF outside an instance), the hit-group base, force opaque and disable culling. -/
structure RayCtx where
  o : List Word
  d : List Word
  below : Bool
  inst : Word
  hg : Nat
  opq : Bool
  nocull : Bool
  deriving DecidableEq, Repr, Inhabited

/-- How a unit was reached: as an internal child, as an entry unit (which must be a node), or as a leaf. -/
inductive UnitKind where
  | child | entry | leaf
  deriving DecidableEq, Repr, Inhabited

/-- R375: an exact entry distance num / den; den = 0 is an infinity with the sign of num. -/
structure Dist where
  num : Int
  den : Nat
  deriving DecidableEq, Repr, Inhabited

/-- R375: one entry of a traversal stack: the treelet, the unit, how it was reached, the exact entry distance, the ray
there, and the first triangle to test of a pair whose candidate was answered. -/
structure StackEnt where
  treelet : Nat
  unit : Nat
  kind : UnitKind
  dist : Dist
  ray : RayCtx
  tri : Nat
  deriving DecidableEq, Repr, Inhabited

/-- R377: a suspended candidate. -/
structure Cand where
  custom : Bool
  front : Bool
  t : Word
  prim : Word
  inst : Word
  bary : Word
  stage : Nat
  deriving DecidableEq, Repr, Inhabited

/-- R375, R377, R378: a traversal: its stack, tbest, the closest-hit stage of the committed leaf, the stage field before RTRACE, and the
candidate it waits on. -/
structure Trav where
  stack : List StackEnt
  tbest : Word
  cont : Nat
  hitStage : Nat
  cand : Option Cand
  deriving DecidableEq, Repr, Inhabited

/-- A record of the Roadstead (R366, R367, R389): its 32 or 8 words, and 16 hidden words (word 6 is SRCNT, R37).
`override` is the hidden key of RKEY.set (R384), `seq` orders records by binning, `cluster` says where it was enqueued or
traversed (R392), `spill` is its offset in the spill area (R388), `ripe` marks a record past its patience (R391), `waits` a
traversal that waits for an answer of the host (R380). -/
structure Record where
  ctx : Nat
  flow : Nat
  ray : Bool
  st : RecState
  words : List Word
  hidden : List Word
  scene : Nat
  mode : BitVec 16
  trav : Option Trav
  override : Option Word
  key : Word
  binnedAt : Nat
  seq : Nat
  cluster : Nat
  spill : Option Nat
  ripe : Bool
  waits : Bool
  deriving DecidableEq, Repr, Inhabited

/-- R401: flow graph states, with the codes of R405. -/
inductive FlowState where
  | loaded | starting | running | quiescing | stopped | faulted
  deriving DecidableEq, Repr, Inhabited

/-- R399: a stage descriptor. -/
structure Stage where
  decl : Nat
  task : Bool
  self : Bool
  hit : Bool
  minb : Nat
  maxb : Nat
  prio : Nat
  pfthr : Nat
  argBase : Nat
  argStride : Nat
  succ : List Nat
  mask : Word
  patience : Nat
  entry : Entry
  deriving DecidableEq, Repr, Inhabited

/-- R398, R401: a flow graph. `start` and `stops` are its pending FLOW packets; `since` is as a grid's. -/
structure Flow where
  ctx : Nat
  queue : Nat
  st : FlowState
  launch : Nat
  code : Nat
  codeId : Nat
  seed : DWord
  sbase : Nat
  stages : List Stage
  root : Nat
  rootn : Nat
  rooted : Nat
  breg : Nat
  bwaves : Nat
  bteams : Nat
  blocal : Nat
  args : Nat
  arglen : Nat
  teams : List Nat
  start : Option (Nat × Nat)
  stops : List (Nat × Nat)
  mResult : Bool
  decoded : Nat
  since : Nat
  deriving DecidableEq, Repr, Inhabited

/-! ## Translation, host interface, links, energy -/

/-- R274, R278: a cached translation: the TLB that holds it (core k at k, cluster c at 256 + c), context, virtual base, size, and the
leaf entry. -/
structure TlbEnt where
  owner : Nat
  ctx : Nat
  va : Nat
  size : Nat
  leaf : DWord
  deriving DecidableEq, Repr, Inhabited

/-- Who waits on a fault record (R279). -/
inductive FaultAgent where
  | wave (w : Nat) | cmd (c : Nat) | ray (r : Nat) | queue (q : Nat) | pkt (q i : Nat) | node (q i n : Nat) | grid (g : Nat) | log | mbx | service
  deriving DecidableEq, Repr, Inhabited

/-- R279, R281: an unanswered fault record and its waiting agents; `written` says it stands in the ring. -/
structure FaultRec where
  token : Nat
  ctx : Nat
  page : Nat
  size : Nat
  va : Nat
  kind : Nat
  level : Nat
  access : Nat
  core : Nat
  island : Nat
  written : Bool
  agents : List FaultAgent
  deriving DecidableEq, Repr, Inhabited

/-- R273, R277, R281: the translation units: cached translations, the owners and the retired ones among the 2 MiB frames, the registers, invalidations in progress and unanswered fault records. -/
structure PageUnit where
  tlb : List TlbEnt
  owners : Map Nat
  retired : List Nat
  pfrbase : DWord
  pfrhead : Nat
  pfrtail : DWord
  invaddr : DWord
  invs : List (DWord × DWord)
  invdone : Nat
  nextToken : Nat
  faults : List FaultRec
  deriving DecidableEq, Repr, Inhabited

/-- R114: what the pilot that takes an event does: a row of the table; the change of a queue that its wake makes (R110, R112); what an
answer to a fault record (retry or fail) does for an agent of the command processor (R279). -/
inductive PilotAct where
  | row (i : Instr) | wake (q : Nat) | answer (retry : Bool) (f : FaultRec) (a : FaultAgent)
  deriving DecidableEq, Repr, Inhabited
/-- R114: an event for the Pilot cores: its kind (0 wake, 1 completion, 2 fault, 3 timer, 4 mailbox; log 134), the queue it names, and what
the pilot that takes it does. -/
structure PilotEvent where
  kind : Nat
  queue : Option Nat
  act : PilotAct
  deriving DecidableEq, Repr, Inhabited

/-- R415, R422: a write of the host to BAR 0, or an access of it over CXL.mem, as it waits while the host port retrains. -/
inductive HostAct where
  | wake (q : Nat) | mbxbase (v : DWord) | mbxdoor (v : DWord) | rssize (v : DWord) | dbgstop (v : DWord) | retry (tok : Nat) | fail (tok : Nat)
  | invalidate (v : DWord) | register (off : Nat) (v : DWord) | enableSet (p : Nat) | enableClear (p : Nat) | retrain (p : Nat)
  | cxl (write : Bool) (a : Nat) (v : DWord)
  deriving DecidableEq, Repr, Inhabited

/-- R110, R114, R116, R118, R387, R447: the event queue of the Pilot cores (oldest first; its entries beyond 65,536 are those that producers
hold), and what the host reaches through BAR 0 and the mailbox: the wake latch (the set bits), the
mailbox ring, the Logbook, RSSIZE, BOOTSTAT and the interrupts sent, oldest first; the interrupts of the mailbox sent (log 160), what the host
read over CXL.mem, oldest first (R416), and its accesses that wait for its port (R422). -/
structure HostUnit where
  events : List PilotEvent
  latch : List Nat
  mbxbase : DWord
  submitted : Nat
  taken : Nat
  logIdx : Nat
  logCount : Nat
  logSeq : Nat
  logRecs : Map (List Byte)
  rssize : Nat
  bootstat : DWord
  irqs : List DWord
  mbxIrqs : Nat := 0
  reads : List DWord := []
  waiting : List HostAct := []
  deriving DecidableEq, Repr, Inhabited

/-- R422: link states. -/
inductive LinkState where
  | down | training | up | degraded | retraining | failed
  deriving DecidableEq, Repr, Inhabited

/-- R417, R418, R422, R424: one port: its state and since when it has it, width up, counters, the retrain failures within 1 s, and, for a Hawser
port, the flit sequence state, the unacknowledged flits, the flits put on the link and the messages delivered (oldest first), the messages
that wait to be sent (type and slots), the slots that the peer returned, and the times of the replays within 1 ms. -/
structure Port where
  st : LinkState
  since : Nat
  width : Nat
  replays : Nat
  retrains : Nat
  failTimes : List Nat
  enable : Bool
  retrainReq : Bool
  nextSeq : Nat
  expected : Nat
  acked : Nat
  unacked : List (BitVec 2048)
  delivered : List (BitVec 2048)
  out : List (BitVec 2048)
  queued : List (Nat × BitVec 1920)
  reqCred : Nat
  rspCred : Nat
  replayTimes : List Nat
  deriving DecidableEq, Repr, Inhabited

/-- R410, R411: a packet in a source's retry buffer that was dropped at least once; `age` is the model's counter at its first drop. -/
structure MeshPkt where
  nacks : Nat
  waiting : Bool
  resendAt : Nat
  escalated : Bool
  age : Nat
  deriving DecidableEq, Repr, Inhabited

/-- R13 to R15, R439 to R445: energy, wear and errors. `drew` is the package's energy in the last microsecond, `lastLimit` the limit then,
`fell` when a limit last fell (R15); `busy` the busy cycles of contexts on islands in the running interval (4,096 × island + context, R440);
`wearAt` when WEARn was last refreshed (R443). -/
structure EnergyUnit where
  islands : List Nat
  pending : List Nat
  budget : Nat
  peerBudget : Nat
  share0 : Nat
  share1 : Nat
  wear : List Word
  retiredIslands : List Nat
  ce : Nat
  ue : Nat
  ceTimes : List (Nat × Nat)
  testing : List Nat
  drew : Nat := 0
  lastLimit : Nat := 0
  fell : Option Nat := none
  busy : Map Nat := []
  wearAt : Nat := 0
  deriving DecidableEq, Repr, Inhabited

/-- R100: a reservation record of key-store flash. -/
structure Reservation where
  gen : Nat
  limit : Nat
  seq : Nat
  crc : Word
  deriving DecidableEq, Repr, Inhabited

/-- R83, R99, R100: firmware identity; the alias generation in use, the firmware digest and the identity leaf of each generation, the
generation of each firmware version booted, one prepared and not in use, whether one is still to be created; the reservation
records of the alias keys and of the identity key; the next leaf of each. -/
structure KeyUnit where
  fwDigest : BitVec 384
  fwVersion : DWord
  gen : Nat
  genDigests : Map (BitVec 384)
  genLeaves : Map Nat
  versions : Map Nat
  spare : Option Nat
  owed : Bool
  flash : List Reservation
  idFlash : List Reservation
  leaves : Map Nat
  idLeaf : Nat
  flashWrites : Nat
  bootCount : Nat
  creates : Nat
  deriving DecidableEq, Repr, Inhabited

/-- R7 to R16, R79, R81, R419: the package: its form and index, whether a pair is trained, whether contexts may remain that
were mapped when its memory had the upper half of a pair's addresses (log 147), whether the peer holds contexts or runs the same firmware, power, time (the nanoseconds of ticks since power-on; `born` is the model's counter at power-on,
from which the time between ticks and the core clocks count), partition masks, retired units (and the unit ids of all that failed their
test, R445) and octant modes. -/
structure Dev where
  powered : Bool
  time : Nat
  born : Nat
  pairCard : Bool
  index : Nat
  paired : Bool
  high : Bool
  peerFree : Bool
  peerDigest : BitVec 384
  masks : List (BitVec 8)
  retiredClusters : List Nat
  retiredCores : List Nat
  retiredMxes : List Nat
  retiredSlices : List Nat
  retiredHbm : List Nat
  octants : Map (List Nat)
  drains : List (Nat × Nat × Nat)
  pilotDown : Option Nat
  retiredUnits : List Nat := []
  deriving DecidableEq, Repr, Inhabited

/-- The machine. `olds` keeps, for bytes stored to while a grid or flow graph runs (2 × address, + 1 in host memory), the values they held
before, each with the model's counter at its store (R242). `cur` is the wave whose clause runs; `agenda` the events that come first; `ctr` the model's own counter
of free values (log 1); `turn` counts the events the model chose, so that all get their turn (log 14); `key` the next number for a new wave, team, gang, grid, flow, record, job or command. -/
structure State where
  dev : Dev
  mem : List Host.Cell
  hostMem : List Host.Cell
  olds : Map (List (Nat × Byte))
  ctxs : Map Ctx
  queues : Map Queue
  grids : Map Grid
  gangs : Map Gang
  teams : Map Team
  waves : Map Wave
  flows : Map Flow
  recs : Map Record
  copies : Map CopyJob
  mxes : Map Mxe
  mxSaved : Map Window
  cmds : Map MxCmd
  mxDone : Map MxDone
  page : PageUnit
  host : HostUnit
  ports : List Port
  mesh : Map MeshPkt
  energy : EnergyUnit
  keys : KeyUnit
  cur : Nat
  agenda : List Instr
  ctr : Nat
  turn : Nat
  key : Nat
  deriving DecidableEq, Repr, Inhabited

/-! ## Reset -/

/-- R422, R424: a port right after reset: enabled, so that it trains; all counts zero; no flit was received, so that the last received in
order is the one before the first (log 158). -/
def Port.reset : Port :=
  { st := .training, since := 0, width := 0, replays := 0, retrains := 0, failTimes := [], enable := true, retrainReq := false,
    nextSeq := 0, expected := 0, acked := 1023, unacked := [], delivered := [], out := [], queued := [],
    reqCred := 0, rspCred := 0, replayTimes := [] }

/-- R79: with no partition set, partition 0 holds all eight units. -/
def Dev.reset : Dev :=
  { powered := true, time := 0, born := 0, pairCard := false, index := 0, paired := false, high := false, peerFree := false,
    peerDigest := 0, masks := [0xFF, 0, 0, 0, 0, 0, 0, 0], retiredClusters := [], retiredCores := [], retiredMxes := [],
    retiredSlices := [], retiredHbm := [], octants := [], drains := [], pilotDown := none }

/-- R281: registers of the translation units at power-on. -/
def PageUnit.reset : PageUnit :=
  { tlb := [], owners := [], retired := [], pfrbase := 0, pfrhead := 0, pfrtail := 0, invaddr := 0, invs := [],
    invdone := 0, nextToken := 0, faults := [] }

/-- R387 (RSSIZE 96), R447 (BOOTSTAT: the firmware verified). -/
def HostUnit.reset : HostUnit :=
  { events := [], latch := [], mbxbase := 0, submitted := 0, taken := 0, logIdx := 0, logCount := 0, logSeq := 0, logRecs := [],
    rssize := 96, bootstat := 1, irqs := [] }

/-- R439: counters count from power-on. The budget is the cloud module's upper limit; on a card each package has half of the card's
total as limit and share (log 4). -/
def EnergyUnit.of (card : Bool) : EnergyUnit :=
  let b := if card then 600000 else 1500000
  { islands := List.replicate 160 0, pending := List.replicate 160 0, budget := b, peerBudget := if card then 600000 else 0,
    share0 := b, share1 := if card then 600000 else 0, wear := List.replicate 160 0, retiredIslands := [], ce := 0, ue := 0, ceTimes := [],
    testing := [] }
/-- The energy unit of a cloud module right after reset. -/
def EnergyUnit.reset : EnergyUnit := .of false

/-- R99, R100, R101: key store after the first boot (log 5): generation 1 was created with identity leaf 0. -/
def KeyUnit.reset : KeyUnit :=
  { fwDigest := Config.fwDigest, fwVersion := Config.fwVersion, gen := 1, genDigests := [(1, Config.fwDigest)], genLeaves := [(1, 0)]
    versions := [(Config.fwVersion.toNat, 1)], spare := none, owed := false, flash := []
    idFlash := [{ gen := 0, limit := 1, seq := 1, crc := 0x6D170A82 }], leaves := [], idLeaf := 1, flashWrites := 0, bootCount := 1, creates := 0 }

/-- The machine right after reset: no context, no queue, nothing in memory but zeros (log 2). -/
def State.reset : State :=
  { dev := .reset, mem := [], hostMem := [], olds := [], ctxs := [], queues := [], grids := [], gangs := [], teams := [], waves := [],
    flows := [], recs := [], copies := [], mxes := [], mxSaved := [], cmds := [], mxDone := [], page := .reset,
    host := .reset, ports := [.reset, .reset, .reset], mesh := [], energy := .reset, keys := .reset, cur := 0,
    agenda := [], ctr := 0, turn := 0, key := 1 }

end Sys2Proof.Machine
end

