-- ==== Sys2Proof/Machine/Base.lean ====
section
/-! DEFINITION. Finite maps, memory as canonical lists of bytes, lane and wave access, and address translation
(R270 to R281). -/
namespace Sys2Proof.Machine

/-! ## Maps -/

/-- The value at a key. -/
def mget {α : Type} : Map α → Nat → Option α
  | [], _ => none
  | (k, v) :: t, x => if x = k then some v else mget t x

/-- Writes a key, keeping the keys ascending. -/
def mset {α : Type} : Map α → Nat → α → Map α
  | [], x, y => [(x, y)]
  | (k, v) :: t, x, y => if x = k then (x, y) :: t else if x < k then (x, y) :: (k, v) :: t else (k, v) :: mset t x y

/-- Removes a key. -/
def mdel {α : Type} : Map α → Nat → Map α
  | [], _ => []
  | (k, v) :: t, x => if x = k then t else (k, v) :: mdel t x

/-- Changes the value at a key, when there is one. -/
def mupd {α : Type} : Map α → Nat → (α → α) → Map α
  | [], _, _ => []
  | (k, v) :: t, x, f => if x = k then (k, f v) :: t else (k, v) :: mupd t x f

/-- Changes every value. -/
def mmap {α : Type} (m : Map α) (f : Nat → α → α) : Map α := m.map fun kv => (kv.1, f kv.1 kv.2)

/-- The keys whose values satisfy `f`, ascending. -/
def mkeys {α : Type} (m : Map α) (f : α → Bool) : List Nat := (m.filter fun kv => f kv.2).map (·.1)

/-- Changes the element of a list at an index. -/
def updAt {α : Type} : List α → Nat → (α → α) → List α
  | [], _, _ => []
  | a :: t, 0, f => f a :: t
  | a :: t, n + 1, f => a :: updAt t n f

/-- Changes each element of a list with its index. -/
def mapIx {α : Type} (f : Nat → α → α) : Nat → List α → List α
  | _, [] => []
  | n, a :: t => f n a :: mapIx f (n + 1) t

/-- The least element by a measure. -/
def leastBy {α : Type} (f : α → Nat) : List α → Option α
  | [] => none
  | a :: t => match leastBy f t with
    | none => some a
    | some b => if f a ≤ f b then some a else some b

/-- A list without repeats, first occurrences kept. -/
def dedup {α : Type} [DecidableEq α] (l : List α) : List α :=
  l.foldl (fun acc x => if acc.contains x then acc else acc ++ [x]) []

/-! ## Memory -/

/-- The byte at an address: an unlisted address reads as zero (log 2). -/
def readCell : List Host.Cell → Nat → Byte
  | [], _ => 0
  | (a, b) :: t, x => if x = a then b else if x < a then 0 else readCell t x

/-- Writes a byte, keeping addresses rising and zeros unlisted. -/
def writeCell : List Host.Cell → Nat → Byte → List Host.Cell
  | [], x, y => if y = 0 then [] else [(x, y)]
  | (a, b) :: t, x, y =>
    if x = a then (if y = 0 then t else (x, y) :: t)
    else if x < a then (if y = 0 then (a, b) :: t else (x, y) :: (a, b) :: t)
    else (a, b) :: writeCell t x y

/-- The canonical form: addresses strictly rising from `lo`, no entry zero. -/
def wfFrom : Nat → List Host.Cell → Bool
  | _, [] => true
  | lo, (a, b) :: t => decide (lo ≤ a) && b != 0 && wfFrom (a + 1) t

/-- The canonical form of a memory. -/
def Memory.wf (m : List Host.Cell) : Bool := wfFrom 0 m

/-- `n` bytes from an address. -/
def readCells (m : List Host.Cell) (a : Nat) : Nat → List Byte
  | 0 => []
  | n + 1 => readCell m a :: readCells m (a + 1) n

/-- Writes bytes at consecutive addresses. -/
def writeCells (m : List Host.Cell) (a : Nat) : List Byte → List Host.Cell
  | [] => m
  | b :: t => writeCells (writeCell m a b) (a + 1) t

/-- Drops every byte in a range (the local store of a freed page, a scrubbed frame). -/
def clearCells (m : List Host.Cell) (a n : Nat) : List Host.Cell := m.filter fun c => c.1 < a || a + n ≤ c.1

/-- R419: where the package's own memory begins among the device physical addresses. -/
def Dev.base (d : Dev) : Nat := if d.paired && d.index == 1 then Config.hbmBytes else 0
/-- R419, R423: a device physical address of the package's own memory; after a pair has broken the contexts that run on reach it at the
addresses their tables hold too (log 147). -/
def Dev.own (d : Dev) (pa : Nat) : Bool :=
  (decide (d.base ≤ pa) && decide (pa < d.base + Config.hbmBytes)) ||
    (d.high && !d.paired && decide (Config.hbmBytes ≤ pa) && decide (pa < 2 * Config.hbmBytes))
/-- R419: where a byte of device memory stands in State: the package's own memory first, the peer's after it (log 147). -/
def Dev.cell (d : Dev) (pa : Nat) : Nat :=
  if 2 * Config.hbmBytes ≤ pa then pa
  else if d.paired then (if d.index != 1 then pa else if pa < Config.hbmBytes then pa + Config.hbmBytes else pa - Config.hbmBytes)
  else if d.high && Config.hbmBytes ≤ pa then pa - Config.hbmBytes else pa
/-- A device physical address, or one of host memory (`sys`), in State. -/
def State.cellOf (s : State) (sys : Bool) (a : Nat) : Nat := if sys then a else s.dev.cell a

/-- Bytes of device memory (`false`) or host memory (`true`) at a physical address. -/
def State.pread (s : State) (sys : Bool) (a n : Nat) : List Byte := readCells (if sys then s.hostMem else s.mem) (s.cellOf sys a) n

/-- R242: the values that stored bytes held before, for those the stores change, at time `t`. -/
def noteOlds (t : Nat) (sys : Bool) (m : List Host.Cell) : Nat → List Byte → Map (List (Nat × Byte)) → Map (List (Nat × Byte))
  | _, [], h => h
  | a, b :: bs, h =>
    let old := readCell m a
    let k := 2 * a + bn sys
    noteOlds t sys m (a + 1) bs (if old = b then h else mset h k ((t, old) :: (mget h k).getD []))
/-- R242: the record of former values after a store; nothing is kept while nothing runs. -/
def State.oldsAfter (s : State) (sys : Bool) (a : Nat) (bs : List Byte) : Map (List (Nat × Byte)) :=
  if s.grids.isEmpty && s.flows.isEmpty then [] else noteOlds s.ctr sys (if sys then s.hostMem else s.mem) a bs s.olds
/-- Writes bytes at a physical address. -/
def State.pwrite (s : State) (sys : Bool) (a : Nat) (bs : List Byte) : State :=
  if sys then { s with hostMem := writeCells s.hostMem a bs, olds := s.oldsAfter true a bs }
  else { s with mem := writeCells s.mem (s.dev.cell a) bs, olds := s.oldsAfter false (s.dev.cell a) bs }

/-! ## Accessors -/

/-- Changes a wave. -/
def State.updWave (s : State) (w : Nat) (f : Wave → Wave) : State := { s with waves := mupd s.waves w f }
/-- Changes a team. -/
def State.updTeam (s : State) (t : Nat) (f : Team → Team) : State := { s with teams := mupd s.teams t f }
/-- Changes a context. -/
def State.updCtx (s : State) (c : Nat) (f : Ctx → Ctx) : State := { s with ctxs := mupd s.ctxs c f }
/-- Changes a queue. -/
def State.updQueue (s : State) (q : Nat) (f : Queue → Queue) : State := { s with queues := mupd s.queues q f }
/-- Changes a grid. -/
def State.updGrid (s : State) (g : Nat) (f : Grid → Grid) : State := { s with grids := mupd s.grids g f }
/-- Changes a gang. -/
def State.updGang (s : State) (g : Nat) (f : Gang → Gang) : State := { s with gangs := mupd s.gangs g f }
/-- Changes a flow graph. -/
def State.updFlow (s : State) (f : Nat) (g : Flow → Flow) : State := { s with flows := mupd s.flows f g }
/-- Changes a record. -/
def State.updRec (s : State) (r : Nat) (f : Record → Record) : State := { s with recs := mupd s.recs r f }

/-- The free values drawn so far count one more: the next event sees others (log 1). -/
def State.tick (s : State) : State := { s with ctr := s.ctr + 1 }

/-- The wave with a number. -/
def State.wave (s : State) (w : Nat) : Wave := (mget s.waves w).getD default
/-- The team of a wave. -/
def State.teamOf (s : State) (wv : Wave) : Team := (mget s.teams wv.team).getD default
/-- The context with a number. -/
def State.ctx (s : State) (c : Nat) : Ctx := (mget s.ctxs c).getD default
/-- The grid of a team (a berth team has none). -/
def State.gridOf (s : State) (t : Team) : Grid := (mget s.grids t.grid).getD default
/-- The flow graph with a number. -/
def State.flow (s : State) (f : Nat) : Flow := (mget s.flows f).getD default
/-- The record with a number. -/
def State.record (s : State) (r : Nat) : Record := (mget s.recs r).getD default
/-- The queue with a number. -/
def State.queue (s : State) (q : Nat) : Queue := (mget s.queues q).getD default

/-- f a + f (a + 1) + … of `n` terms. -/
def sumSteps (f : Nat → Nat) (a : Nat) : Nat → Nat
  | 0 => 0
  | n + 1 => f (a + n) + sumSteps f a n
/-- R441, R442: the energy of a context over the 100 ms before a time. -/
def Ctx.spent (x : Ctx) (t : Nat) : Nat := x.hist.foldl (fun a h => if t < h.1 + 100000000 then a + h.2 else a) 0
/-- R96, R435: device time in nanoseconds since power-on: the ticks, and a free time between them (log 13). -/
def State.now (s : State) : Nat := s.dev.time + sumSteps Config.nanoClocks s.dev.born (s.ctr - s.dev.born)
/-- R435: a core's clock count since power-on, free but never decreasing (log 13). -/
def State.clk (s : State) (core : Nat) : Nat := sumSteps (Config.coreClocks core) s.dev.born (s.ctr - s.dev.born) % 2 ^ 64

/-- Lane `l` of a wave. -/
def Wave.lane (wv : Wave) (l : Nat) : Lane := wv.lanes.getD l default
/-- Changes lane `l` of a wave. -/
def Wave.updLane (wv : Wave) (l : Nat) (f : Lane → Lane) : Wave := { wv with lanes := updAt wv.lanes l f }
/-- Changes the lanes of a mask. -/
def Wave.updLanes (wv : Wave) (m : LaneMask) (f : Nat → Lane → Lane) : Wave :=
  { wv with lanes := mapIx (fun l ln => if inMask m l then f l ln else ln) 0 wv.lanes }

/-- A lane's index register. -/
def Lane.idx (ln : Lane) : Nat → Word
  | 0 => ln.i0 | 1 => ln.i1 | 2 => ln.i2 | _ => ln.i3
/-- Writes a lane's index register. -/
def Lane.setIdx (ln : Lane) (n : Nat) (x : Word) : Lane :=
  match n with
  | 0 => { ln with i0 := x } | 1 => { ln with i1 := x } | 2 => { ln with i2 := x } | _ => { ln with i3 := x }
/-- A lane's predicate; `p7` is true (R57). -/
def Lane.pred (ln : Lane) (n : Nat) : Bool := if n < 7 then ln.p.getLsbD n else true
/-- Writes a lane's predicate; `p7` takes no write. -/
def Lane.setPred (ln : Lane) (n : Nat) (b : Bool) : Lane :=
  if n < 7 then { ln with p := if b then ln.p ||| BitVec.ofNat 7 (2 ^ n) else ln.p &&& ~~~ BitVec.ofNat 7 (2 ^ n) } else ln
/-- Writes a lane's register. -/
def Lane.setV (ln : Lane) (n : Nat) (x : Word) : Lane := { ln with v := ln.v.set n x }
/-- R40: flags are ORed into LSR. -/
def Lane.flag (ln : Lane) (f : BitVec 5) : Lane := { ln with lsr := ln.lsr ||| f.zeroExtend 32 }
/-- R32: the dynamic rounding mode. -/
def Lane.drm (ln : Lane) : Nat := (ln.lsr.toNat / 256) % 8

/-- The lanes of a wave that have not exited. -/
def Wave.live (wv : Wave) : LaneMask := maskOf fun l => !(wv.lane l).exited && l < wv.lanes.length

/-! ## Partitions (R7, R10, R79, R82) -/

/-- The unit mask of a partition. -/
def Dev.mask (d : Dev) (p : Nat) : BitVec 8 := d.masks.getD p 0
/-- R82: cluster c is in the partition and not retired. -/
def Dev.clusterIn (d : Dev) (p c : Nat) : Bool :=
  decide (c < 64) && (d.mask p).getLsbD (c / 8) && !d.retiredClusters.contains c
/-- A core is usable in a partition. -/
def Dev.coreIn (d : Dev) (p k : Nat) : Bool := d.clusterIn p (k / 4) && !d.retiredCores.contains k
/-- The usable cores of a partition. -/
def Dev.cores (d : Dev) (p : Nat) : List Nat := (List.range 256).filter (d.coreIn p)
/-- The usable MXEs of a partition. -/
def Dev.mxes (d : Dev) (p : Nat) : List Nat :=
  (List.range 64).filter fun c => d.clusterIn p c && !d.retiredMxes.contains c

/-! ## Translation (R270 to R280) -/

/-- R279: kinds of translation fault. -/
def kindNotPresent : Nat := 0
/-- Kind 4 of R279. -/
def kindMalformed : Nat := 4
/-- Kind 6 of R279. -/
def kindRetired : Nat := 6
/-- Kind 7 of R279. -/
def kindPartition : Nat := 7
/-- R279: whether a kind is resolvable. -/
def resolvable (k : Nat) : Bool := k ≤ 3 || k = 5

/-- The accesses of R280: 0 read, 1 write, 2 read-modify-write, 3 fetch. -/
abbrev Access := Nat

/-- R278: who translates: a core's lanes 0 to 255, the engines of cluster c at 256 + c, a service agent, which caches nothing. -/
def svc : Nat := 512

/-- The outcome of a translation: a physical address (in host memory when `sys`) with its leaf and page, or a fault of a
kind with the level at which the walk stopped and the size of the page that was to be reached. -/
inductive Xlate where
  | ok (sys : Bool) (pa : Nat) (page : TlbEnt)
  | bad (kind level size : Nat)
  deriving DecidableEq, Repr, Inhabited

/-- R270: the bytes of a page by size code. -/
def pageSize (code : Nat) : Nat :=
  [0x1000, 0x4000, 0x10000, 0x40000, 0x100000, 0x200000, 0x400000, 0x1000000, 0x2000000, 0x4000000, 0x10000000,
   0x20000000, 0x40000000, 0x100000000, 0x400000000, 0x1000000000].getD code 0x1000

/-- R270: whether a size code belongs to a level. -/
def sizeOfLevel (code level : Nat) : Bool :=
  match level with
  | 0 => code ≤ 4
  | 1 => 5 ≤ code && code ≤ 11
  | 2 => 12 ≤ code && code ≤ 15
  | _ => false

/-- R419: a device physical address of the peer's memory, which contexts with PAIRCTX may map while the pair is trained. -/
def State.peerPa (s : State) (pa : Nat) : Bool := s.dev.paired && decide (pa < 2 * Config.hbmBytes) && !s.dev.own pa
/-- R80, R273, R419: the frame of a device physical address belongs to another partition (log 9), to the peer, or lies outside device
memory. -/
def State.foreign (s : State) (c part pa : Nat) : Bool :=
  if s.dev.own pa then
    (match mget s.page.owners (s.dev.cell pa / 0x200000) with
     | none => false
     | some p => p != part)
  else !(s.peerPa pa && (s.ctx c).desc.pairctx)

/-- R11, R445: the HBM stack of a 2 MiB frame: eight consecutive frames lie in the eight stacks, 64 GiB in each (log 122). -/
def hbmStack (frame : Nat) : Nat := (frame + Config.hbmTurn (frame / 8)) % 8
/-- R277, R445: a frame retired by the device, alone or with its HBM stack (log 122). -/
def State.frameRetired (s : State) (pa : Nat) : Bool :=
  s.dev.own pa && (s.page.retired.contains (s.dev.cell pa / 0x200000) || s.dev.retiredHbm.contains (hbmStack (s.dev.cell pa / 0x200000)))

/-- R273: a valid leaf at a level is well formed. -/
def leafOk (s : State) (part level e : Nat) : Bool :=
  let size := pageSize (bits e 5 2)
  let pin := bitAt e 52
  let core := bits e 60 53
  let sys := bitAt e 9
  !bitAt e 63 && bits e 62 61 != 3 && sizeOfLevel (bits e 5 2) level && (bits e 51 12 * 0x1000) % size == 0 &&
    (if pin then !sys && size ≤ 0x400000 && s.dev.coreIn part core else core == 0) &&
    (!sys || (!bitAt e 10 && !bitAt e 11))

/-- R272, R275, R277: permission and page state of a leaf for an access, else the fault's kind. -/
def leafAccess (s : State) (c part e pa : Nat) (acc : Access) : Option Nat :=
  let rd := bitAt e 6
  let wr := bitAt e 7
  let sys := bitAt e 9
  let st := bits e 62 61
  if !sys && s.foreign c part pa then some kindPartition
  else if st == 2 || (!sys && s.frameRetired pa) then some kindRetired
  else if acc == 3 then (if bitAt e 8 then none else some 3)
  else if (acc == 0 || acc == 2) && !rd then some 1
  else if (acc == 1 || acc == 2) && !wr then some 2
  else if (acc == 1 || acc == 2) && st == 1 then some 5
  else none

/-- The physical address of a virtual address in a page. -/
def TlbEnt.pa (p : TlbEnt) (va : Nat) : Nat := bits p.leaf.toNat 51 12 * 0x1000 + va % p.size
/-- R270: the level of a leaf, by the size of its page. -/
def TlbEnt.level (p : TlbEnt) : Nat := if p.size < 0x200000 then 0 else if p.size < 0x40000000 then 1 else 2

/-- The outcome of an access through a leaf of a page. -/
def leafXlate (s : State) (part va : Nat) (acc : Access) (p : TlbEnt) : Xlate :=
  match leafAccess s p.ctx part p.leaf.toNat (p.pa va) acc with
  | some k => .bad k p.level p.size
  | none => .ok (bitAt p.leaf.toNat 9) (p.pa va) p

/-- R270 to R273: the walk from the table at `table` of level `level`: the leaf that maps an address, or a fault's kind and level. -/
def walkLeaf (s : State) (c part va : Nat) : Nat → Nat → TlbEnt ⊕ (Nat × Nat)
  | level, table =>
    if s.foreign c part table then .inr (kindPartition, level)
    else
      let e := leNat (s.pread false (table + 8 * (va / 2 ^ (12 + 9 * level) % 512)) 8)
      let next := bits e 51 12 * 0x1000
      if !bitAt e 0 then .inr (kindNotPresent, level)
      else if bitAt e 1 then
        (if 3 ≤ level || !leafOk s part level e then .inr (kindMalformed, level)
         else
          let size := pageSize (bits e 5 2)
          .inl { owner := svc, ctx := c, va := va / size * size, size := size, leaf := BitVec.ofNat 64 e })
      else if bits e 63 52 != 0 || bits e 11 2 != 0 then .inr (kindMalformed, level)
      else match level with
        | 0 => .inr (kindMalformed, 0)
        | n + 1 => walkLeaf s c part va n next

/-- The outcome of a walk for an access; a page that no leaf maps counts as 4 KiB. -/
def walk (s : State) (c part : Nat) (va : Nat) (acc : Access) (level table : Nat) : Xlate :=
  match walkLeaf s c part va level table with
  | .inl p => leafXlate s part va acc p
  | .inr (k, lv) => .bad k lv 0x1000

/-- R278: an agent uses an entry: of its core's TLB, or of its cluster's. -/
def TlbEnt.serves (t : TlbEnt) (c va ag : Nat) : Bool :=
  t.ctx == c && decide (t.va ≤ va) && decide (va < t.va + t.size) && (t.owner == ag || (decide (ag < 256) && t.owner == 256 + ag / 4))
/-- R278: the entry that an agent finds cached: its core's own first. -/
def State.cached (s : State) (c va ag : Nat) : Option TlbEnt :=
  (s.page.tlb.find? fun t => t.serves c va ag && t.owner == ag).orElse fun _ => s.page.tlb.find? fun t => t.serves c va ag

/-- R274, R278: a translation by an agent: by a cached entry of the context, else by a walk. -/
def State.translate (s : State) (c va : Nat) (acc : Access) (ag : Nat := svc) : Xlate :=
  let d := (s.ctx c).desc
  match s.cached c va ag with
  | some t => leafXlate s d.part va acc t
  | none => walk s c d.part va acc 4 d.asroot

/-- R277: the device address of a virtual one that lies in a frame the device has retired. -/
def State.goneAt (s : State) (c va ag : Nat) : Option Nat :=
  let d := (s.ctx c).desc
  let leaf := match s.cached c va ag with
    | some t => some t
    | none => match walkLeaf s c d.part va 4 d.asroot with
      | .inl p => some p
      | .inr _ => none
  match leaf with
  | some p => if !p.leaf.getLsbD 9 && s.frameRetired (p.pa va) then some (p.pa va) else none
  | none => none

/-- R128: a range meets the 4 KiB granules of a loaded code object of the context. -/
def Ctx.inCode (c : Ctx) (va n : Nat) : Bool :=
  c.objs.any fun o => decide (va < (o.addr + o.len + 0xFFF) / 0x1000 * 0x1000) && decide (o.addr < va + n)

/-- Cuts a range at 4 KiB boundaries (at most `fuel` pieces). -/
def pieces : Nat → Nat → Nat → List (Nat × Nat)
  | 0, _, _ => []
  | fuel + 1, va, n =>
    if n = 0 then []
    else
      let k := min n (0x1000 - va % 0x1000)
      (va, k) :: pieces fuel (va + k) (n - k)

/-- The pieces of a range, all of them. -/
def piecesOf (va n : Nat) : List (Nat × Nat) := pieces (n / 0x1000 + 2) va n

/-- A fault met by a translated access: the address, the kind, the level and the size of the page. -/
structure TFault where
  va : Nat
  kind : Nat
  level : Nat
  size : Nat
  deriving DecidableEq, Repr, Inhabited

/-- R279: the base of the page that a fault met. -/
def TFault.page (f : TFault) : Nat := f.va / f.size * f.size

/-- The first translation fault of a range, if any. -/
def State.rangeFault (s : State) (c va n : Nat) (acc : Access) (ag : Nat := svc) : Option TFault :=
  (piecesOf va n).findSome? fun p =>
    match s.translate c p.1 acc ag with
    | .ok .. => none
    | .bad k lv sz => some { va := p.1, kind := k, level := lv, size := sz }

/-- R440: busy cycles of a context on an island. -/
def State.addBusy (s : State) (i c n : Nat) : State :=
  { s with energy := { s.energy with busy := mset s.energy.busy (4096 * i + c) ((mget s.energy.busy (4096 * i + c)).getD 0 + n) } }
/-- R8: the slices of a cache-die quadrant: beneath the cores of a 2 × 2 block of clusters. -/
def slicesOf (q : Nat) : List Nat :=
  (List.range 256).filter fun k => decide (k / 4 % 8 / 2 = q % 4) && decide (k / 4 / 8 / 2 = q / 4)
/-- R445, R477: a unit under test that satisfies `f`: its island, its core or slice, its quadrant. -/
def State.tested (s : State) (f : Nat → Nat → Nat → Bool) : Bool := s.energy.testing.any fun u => f (u % 256) (bits u 15 8) (bits u 23 16)
/-- R445: a core-cluster island's unit that a quadrant of a core needs is under test. -/
def State.coreTested (s : State) (core quad : Nat) : Bool :=
  s.tested fun i k q => i == core / 4 && (k == 0xFF || k == core) && (q == 0xFF || q == quad)
/-- R445: a cluster's traversal unit or Lighter is under test: a unit of the cluster that is no core. -/
def State.clusterTested (s : State) (c : Nat) : Bool := s.tested fun i k _ => i == c && k == 0xFF
/-- R445: the MXE of a cluster is under test. -/
def State.mxeTested (s : State) (c : Nat) : Bool := s.tested fun i _ _ => i == 0x40 + c
/-- R445: a service island is under test. -/
def State.serviceTested (s : State) (i : Nat) : Bool := s.tested fun j _ _ => i == j
/-- R445: a slice, or its cache-die quadrant, is under test. -/
def State.sliceTested (s : State) (k : Nat) : Bool :=
  s.tested fun i u _ => decide (0x80 ≤ i) && decide (i < 0x90) && (if u = 0xFF then (slicesOf (i - 0x80)).contains k else u == k)
/-- R422, R445: an access to a physical address waits: its port retrains or is not open, or a unit on its way is under test: its HBM stack,
its home slice, its link, the translation units (log 162). -/
def State.unready (s : State) (sys : Bool) (pa : Nat) : Bool :=
  let retrains (p : Nat) : Bool := (s.ports.getD p default).st == .retraining
  let stack := hbmStack (s.dev.cell pa / 0x200000)
  s.serviceTested 0x9E ||
    (if sys then retrains 0 || s.serviceTested 0x9B
     else if s.peerPa pa then (retrains 1 && retrains 2) || s.serviceTested (0x9C + (bits pa 7 7 + bits pa 12 12) % 2)
     else s.tested (fun i _ _ => i == 0x90 + stack) || s.sliceTested (Config.homeSlice (s.dev.cell pa / 128)))
/-- R422, R445: an access to a range waits for a port or a unit. -/
def State.rangeWaits (s : State) (c va n : Nat) (acc : Access) (ag : Nat := svc) : Bool :=
  !(s.energy.testing.isEmpty && s.ports.all fun p => p.st != .retraining) &&
    (piecesOf va n).any fun p => match s.translate c p.1 acc ag with
      | .ok sys pa _ => s.unready sys pa
      | .bad .. => false

/-- R128: the kind that stands here for a write into a loaded code object, beside the kinds of R279 (final). -/
def kindCode : Nat := 14
/-- R128: the fault of a device's own access: a write into a loaded code object, else a translation fault. -/
def State.agentFault (s : State) (c va n : Nat) (acc : Access) (ag : Nat := svc) : Option TFault :=
  if acc != 0 && acc != 3 && (s.ctx c).inCode va n then some { va := va, kind := kindCode, level := 0, size := 0x1000 }
  else s.rangeFault c va n acc ag
/-- R277: the device address that a page-retired fault met, when the device retired its frame. -/
def State.goneFrame (s : State) (c : Nat) (f : TFault) (ag : Nat := svc) : Option Nat :=
  if f.kind = kindRetired then s.goneAt c f.va ag else none
/-- R430: the cause that an engine or service agent reports for a fault. -/
def TFault.cause (f : TFault) : Nat := if f.kind = kindCode then 0x42 else 0x50 + f.kind

/-- The bytes of a translated range (zeros where a translation faults; callers test `rangeFault` first). -/
def State.vread (s : State) (c va n : Nat) (ag : Nat := svc) : List Byte :=
  (piecesOf va n).flatMap fun p =>
    match s.translate c p.1 0 ag with
    | .ok sys pa _ => s.pread sys pa p.2
    | .bad .. => List.replicate p.2 0

/-- Writes bytes through the translation of a context, piece by piece; a piece that does not translate is left. -/
def vwriteGo (c ag : Nat) : List (Nat × Nat) → List Byte → State → State
  | [], _, s => s
  | (va, k) :: t, bs, s =>
    let s := match s.translate c va 1 ag with
      | .ok sys pa _ => s.pwrite sys pa (bs.take k)
      | .bad .. => s
    vwriteGo c ag t (bs.drop k) s

/-- Writes bytes at a virtual address of a context. -/
def State.vwrite (s : State) (c va : Nat) (bs : List Byte) (ag : Nat := svc) : State := vwriteGo c ag (piecesOf va bs.length) bs s

/-- R88: a range that lies in device memory of the context's home package, every piece. -/
def State.inDevice (s : State) (c va n : Nat) (ag : Nat := svc) : Bool :=
  (piecesOf va n).all fun p =>
    match s.translate c p.1 0 ag with
    | .ok sys pa _ => !sys && s.dev.own pa == ((s.ctx c).home == s.dev.index)
    | .bad .. => true

/-- A stage descriptor of a flow graph by its id. -/
def Flow.stage (f : Flow) (id : Nat) : Option Stage := if id < f.sbase then none else f.stages[id - f.sbase]?

end Sys2Proof.Machine
end

