-- ==== Sys2Proof/Machine/Flags.lean ====
section
/-! DEFINITION. Number formats, exact arithmetic, rounding and flags (R17 to R40): a finite value is an integer times a
power of two, computed exactly and rounded once. -/
namespace Sys2Proof.Machine

/-- R32, R39: a flag set NV, DZ, OF, UF, NX in bits 4 to 0. -/
abbrev Flags := BitVec 5
/-- Invalid operation. -/
def fNV : Flags := 16
/-- Division by zero. -/
def fDZ : Flags := 8
/-- Overflow. -/
def fOF : Flags := 4
/-- Underflow. -/
def fUF : Flags := 2
/-- Inexact. -/
def fNX : Flags := 1

/-- R18, R21: a binary format: its exponent and fraction widths; `ocp4` is E4M3, which has no infinity. -/
structure FpFmt where
  eb : Nat
  fb : Nat
  ocp4 : Bool
  ocp5 : Bool
  deriving DecidableEq, Repr, Inhabited

/-- FP32. -/
def fp32 : FpFmt := { eb := 8, fb := 23, ocp4 := false, ocp5 := false }
/-- FP16. -/
def fp16 : FpFmt := { eb := 5, fb := 10, ocp4 := false, ocp5 := false }
/-- BF16. -/
def bf16 : FpFmt := { eb := 8, fb := 7, ocp4 := false, ocp5 := false }
/-- FP64. -/
def fp64 : FpFmt := { eb := 11, fb := 52, ocp4 := false, ocp5 := false }
/-- E4M3. -/
def e4m3 : FpFmt := { eb := 4, fb := 3, ocp4 := true, ocp5 := false }
/-- E5M2. -/
def e5m2 : FpFmt := { eb := 5, fb := 2, ocp4 := false, ocp5 := true }

/-- R17: the float format of a code 0 to 5. -/
def fmtOf (code : Nat) : FpFmt :=
  match code with
  | 1 => fp16 | 2 => bf16 | 3 => fp64 | 4 => e4m3 | 5 => e5m2 | _ => fp32

/-- The width of a format. -/
def FpFmt.width (f : FpFmt) : Nat := 1 + f.eb + f.fb
/-- The exponent bias. -/
def FpFmt.bias (f : FpFmt) : Nat := 2 ^ (f.eb - 1) - 1
/-- The sign bit as a number. -/
def FpFmt.signBit (f : FpFmt) : Nat := 2 ^ (f.eb + f.fb)
/-- The pattern of +infinity. -/
def FpFmt.inf (f : FpFmt) : Nat := (2 ^ f.eb - 1) * 2 ^ f.fb
/-- R18, R21: the canonical NaN. -/
def FpFmt.nan (f : FpFmt) : Nat :=
  if f.ocp4 then 0x7F else if f.ocp5 then 0x7E else f.inf + 2 ^ (f.fb - 1)
/-- The pattern of the largest finite value. -/
def FpFmt.max (f : FpFmt) : Nat := if f.ocp4 then 0x7E else f.inf - 1
/-- A pattern with a sign. -/
def FpFmt.signed (f : FpFmt) (neg : Bool) (x : Nat) : Nat := if neg then f.signBit + x else x

/-- A value: NaN (signalling or quiet), infinity, or (−1)^neg × m × 2^e. -/
inductive Fv where
  | nan (snan : Bool)
  | inf (neg : Bool)
  | fin (neg : Bool) (m : Nat) (e : Int)
  deriving DecidableEq, Repr, Inhabited

/-- R18, R20, R21: the value of a pattern. -/
def FpFmt.val (f : FpFmt) (x : Nat) : Fv :=
  let neg := bitAt x (f.eb + f.fb)
  let e := x / 2 ^ f.fb % 2 ^ f.eb
  let m := x % 2 ^ f.fb
  if f.ocp4 && e == 15 && m == 7 then .nan false
  else if !f.ocp4 && e == 2 ^ f.eb - 1 then
    (if m = 0 then .inf neg else .nan (!f.ocp5 && !bitAt m (f.fb - 1)))
  else if e = 0 then .fin neg m (1 - (f.bias : Int) - f.fb)
  else .fin neg (2 ^ f.fb + m) ((e : Int) - f.bias - f.fb)

/-- R20: negation inverts every sign, NaN included. -/
def Fv.neg : Fv → Fv
  | .nan s => .nan s
  | .inf n => .inf (!n)
  | .fin n m e => .fin (!n) m e

/-- R29: rounding modes 1 RNE, 2 RZ, 3 RU, 4 RD, 5 RNA, 6 SR. -/
abbrev Mode := Nat

/-- R29, R33: whether the magnitude `a + r/2^sh` goes up to `a + 1`. `w` is the SR word. -/
def roundUp (mode : Mode) (neg : Bool) (w a r sh : Nat) : Bool :=
  match mode with
  | 2 => false
  | 3 => !neg && r != 0
  | 4 => neg && r != 0
  | 5 => decide (2 ^ sh ≤ 2 * r)
  | 6 => decide (2 ^ 32 ≤ w + 2 ^ 32 * r / 2 ^ sh)
  | _ => decide (2 ^ sh < 2 * r) || (2 * r == 2 ^ sh && a % 2 == 1)

/-- The magnitude `m × 2^e` rounded to a multiple of `2^q`, as a multiple of it, with whether it was inexact. -/
def roundTo (mode : Mode) (neg : Bool) (w m : Nat) (e q : Int) : Nat × Bool :=
  if q ≤ e then (m * 2 ^ (e - q).toNat, false)
  else
    let sh := (q - e).toNat
    let a := m / 2 ^ sh
    let r := m % 2 ^ sh
    (if roundUp mode neg w a r sh then a + 1 else a, r != 0)

/-- R31: the pattern of an overflowed result. -/
def FpFmt.overflow (f : FpFmt) (mode : Mode) (sat neg : Bool) : Nat :=
  let big := match mode with
    | 2 => false
    | 3 => !neg
    | 4 => neg
    | _ => true
  if big && !sat then (if f.ocp4 then f.nan else f.signed neg f.inf) else f.signed neg f.max

/-- R31: an infinite result, the largest finite value under SAT. E4M3 has no infinity (R21). -/
def FpFmt.infinity (f : FpFmt) (sat neg : Bool) : Nat :=
  if sat then f.signed neg f.max else if f.ocp4 then f.nan else f.signed neg f.inf

/-- R29 to R31, R39: rounds the nonzero magnitude `m × 2^e` into a format. Tininess is judged after rounding with
unbounded exponent (IEEE 754). -/
def FpFmt.round (f : FpFmt) (mode : Mode) (sat : Bool) (w : Nat) (neg : Bool) (m : Nat) (e : Int) : Nat × Flags :=
  let lg : Int := (Nat.log2 m : Int) + e
  let emin : Int := 1 - (f.bias : Int)
  let qn : Int := lg - f.fb
  let qs : Int := emin - f.fb
  let q := if qn < qs then qs else qn
  let (a, nx) := roundTo mode neg w m e q
  let (a, q) := if a = 2 ^ (f.fb + 1) then (2 ^ f.fb, q + 1) else (a, q)
  let enc := if a < 2 ^ f.fb then a else (q - qs + 1).toNat * 2 ^ f.fb + (a - 2 ^ f.fb)
  if f.max < enc then (f.overflow mode sat neg, fOF ||| fNX)
  else
    let (au, _) := roundTo mode neg w m e qn
    let tiny := decide (lg < emin) && !(au == 2 ^ (f.fb + 1) && lg == emin - 1)
    (f.signed neg enc, (if nx then fNX else 0) ||| (if tiny && nx then fUF else 0))

/-- R19, R20, R31: rounds any value into a format; a signalling NaN raises NV. -/
def FpFmt.pack (f : FpFmt) (mode : Mode) (sat : Bool) (w : Nat) : Fv → Nat × Flags
  | .nan s => (f.nan, if s then fNV else 0)
  | .inf neg => (f.infinity sat neg, if f.ocp4 then fNV else 0)
  | .fin neg m e => if m = 0 then (f.signed neg 0, 0) else f.round mode sat w neg m e

/-- The NV of signalling operands. -/
def snans (l : List Fv) : Flags :=
  if l.any fun v => match v with
    | .nan s => s
    | _ => false then fNV else 0

/-- Whether a value is a NaN. -/
def Fv.isNan : Fv → Bool
  | .nan _ => true
  | _ => false

/-- A signed multiple of `2^e`; `zneg` is the sign of an exact zero. -/
def Fv.ofInt (zneg : Bool) (x e : Int) : Fv :=
  if x = 0 then .fin zneg 0 e else .fin (decide (x < 0)) x.natAbs e

/-- The integer `x` of a value `x × 2^q`, for `q` at or below its exponent. -/
def scaleTo (neg : Bool) (m : Nat) (e q : Int) : Int :=
  let x : Int := (m * 2 ^ (e - q).toNat : Nat)
  if neg then -x else x

/-- R19, R39: the exact sum, with NV for ∞ − ∞. -/
def Fv.add (mode : Mode) (a b : Fv) : Fv × Flags :=
  match a, b with
  | .nan x, .nan y => (.nan false, if x || y then fNV else 0)
  | .nan x, _ => (.nan false, if x then fNV else 0)
  | _, .nan y => (.nan false, if y then fNV else 0)
  | .inf x, .inf y => if x = y then (.inf x, 0) else (.nan false, fNV)
  | .inf x, _ => (.inf x, 0)
  | _, .inf y => (.inf y, 0)
  | .fin n m e, .fin n' m' e' =>
    let q := if e ≤ e' then e else e'
    let z := if m = 0 && m' = 0 && n == n' then n else mode == 4
    (.ofInt z (scaleTo n m e q + scaleTo n' m' e' q) q, 0)

/-- R39: the exact product, with NV for 0 × ∞. -/
def Fv.mul (a b : Fv) : Fv × Flags :=
  match a, b with
  | .nan x, .nan y => (.nan false, if x || y then fNV else 0)
  | .nan x, _ => (.nan false, if x then fNV else 0)
  | _, .nan y => (.nan false, if y then fNV else 0)
  | .inf x, .inf y => (.inf (x != y), 0)
  | .inf x, .fin n m _ => if m = 0 then (.nan false, fNV) else (.inf (x != n), 0)
  | .fin n m _, .inf y => if m = 0 then (.nan false, fNV) else (.inf (n != y), 0)
  | .fin n m e, .fin n' m' e' => (.fin (n != n') (m * m') (e + e'), 0)

/-- R210: the exact product and sum; a product 0 × ∞ is invalid even beside a quiet NaN. -/
def Fv.fma (mode : Mode) (a b c : Fv) : Fv × Flags :=
  let (p, f) := Fv.mul a b
  let (s, g) := Fv.add mode p c
  (s, f ||| g)

/-- An operation's exact result and flags, rounded. -/
def FpFmt.finish (f : FpFmt) (mode : Mode) (sat : Bool) (w : Nat) (r : Fv × Flags) : Nat × Flags :=
  let (x, g) := f.pack mode sat w r.1
  (x, g ||| r.2)

/-! ## Comparisons (R211, R212) -/

/-- The integer that orders two finite values at a common exponent, −0 equal to +0. -/
def cmpFin (n : Bool) (m : Nat) (e : Int) (n' : Bool) (m' : Nat) (e' : Int) : Ordering :=
  let q := if e ≤ e' then e else e'
  let x := scaleTo n m e q
  let y := scaleTo n' m' e' q
  if x < y then .lt else if x = y then .eq else .gt

/-- R212: the order of two values, none when either is a NaN. -/
def Fv.cmp (a b : Fv) : Option Ordering :=
  match a, b with
  | .nan _, _ => none
  | _, .nan _ => none
  | .inf x, .inf y => some (if x = y then .eq else if x then .lt else .gt)
  | .inf x, _ => some (if x then .lt else .gt)
  | _, .inf y => some (if y then .gt else .lt)
  | .fin n m e, .fin n' m' e' => some (cmpFin n m e n' m' e')

/-- R212: the conditions 0 to 13. -/
def fcond (c : Nat) (o : Option Ordering) : Bool :=
  let ord (f : Ordering → Bool) : Bool := match o with
    | some x => f x
    | none => false
  let un (f : Ordering → Bool) : Bool := match o with
    | some x => f x
    | none => true
  match c with
  | 0 => ord (· == .eq)
  | 1 => ord (· != .eq)
  | 2 => ord (· == .lt)
  | 3 => ord (· != .gt)
  | 4 => ord (· == .gt)
  | 5 => ord (· != .lt)
  | 6 => o.isSome
  | 7 => o.isNone
  | 8 => un (· == .eq)
  | 9 => un (· != .eq)
  | 10 => un (· == .lt)
  | 11 => un (· != .gt)
  | 12 => un (· == .gt)
  | _ => un (· != .lt)

/-- A value's sign. -/
def Fv.sign : Fv → Bool
  | .nan _ => false
  | .inf n => n
  | .fin n _ _ => n

/-- R211: minimum (`big` false) or maximum of two patterns under the rule `.num` or `.nan`; −0 lies below +0. -/
def FpFmt.minmax (f : FpFmt) (big nanRule : Bool) (x y : Nat) : Nat × Flags :=
  let a := f.val x
  let b := f.val y
  let fl := snans [a, b]
  if a.isNan || b.isNan then
    (if nanRule || (a.isNan && b.isNan) then (f.nan, fl) else (if a.isNan then y else x, fl))
  else
    let less := match Fv.cmp a b with
      | some .lt => true
      | some .eq => a.sign && !b.sign
      | _ => false
    (if less != big then x else y, fl)

/-! ## Integers (R22, R38) -/

/-- The clamp of an integer to a range. -/
def clampInt (lo hi x : Int) : Int := if x < lo then lo else if hi < x then hi else x

/-- The range of a `w`-bit integer. -/
def intLo (signed : Bool) (w : Nat) : Int := if signed then -((2 ^ (w - 1) : Nat) : Int) else 0
/-- The upper end of the range of a `w`-bit integer. -/
def intHi (signed : Bool) (w : Nat) : Int := if signed then ((2 ^ (w - 1) : Nat) : Int) - 1 else ((2 ^ w : Nat) : Int) - 1

/-- R22, R190: wraps to `w` bits, or clamps with SAT. -/
def fitInt (sat signed : Bool) (w : Nat) (x : Int) : Nat :=
  wrapNat w (if sat then clampInt (intLo signed w) (intHi signed w) x else x)

/-- The signed or unsigned value of `w` low bits. -/
def extInt (signed : Bool) (w x : Nat) : Int := if signed then sx w x else ((x % 2 ^ w : Nat) : Int)

/-- R29: a finite value rounded to an integer. -/
def roundInt (mode : Mode) (w : Nat) (neg : Bool) (m : Nat) (e : Int) : Int × Bool :=
  let (a, nx) := roundTo mode neg w m e 0
  (if neg then -(a : Int) else a, nx)

/-- R38: a float converted to an integer type, with the flags. -/
def toInt (mode : Mode) (w : Nat) (signed : Bool) (width : Nat) (v : Fv) : Int × Flags :=
  match v with
  | .nan _ => (0, fNV)
  | .inf neg => (if neg then intLo signed width else intHi signed width, fNV)
  | .fin neg m e =>
    let (x, nx) := roundInt mode w neg m e
    if x < intLo signed width || intHi signed width < x then (clampInt (intLo signed width) (intHi signed width) x, fNV)
    else (x, if nx then fNX else 0)

/-- R38: an integer as an exact value. -/
def ofIntFv (x : Int) : Fv := Fv.ofInt false x 0

/-- R213: a value rounded to an integral value of a format, keeping its sign. -/
def FpFmt.integral (f : FpFmt) (mode : Mode) (w : Nat) (x : Nat) : Nat × Flags :=
  match f.val x with
  | .nan s => (f.nan, if s then fNV else 0)
  | .inf neg => (f.signed neg f.inf, 0)
  | .fin neg m e =>
    let (a, nx) := roundTo mode neg w m e 0
    let r := if a = 0 then f.signed neg 0 else (f.round 2 false 0 neg a 0).1
    (r, if nx then fNX else 0)

/-! ## Rounding modes and stochastic words (R30, R33 to R36) -/

/-- R30: the mode an instruction rounds under; `sr` says whether its entry accepts SR. A DRM of 0 or 7, which no write
can leave (R32), rounds as RNE. -/
def pickMode (sr : Bool) (rnd drm : Nat) : Mode :=
  let m := if rnd = 0 then drm else rnd
  if m = 0 || 7 ≤ m || (!sr && m = 6) then 1 else m

/-- R34: the mix H. -/
def srHash (seed id ctr : Nat) : Nat :=
  let md := 2 ^ 64
  let x := Nat.xor seed (id * 0x9E3779B97F4A7C15 % md)
  let x := Nat.xor x (ctr * 0xD1B54A32D192ED03 % md)
  let x := Nat.xor x (x / 2 ^ 31)
  let x := x * 0xBF58476D1CE4E5B9 % md
  let x := Nat.xor x (x / 2 ^ 27)
  let x := x * 0x94D049BB133111EB % md
  let x := Nat.xor x (x / 2 ^ 31)
  x / 2 ^ 32 % 2 ^ 32

/-! ## FX64 (R27, R28) -/

/-- R28: a value rounded to the nearest multiple of 2^fxscale, ties to even, saturated: the cell, whether it saturated,
whether it was a NaN. -/
def toFx (scale : Int) (v : Fv) : Int × Bool × Bool :=
  let lo := intLo true 64
  let hi := intHi true 64
  match v with
  | .nan _ => (0, false, true)
  | .inf neg => (if neg then lo else hi, true, false)
  | .fin neg m e =>
    let (a, _) := roundTo 1 neg 0 m e scale
    let x : Int := if neg then -(a : Int) else a
    if x < lo || hi < x then (clampInt lo hi x, true, false) else (x, false, false)

/-- R27: the exact value of a cell. -/
def ofFx (scale n : Int) : Fv := Fv.ofInt false n scale

end Sys2Proof.Machine
end

