-- ==== Sys2Proof/Machine/Forms.lean ====
section
/-! DEFINITION. Operand forms (R57 to R67): what an instruction's entry says of each field, the check of R55 step 2, and
the registers an instruction reads and writes (R52). -/
namespace Sys2Proof.Machine

/-- The registers the rule of R52 covers. -/
inductive RegId where
  | v (n : Nat) | w (n : Nat) | p (n : Nat) | i (n : Nat) | jm (n : Nat) | sh (n : Nat)
  deriving DecidableEq, Repr, Inhabited

/-- The specifiers an operand may use (R63): `v` registers, `w` registers, indexed `v[in]`, specials, constants, and
`%zero` as a destination. -/
structure Kinds where
  v : Bool := false
  w : Bool := false
  x : Bool := false
  s : Bool := false
  c : Bool := false
  z : Bool := false
  deriving DecidableEq, Repr, Inhabited

/-- Any source operand. -/
def kSrc : Kinds := { v := true, w := true, x := true, s := true, c := true }
/-- Any destination: `v`, `w`, `v[in]` or `%zero`. -/
def kDst : Kinds := { v := true, w := true, x := true, z := true }
/-- A `v` or `w` register, `v[in]` included, which no entry forbids here (log 12). -/
def kVW : Kinds := { v := true, w := true, x := true }
/-- A `v` or `w` register named directly. -/
def kVWonly : Kinds := { v := true, w := true }
/-- A `v` register. -/
def kV : Kinds := { v := true }
/-- A `v` or `w` register, or `%zero`. -/
def kVWZ : Kinds := { v := true, w := true, x := true, z := true }
/-- A `v` register, or `%zero`. -/
def kVZ : Kinds := { v := true, z := true }

/-- One operand: its field (0 D, 1 A, 2 B, 3 C), its specifier, its register count and alignment, its specifiers'
kinds, and whether it is read and written. -/
structure Opd where
  fld : Nat
  spec : Nat
  n : Nat
  align : Nat
  k : Kinds
  rd : Bool
  wr : Bool
  deriving DecidableEq, Repr, Inhabited

/-- A source operand. -/
def src (fld : Nat) (spec : BitVec 8) (n : Nat := 1) (k : Kinds := kSrc) : Opd :=
  { fld := fld, spec := spec.toNat, n := n, align := n, k := k, rd := true, wr := false }
/-- A destination operand. -/
def dst (fld : Nat) (spec : BitVec 8) (n : Nat := 1) (k : Kinds := kDst) : Opd :=
  { fld := fld, spec := spec.toNat, n := n, align := n, k := k, rd := false, wr := true }

/-- R63, R67: the specifier is legal for the operand in an allocation of `alloc` registers. -/
def Opd.ok (o : Opd) (alloc : Nat) : Bool :=
  if o.spec < 0xC0 then o.k.v && o.spec % o.align == 0 && decide (o.spec + o.n ≤ alloc)
  else if o.spec < 0xE0 then o.k.w && (o.spec - 0xC0) % o.align == 0 && decide (o.spec - 0xC0 + o.n ≤ 32)
  else if o.spec < 0xE4 then o.k.x
  else if o.spec < 0xE8 || o.spec == 0xFF then false
  else if o.spec == 0xE8 then o.k.z || o.k.s
  else if o.spec < 0xF0 then o.k.s
  else o.k.c

/-- The registers an operand names (R52, R66). -/
def Opd.regs (o : Opd) (alloc : Nat) : List RegId :=
  if o.spec < 0xC0 then (List.range o.n).map fun j => .v (o.spec + j)
  else if o.spec < 0xE0 then (List.range o.n).map fun j => .w (o.spec - 0xC0 + j)
  else if o.spec < 0xE4 then (List.range alloc).map .v
  else []

/-- Whether an operand goes through an index register. -/
def Opd.indexed (o : Opd) : Bool := decide (0xE0 ≤ o.spec) && decide (o.spec < 0xE4)

/-- What an instruction's entry says of its word: whether its reserved fields are zero, whether its modifiers are
accepted, its operands, the operand fields its own checks reject (4 is an immediate), the further registers it reads
and writes, and whether a held A latch stands for operand A (R339). -/
structure Form where
  rsv : Bool := true
  mods : Bool := true
  ops : List Opd := []
  bad : List Nat := []
  rd : List RegId := []
  wr : List RegId := []
  latched : Bool := false
  deriving DecidableEq, Repr, Inhabited

/-- R55 step 2, after opcode and class: reserved fields (0x04), modifiers (0x05), operands (0x20 to 0x24 by field). -/
def Form.cause (f : Form) (pred : BitVec 4) (alloc : Nat) : Option Nat :=
  if !f.rsv then some 0x04
  else if pred == 15 || !f.mods then some 0x05
  else
    let wrong := (f.ops.filter fun o => !o.ok alloc).map (·.fld) ++ f.bad
    ([0, 1, 2, 3, 4].find? wrong.contains).map (0x20 + ·)

/-- The guard's register (R52). -/
def guardReg (pred : BitVec 4) : List RegId := if pred.toNat % 8 < 7 then [.p (pred.toNat % 8)] else []

/-- The index registers an instruction's operands go through. -/
def Form.idxRegs (f : Form) : List RegId := (f.ops.filter Opd.indexed).map fun o => .i (o.spec - 0xE0)

/-- R52: the registers an instruction reads. -/
def Form.reads (f : Form) (pred : BitVec 4) (alloc : Nat) : List RegId :=
  guardReg pred ++ f.idxRegs ++ f.rd ++ (f.ops.filter (·.rd)).flatMap (·.regs alloc)

/-- R52: the registers an instruction writes. -/
def Form.writes (f : Form) (alloc : Nat) : List RegId :=
  f.wr ++ (f.ops.filter (·.wr)).flatMap (·.regs alloc)

/-- A predicate as a register of R52; `p7` is none. -/
def pReg (n : Nat) : List RegId := if n < 7 then [.p n] else []

/-! ## Fields -/

/-- The fields of F3 an entry uses: operands A, B, C with their marks, raw B and C fields, and the low fields. -/
structure Use3 where
  d : Bool := false
  a : Bool := false
  b : Bool := false
  c : Bool := false
  araw : Bool := false
  braw : Bool := false
  craw : Bool := false
  fmt : Bool := false
  rnd : Nat := 0
  sat : Bool := false
  reuse : Bool := false
  sa : Bool := false
  sb : Bool := false
  mod : Nat := 0

end Sys2Proof.Machine
namespace Sys2Proof
/-- R62: the fields an entry does not use are zero. `mod` and `rnd` are masks of the bits it uses. -/
def F3.clear (f : F3) (u : Machine.Use3) : Bool :=
  (u.d || f.d == 0) && (u.a || (!f.markA && (u.araw || f.a == 0))) && (u.b || (!f.markB && (u.braw || f.b == 0))) &&
    (u.c || (!f.markC && (u.craw || f.c == 0))) && (u.fmt || f.fmt == 0) &&
    (f.rnd.toNat &&& (7 - u.rnd)) == 0 && (u.sat || !f.sat) && (u.reuse || !f.reuse) &&
    (u.sa || (!f.negA && !f.absA)) && (u.sb || (!f.negB && !f.absB)) && (f.mod.toNat &&& (15 - u.mod)) == 0

/-- EXT[15:8] of R188. -/
def F3.ext (f : F3) : Nat := f.fmt.toNat * 16 + f.rnd.toNat * 2 + bn f.sat

/-- R60: the fields of FM every entry shares: WK is reserved with TV = 0; SCOPE 7 is an illegal modifier. -/
def FM.wkOk (f : FM) : Bool := f.tv || f.wk == 0

/-- The offset of FM as an integer. -/
def FM.offset (f : FM) : Int := f.off.toInt
end Sys2Proof
namespace Sys2Proof.Machine

/-- R57: the predicate field that selects `p7` unconditionally. -/
def always (p : BitVec 4) : Bool := p == 7

end Sys2Proof.Machine
end

