-- ==== Sys2Proof/Machine/Sha.lean ====
section
/-! DEFINITION. SHA-384 (FIPS 180-4) and the tree hash of R86, as functions of bytes. -/
namespace Sys2Proof.Machine

/-- The round constants. -/
def shaK1 : List Nat :=
  [0x428A2F98D728AE22, 0x7137449123EF65CD, 0xB5C0FBCFEC4D3B2F, 0xE9B5DBA58189DBBC, 0x3956C25BF348B538,
   0x59F111F1B605D019, 0x923F82A4AF194F9B, 0xAB1C5ED5DA6D8118, 0xD807AA98A3030242, 0x12835B0145706FBE,
   0x243185BE4EE4B28C, 0x550C7DC3D5FFB4E2, 0x72BE5D74F27B896F, 0x80DEB1FE3B1696B1, 0x9BDC06A725C71235,
   0xC19BF174CF692694, 0xE49B69C19EF14AD2, 0xEFBE4786384F25E3, 0xFC19DC68B8CD5B5, 0x240CA1CC77AC9C65,
   0x2DE92C6F592B0275, 0x4A7484AA6EA6E483, 0x5CB0A9DCBD41FBD4, 0x76F988DA831153B5, 0x983E5152EE66DFAB,
   0xA831C66D2DB43210, 0xB00327C898FB213F, 0xBF597FC7BEEF0EE4, 0xC6E00BF33DA88FC2, 0xD5A79147930AA725,
   0x6CA6351E003826F, 0x142929670A0E6E70, 0x27B70A8546D22FFC, 0x2E1B21385C26C926, 0x4D2C6DFC5AC42AED,
   0x53380D139D95B3DF, 0x650A73548BAF63DE, 0x766A0ABB3C77B2A8, 0x81C2C92E47EDAEE6, 0x92722C851482353B]
/-- The round constants, the second half. -/
def shaK2 : List Nat :=
  [0xA2BFE8A14CF10364, 0xA81A664BBC423001, 0xC24B8B70D0F89791, 0xC76C51A30654BE30, 0xD192E819D6EF5218,
   0xD69906245565A910, 0xF40E35855771202A, 0x106AA07032BBD1B8, 0x19A4C116B8D2D0C8, 0x1E376C085141AB53,
   0x2748774CDF8EEB99, 0x34B0BCB5E19B48A8, 0x391C0CB3C5C95A63, 0x4ED8AA4AE3418ACB, 0x5B9CCA4F7763E373,
   0x682E6FF3D6B2B8A3, 0x748F82EE5DEFB2FC, 0x78A5636F43172F60, 0x84C87814A1F0AB72, 0x8CC702081A6439EC,
   0x90BEFFFA23631E28, 0xA4506CEBDE82BDE9, 0xBEF9A3F7B2C67915, 0xC67178F2E372532B, 0xCA273ECEEA26619C,
   0xD186B8C721C0C207, 0xEADA7DD6CDE0EB1E, 0xF57D4F7FEE6ED178, 0x6F067AA72176FBA, 0xA637DC5A2C898A6,
   0x113F9804BEF90DAE, 0x1B710B35131C471B, 0x28DB77F523047D84, 0x32CAAB7B40C72493, 0x3C9EBE0A15C9BEBC,
   0x431D67C49C100D4C, 0x4CC5D4BECB3E42B6, 0x597F299CFC657E2A, 0x5FCB6FAB3AD6FAEC, 0x6C44198C4A475817]
/-- The initial hash value of SHA-384. -/
def shaH0 : List Nat :=
  [0xCBBB9D5DC1059ED8, 0x629A292A367CD507, 0x9159015A3070DD17, 0x152FECD8F70E5939, 0x67332667FFC00B31,
   0x8EB44A8768581511, 0xDB0C2E0D64F98FA7, 0x47B5481DBEFA4FA4]

/-- 2^64. -/
def w64 : Nat := 2 ^ 64
/-- Rotates a 64-bit number right. -/
def ror64 (x n : Nat) : Nat := x / 2 ^ n + x % 2 ^ n * 2 ^ (64 - n)
/-- Exclusive or of three numbers. -/
def xor3 (x y z : Nat) : Nat := Nat.xor x (Nat.xor y z)
/-- The lower-case sigma functions of the schedule. -/
def shaS0 (x : Nat) : Nat := xor3 (ror64 x 1) (ror64 x 8) (x / 2 ^ 7)
/-- The second schedule function. -/
def shaS1 (x : Nat) : Nat := xor3 (ror64 x 19) (ror64 x 61) (x / 2 ^ 6)

/-- Extends the schedule by `n` words; the list holds the last sixteen, the newest first, before the rest. -/
def shaExpand : Nat → List Nat → List Nat
  | 0, ws => ws
  | n + 1, ws =>
    let w := (shaS1 (ws.getD 1 0) + ws.getD 6 0 + shaS0 (ws.getD 14 0) + ws.getD 15 0) % w64
    shaExpand n (w :: ws)

/-- The working variables. -/
structure ShaVars where
  a : Nat
  b : Nat
  c : Nat
  d : Nat
  e : Nat
  f : Nat
  g : Nat
  h : Nat
  deriving DecidableEq, Repr

/-- One round with a constant and a schedule word. -/
def shaRound (v : ShaVars) (kw : Nat × Nat) : ShaVars :=
  let s1 := xor3 (ror64 v.e 14) (ror64 v.e 18) (ror64 v.e 41)
  let ch := Nat.xor (Nat.land v.e v.f) (Nat.land (w64 - 1 - v.e) v.g)
  let t1 := v.h + s1 + ch + kw.1 + kw.2
  let s0 := xor3 (ror64 v.a 28) (ror64 v.a 34) (ror64 v.a 39)
  let mj := xor3 (Nat.land v.a v.b) (Nat.land v.a v.c) (Nat.land v.b v.c)
  { a := (t1 + s0 + mj) % w64, b := v.a, c := v.b, d := v.c, e := (v.d + t1) % w64, f := v.e, g := v.f, h := v.g }

/-- Compresses one block of sixteen words into the hash value. -/
def shaBlock (hs : List Nat) (blk : List Nat) : List Nat :=
  let ws := (shaExpand 64 blk.reverse).reverse
  let g (i : Nat) : Nat := hs.getD i 0
  let v := ((shaK1 ++ shaK2).zip ws).foldl shaRound
    { a := g 0, b := g 1, c := g 2, d := g 3, e := g 4, f := g 5, g := g 6, h := g 7 }
  [(g 0 + v.a) % w64, (g 1 + v.b) % w64, (g 2 + v.c) % w64, (g 3 + v.d) % w64,
   (g 4 + v.e) % w64, (g 5 + v.f) % w64, (g 6 + v.g) % w64, (g 7 + v.h) % w64]

/-- Big-endian 64-bit words of a list of bytes, `n` of them. -/
def beWords : Nat → List Byte → List Nat
  | 0, _ => []
  | n + 1, bs => beNat (bs.take 8) :: beWords n (bs.drop 8)

/-- Hashes `n` blocks. -/
def shaBlocks : Nat → List Byte → List Nat → List Nat
  | 0, _, hs => hs
  | n + 1, bs, hs => shaBlocks n (bs.drop 128) (shaBlock hs (beWords 16 (bs.take 128)))

/-- SHA-384 of a message, as its 48 bytes. -/
def sha384 (m : List Byte) : List Byte :=
  let k := (239 - (m.length % 128)) % 128
  let padded := m ++ [0x80] ++ List.replicate k 0 ++ beBytes 16 (8 * m.length)
  ((shaBlocks (padded.length / 128) padded shaH0).take 6).flatMap (beBytes 8)

/-- A digest as a number whose bytes, most significant first, are the 48 bytes. -/
def digestOf (bs : List Byte) : BitVec 384 := BitVec.ofNat 384 (beNat bs)
/-- The 48 bytes of a digest. -/
def digestBytes (d : BitVec 384) : List Byte := beBytes 48 d.toNat

/-- Cuts a list in runs of `k`, `n` of them at most. -/
def runs {α : Type} (k : Nat) : Nat → List α → List (List α)
  | 0, _ => []
  | n + 1, l => if l.isEmpty then [] else l.take k :: runs k n (l.drop k)

/-- R86: the leaves of a buffer with the bytes each covers; an empty buffer has one empty chunk. -/
def treeLeaves (bs : List Byte) : List (Nat × List Byte) :=
  let cs := if bs.isEmpty then [[]] else runs 65536 (bs.length / 65536 + 1) bs
  (cs.zip (List.range cs.length)).map fun (c, j) => (c.length, sha384 ([0] ++ leBytes 8 j ++ c))

/-- R86: one node over its children. -/
def treeNode (ch : List (Nat × List Byte)) : Nat × List Byte :=
  let n := ch.foldl (fun a c => a + c.1) 0
  (n, sha384 ([1] ++ leBytes 8 n ++ ch.flatMap (·.2)))

/-- R86: groups nodes in runs of 4,096 until one remains. -/
def treeUp : Nat → List (Nat × List Byte) → List Byte
  | 0, l => ((l.head?).getD (0, [])).2
  | fuel + 1, l =>
    let nodes := (runs 4096 (l.length / 4096 + 1) l).map treeNode
    match nodes with
    | [x] => x.2
    | _ => treeUp fuel nodes

/-- R86: the tree hash of a buffer. -/
def treeHash (bs : List Byte) : BitVec 384 := digestOf (treeUp 6 (treeLeaves bs))

end Sys2Proof.Machine
end

