-- ==== Sys2Proof/Machine/Sign.lean ====
section
/-! DEFINITION. The signatures of R98 and the key store of R99 and R100: CRC-32, SHA-256 (FIPS 180-4), ECDSA on curve P-384 (FIPS 186-5),
LM-OTS, LMS and HSS as RFC 8554 and NIST SP 800-208 publish them, alias generations, reservation records and key statements. The
secrets are constants without a body (log 119). -/
namespace Sys2Proof.Machine

/-! ## CRC-32 and SHA-256 -/

/-- CRC-32 as IEEE 802.3 has it, one byte (log 18). -/
def crc32Byte (c : Word) (b : Byte) : Word :=
  (List.range 8).foldl (fun c _ => if c.getLsbD 0 then (c >>> 1) ^^^ 0xEDB88320 else c >>> 1) (c ^^^ b.zeroExtend 32)
/-- CRC-32 of bytes. -/
def crc32 (bs : List Byte) : Word := ~~~ bs.foldl crc32Byte 0xFFFFFFFF

/-- 2^32. -/
def w32 : Nat := 2 ^ 32
/-- Rotates a 32-bit number right. -/
def ror32 (x n : Nat) : Nat := x / 2 ^ n + x % 2 ^ n * 2 ^ (32 - n)
/-- The round constants of SHA-256 are the upper halves of the first 64 of SHA-384. -/
def sha256K : List Nat := ((shaK1 ++ shaK2).take 64).map (· / w32)
/-- The initial hash value of SHA-256. -/
def sha256H0 : List Nat := [0x6A09E667, 0xBB67AE85, 0x3C6EF372, 0xA54FF53A, 0x510E527F, 0x9B05688C, 0x1F83D9AB, 0x5BE0CD19]
/-- Extends the schedule by `n` words, the newest first. -/
def sha256Expand : Nat → List Nat → List Nat
  | 0, ws => ws
  | n + 1, ws =>
    let x := ws.getD 14 0
    let y := ws.getD 1 0
    let w := (xor3 (ror32 y 17) (ror32 y 19) (y / 2 ^ 10) + ws.getD 6 0 + xor3 (ror32 x 7) (ror32 x 18) (x / 2 ^ 3) + ws.getD 15 0) % w32
    sha256Expand n (w :: ws)
/-- One round with a constant and a schedule word. -/
def sha256Round (v : ShaVars) (kw : Nat × Nat) : ShaVars :=
  let s1 := xor3 (ror32 v.e 6) (ror32 v.e 11) (ror32 v.e 25)
  let ch := Nat.xor (Nat.land v.e v.f) (Nat.land (w32 - 1 - v.e) v.g)
  let t1 := v.h + s1 + ch + kw.1 + kw.2
  let s0 := xor3 (ror32 v.a 2) (ror32 v.a 13) (ror32 v.a 22)
  let mj := xor3 (Nat.land v.a v.b) (Nat.land v.a v.c) (Nat.land v.b v.c)
  { a := (t1 + s0 + mj) % w32, b := v.a, c := v.b, d := v.c, e := (v.d + t1) % w32, f := v.e, g := v.f, h := v.g }
/-- Compresses one block of sixteen words. -/
def sha256Block (hs blk : List Nat) : List Nat :=
  let ws := (sha256Expand 48 blk.reverse).reverse
  let g (i : Nat) : Nat := hs.getD i 0
  let v := (sha256K.zip ws).foldl sha256Round { a := g 0, b := g 1, c := g 2, d := g 3, e := g 4, f := g 5, g := g 6, h := g 7 }
  [(g 0 + v.a) % w32, (g 1 + v.b) % w32, (g 2 + v.c) % w32, (g 3 + v.d) % w32,
   (g 4 + v.e) % w32, (g 5 + v.f) % w32, (g 6 + v.g) % w32, (g 7 + v.h) % w32]
/-- Hashes `n` blocks of 64 bytes. -/
def sha256Blocks : Nat → List Byte → List Nat → List Nat
  | 0, _, hs => hs
  | n + 1, bs, hs => sha256Blocks n (bs.drop 64) (sha256Block hs ((List.range 16).map fun i => beNat ((bs.drop (4 * i)).take 4)))
/-- SHA-256 of a message, as its 32 bytes. -/
def sha256 (m : List Byte) : List Byte :=
  let padded := m ++ [0x80] ++ List.replicate ((119 - m.length % 64) % 64) 0 ++ beBytes 8 (8 * m.length)
  (sha256Blocks (padded.length / 64) padded sha256H0).flatMap (beBytes 4)

/-! ## ECDSA on P-384 (R98) -/

/-- The prime of the field. -/
def p384P : Nat := 2 ^ 384 - 2 ^ 128 - 2 ^ 96 + 2 ^ 32 - 1
/-- The order of the group. -/
def p384N : Nat := 0xFFFFFFFFFFFFFFFFFFFFFFFFFFFFFFFFFFFFFFFFFFFFFFFFC7634D81F4372DDF581A0DB248B0A77AECEC196ACCC52973
/-- The base point. -/
def p384G : Nat × Nat :=
  (0xAA87CA22BE8B05378EB1C71EF320AD746E1D3B628BA79B9859F741E082542A385502F25DBF55296C3A545E3872760AB7,
   0x3617DE4A96262C6F5D9E98BF9292DC29F8F41DBD289A147CE9DA3113B5F0B8C00A60B1CE1D7E819D7A431D7C90EA0E5F)
/-- `x` to the power `e` modulo `m`, over `n` bits of `e`. -/
def powMod (m : Nat) : Nat → Nat → Nat → Nat
  | 0, _, _ => 1 % m
  | n + 1, x, e =>
    let r := powMod m n (x * x % m) (e / 2)
    if e % 2 = 1 then r * x % m else r
/-- The inverse modulo a prime below 2^384. -/
def invMod (m x : Nat) : Nat := powMod m 384 (x % m) (m - 2)
/-- The sum of two points; none is the point at infinity. -/
def p384Add (a b : Option (Nat × Nat)) : Option (Nat × Nat) :=
  let p := p384P
  match a, b with
  | none, _ => b
  | _, none => a
  | some (x1, y1), some (x2, y2) =>
    let go (l : Nat) : Option (Nat × Nat) :=
      let x := (l * l + 2 * p - x1 - x2) % p
      some (x, (l * (x1 + p - x) + p - y1) % p)
    if x1 = x2 then (if (y1 + y2) % p = 0 then none else go ((3 * x1 * x1 + p - 3) * invMod p (2 * y1) % p))
    else go ((y2 + p - y1) * invMod p (x2 + p - x1) % p)
/-- A multiple of a point, over `n` bits of the factor. -/
def p384Mul : Nat → Nat → Option (Nat × Nat) → Option (Nat × Nat)
  | 0, _, _ => none
  | n + 1, k, a =>
    let r := p384Mul n (k / 2) (p384Add a a)
    if k % 2 = 1 then p384Add a r else r
/-- The public key of a private key, uncompressed SEC1: 97 bytes. -/
def p384Public (d : Nat) : List Byte :=
  let q := (p384Mul 384 d (some p384G)).getD (0, 0)
  [0x04] ++ beBytes 48 q.1 ++ beBytes 48 q.2
/-- R98: ECDSA over SHA-384 of a body with a private key and a per-signature number: r then s, big-endian. -/
def ecdsaSign (d k : Nat) (body : List Byte) : List Byte :=
  let r := ((p384Mul 384 k (some p384G)).getD (0, 0)).1 % p384N
  let s := invMod p384N k * (beNat (sha384 body) + r * d) % p384N
  beBytes 48 r ++ beBytes 48 s

/-! ## LM-OTS, LMS and HSS (R98, R99) -/

/-- An HSS key of the device: 0 the identity key, g the alias key of generation g; `h` is the height of its trees. -/
structure HssKey where
  id : Nat
  h : Nat
/-- LMS_SHA256_M32_H10 and LMS_SHA256_M32_H20. -/
def HssKey.lmsType (k : HssKey) : Nat := if k.h = 10 then 6 else 8
/-- LMOTS_SHA256_N32_W8. -/
def lmotsType : Nat := 4
/-- One LMS tree of a key: level 0, or tree `i` of level 1, with its identifier and its secrets. -/
structure LmsTree where
  key : HssKey
  level : Nat
  i : Nat
/-- The 16-byte identifier I of a tree. -/
def LmsTree.ident (t : LmsTree) : List Byte := beBytes 16 (Config.lmsIdent t.key.id t.level t.i).toNat
/-- The chain `i` of leaf q, from its element at step `a`, to step `b`. -/
def LmsTree.chain (t : LmsTree) (q i : Nat) : Nat → Nat → List Byte → List Byte
  | 0, _, x => x
  | n + 1, a, x => t.chain q i n (a + 1) (sha256 (t.ident ++ beBytes 4 q ++ beBytes 2 i ++ beBytes 1 a ++ x))
/-- The secret element of a chain. -/
def LmsTree.secret (t : LmsTree) (q i : Nat) : List Byte := beBytes 32 (Config.lmsSecret t.key.id t.level t.i (q * 64 + i)).toNat
/-- LM-OTS: the hash of the public key of leaf q (34 chains of 8 bits). -/
def LmsTree.otsPub (t : LmsTree) (q : Nat) : List Byte :=
  sha256 (t.ident ++ beBytes 4 q ++ [0x80, 0x80] ++ (List.range 34).flatMap fun i => t.chain q i 255 0 (t.secret q i))
/-- LMS: the value of node r, `n` levels above the leaves. -/
def LmsTree.node (t : LmsTree) : Nat → Nat → List Byte
  | 0, r => sha256 (t.ident ++ beBytes 4 r ++ [0x82, 0x82] ++ t.otsPub (r - 2 ^ t.key.h))
  | n + 1, r => sha256 (t.ident ++ beBytes 4 r ++ [0x83, 0x83] ++ t.node n (2 * r) ++ t.node n (2 * r + 1))
/-- The 56 bytes of an LMS public key. -/
def LmsTree.pub (t : LmsTree) : List Byte := beBytes 4 t.key.lmsType ++ beBytes 4 lmotsType ++ t.ident ++ t.node t.key.h 1
/-- LM-OTS: the signature of leaf q over a message. -/
def LmsTree.otsSign (t : LmsTree) (q : Nat) (m : List Byte) : List Byte :=
  let c := beBytes 32 (Config.lmsRandom t.key.id t.level t.i q).toNat
  let d := sha256 (t.ident ++ beBytes 4 q ++ [0x81, 0x81] ++ c ++ m)
  let ck := d.foldl (fun a b => a + (255 - b.toNat)) 0
  let v := d ++ beBytes 2 ck
  beBytes 4 lmotsType ++ c ++ (List.range 34).flatMap fun i => t.chain q i (v.getD i 0).toNat 0 (t.secret q i)
/-- LMS: the signature of leaf q over a message, with the path to the root. -/
def LmsTree.sign (t : LmsTree) (q : Nat) (m : List Byte) : List Byte :=
  let r := 2 ^ t.key.h + q
  beBytes 4 q ++ t.otsSign q m ++ beBytes 4 t.key.lmsType ++ (List.range t.key.h).flatMap fun j => t.node j (Nat.xor (r / 2 ^ j) 1)
/-- The 60 bytes of an HSS public key with L = 2. -/
def HssKey.pub (k : HssKey) : List Byte := beBytes 4 2 ++ (LmsTree.mk k 0 0).pub
/-- HSS with L = 2: the signature of leaf n over a message: the signed public key of the lower tree, and its signature. -/
def HssKey.sign (k : HssKey) (n : Nat) (m : List Byte) : List Byte :=
  let top := LmsTree.mk k 0 0
  let low := LmsTree.mk k 1 (n / 2 ^ k.h)
  beBytes 4 1 ++ top.sign (n / 2 ^ k.h) low.pub ++ low.pub ++ low.sign (n % 2 ^ k.h) m

/-! ## The keys of the device (R99) -/

/-- R99: the HSS identity key. -/
def identityHss : HssKey := ⟨0, 10⟩
/-- R98, R99: the HSS alias key of a generation. -/
def aliasHss (gen : Nat) : HssKey := ⟨gen, 20⟩
/-- R99: the P-384 private key: 0 identity, g alias of generation g. -/
def p384Key (g : Nat) : Nat := (Config.p384Secret g).toNat % (p384N - 1) + 1
/-- R98: an ECDSA signature by a key over a body. -/
def signEcdsa (g : Nat) (body : List Byte) : List Byte :=
  ecdsaSign (p384Key g) ((Config.ecdsaNonce g (beNat body)).toNat % (p384N - 1) + 1) body
/-- R96: the identity key id: bytes 0 to 15 of SHA-384 of the P-384 identity public key. -/
def identityKeyId : List Byte := (sha384 (p384Public (p384Key 0))).take 16

/-! ## The key store (R99, R100) -/

/-- R100: the bytes of a reservation record that its CRC-32 covers (log 120). -/
def Reservation.bytes (r : Reservation) : List Byte := leBytes 4 r.gen ++ leBytes 8 r.limit ++ leBytes 8 r.seq
/-- R100: a record whose CRC checks. -/
def Reservation.checks (r : Reservation) : Bool := r.crc == crc32 r.bytes
/-- R100: the current record of a key: of those whose CRC checks, the highest sequence. -/
def currentRes (rs : List Reservation) (gen : Nat) : Option Reservation :=
  leastBy (fun r => rs.foldl (fun a x => a + x.seq) 0 - r.seq) (rs.filter fun r => r.gen == gen && r.checks)
/-- R100: the limit that flash holds for a key. -/
def limitOf (rs : List Reservation) (gen : Nat) : Nat := ((currentRes rs gen).map (·.limit)).getD 0

/-- R100: the next leaf of the alias key in use. -/
def KeyUnit.leaf (k : KeyUnit) : Nat := (mget k.leaves k.gen).getD 0
/-- R100: the limit of the alias key in use. -/
def KeyUnit.limit (k : KeyUnit) : Nat := limitOf k.flash k.gen
/-- R100: writes a reservation record for a key in at most three attempts, each verified by read-back; an incomplete write leaves
the previous record current. `some` tells that one succeeded. -/
def KeyUnit.write (k : KeyUnit) (rs : List Reservation) (gen limit : Nat) : Option (List Reservation) × KeyUnit :=
  let r : Reservation := { gen := gen, limit := limit, seq := ((currentRes rs gen).map (·.seq + 1)).getD 1, crc := 0 }
  match (List.range 3).find? fun j => Config.flashWriteOk (k.flashWrites + j) with
  | none => (none, { k with flashWrites := k.flashWrites + 3 })
  | some j => (some ((rs.filter fun x => x.gen != gen) ++ [{ r with crc := crc32 r.bytes }]), { k with flashWrites := k.flashWrites + j + 1 })
/-- R100: reserves the block of the next alias leaf. -/
def KeyUnit.reserve (k : KeyUnit) : Bool × KeyUnit :=
  match k.write k.flash k.gen (4096 * (k.leaf / 4096 + 1)) with
  | (some rs, k) => (true, { k with flash := rs })
  | (none, k) => (false, k)
/-- R99: the newest generation. -/
def KeyUnit.newest (k : KeyUnit) : Nat := k.genDigests.foldl (fun a g => max a g.1) 0
/-- R99, R100: creates the next generation for a firmware digest: its key statement takes an identity leaf, which is reserved first. -/
def KeyUnit.create (k : KeyUnit) : Option Nat × KeyUnit :=
  match k.write k.idFlash 0 (k.idLeaf + 1) with
  | (none, k) => (none, k)
  | (some rs, k) =>
    let g := k.newest + 1
    (some g, { k with idFlash := rs, idLeaf := k.idLeaf + 1, genDigests := mset k.genDigests g k.fwDigest, genLeaves := mset k.genLeaves g k.idLeaf })
/-- R99: a generation comes into use for the firmware that runs. -/
def KeyUnit.use (k : KeyUnit) (g : Nat) : KeyUnit :=
  { k with gen := g, spare := none, owed := false, versions := mset k.versions k.fwVersion.toNat g }
/-- R99: the generation in use is exhausted or missing: the prepared one comes into use, else one is created. -/
def KeyUnit.nextGen (k : KeyUnit) : Bool × KeyUnit :=
  match k.spare with
  | some g => (true, k.use g)
  | none => match k.create with
    | (some g, k) => (true, k.use g)
    | (none, k) => (false, k)
/-- R98 to R100: a leaf of the alias key in use to sign with: the leaf when there is one, and the key store after. -/
def KeyUnit.takeLeaf (k : KeyUnit) : Option Nat × KeyUnit :=
  let (ok, k) := if k.owed || decide (2 ^ 40 ≤ k.leaf) then k.nextGen else (true, k)
  let (ok, k) := if !ok then (false, k) else if k.leaf < k.limit then (true, k) else k.reserve
  if ok then (some k.leaf, { k with leaves := mset k.leaves k.gen (k.leaf + 1) }) else (none, k)
/-- R99: the key store with other firmware: a version booted before has its generation; the first boot of a version creates one. -/
def KeyUnit.update (k : KeyUnit) (v : BitVec 64) (d : BitVec 384) : KeyUnit :=
  let k := { k with fwDigest := d, fwVersion := v, spare := none }
  match mget k.versions v.toNat with
  | some g => { k with gen := g, owed := false }
  | none => match k.create with
    | (some g, k) => k.use g
    | (none, k) => { k with owed := true }
/-- R447: what a boot does to the key store: the boot count rises, the contexts are counted anew. -/
def KeyUnit.boot (k : KeyUnit) : KeyUnit := { k with bootCount := (k.bootCount + 1) % 2 ^ 32, creates := 0 }
/-- R100: after a loss of power each next-leaf counter restarts at the limit in flash. -/
def KeyUnit.powerUp (k : KeyUnit) : KeyUnit :=
  { k.boot with leaves := (k.flash.map (·.gen)).foldl (fun m g => mset m g (limitOf k.flash g)) [], idLeaf := limitOf k.idFlash 0 }

/-- R99: the 4,096 bytes of a key statement. -/
def KeyUnit.statement (k : KeyUnit) (gen : Nat) : List Byte :=
  let body := leBytes 8 2 ++ identityKeyId ++ digestBytes ((mget k.genDigests gen).getD 0) ++ leBytes 8 gen ++
    p384Public (p384Key gen) ++ List.replicate 7 0 ++ (aliasHss gen).pub ++ List.replicate 12 0
  body ++ signEcdsa 0 body ++ identityHss.sign ((mget k.genLeaves gen).getD 0) body ++ List.replicate 780 0
/-- R117: the bytes of an item of the key store. -/
def KeyUnit.item (k : KeyUnit) (item gen : Nat) : List Byte :=
  if item = 2 then k.statement gen else (Config.certificate item).take Config.keyItemMax

end Sys2Proof.Machine
end

