-- ==== Sys2Proof/Machine/Space.lean ====
section
/-! DEFINITION. The global space as agents read and write it: private memory and planes' next copies in it (R228, R329, R160). -/
namespace Sys2Proof.Machine

/-- R313: the bytes of a cell. -/
def PlaneDecl.cell (d : PlaneDecl) : Nat := if d.rule = 1 || d.fmt != 0 then 8 else 4

/-- R313: the bytes of a copy. -/
def PlaneDecl.bytes (d : PlaneDecl) : Nat := d.cells * d.cell

/-- The base of the present copy. -/
def Region.present (r : Region) : Nat := if r.presentB then r.baseB else r.baseA

/-- The base of the next copy. -/
def Region.next (r : Region) : Nat := if r.presentB then r.baseA else r.baseB

/-- The byte at a virtual address lies in the next copy of a declared region (R329). -/
def Ctx.inNext (c : Ctx) (va : Nat) : Bool :=
  c.regions.any fun kr => decide (kr.2.next ≤ va) && decide (va < kr.2.next + kr.2.decl.bytes)

/-- `n` fresh free values: the first number, and the state past them (log 1). -/
def State.fresh (s : State) (n : Nat) : Nat × State := (s.ctr, { s with ctr := s.ctr + n })

/-- A free byte (log 1). -/
def freeByte (n : Nat) : Byte := (Config.freeWord n).truncate 8

/-- The key of a private byte. -/
def privKey (l o : Nat) : Nat := 65536 * l + o

/-- R160: the wave, lane and offset whose private byte lies at an address, while the wave is resident. -/
def State.privAt (s : State) (c va : Nat) : Option (Nat × Nat × Nat) :=
  s.waves.findSome? fun kw =>
    let w := kw.2
    let t := s.teamOf w
    let g := s.gridOf t
    match t.priv with
    | none => none
    | some p =>
      let row := g.privSize / 4
      let lo := g.privBase + (p * g.entry.waves + w.rank) * row * 128
      if w.ctxn = c && w.st != .retired && !t.berthTeam && w.rank < g.entry.waves && lo ≤ va && va < lo + row * 128 then
        some (kw.1, (va - lo) % 128 / 4, (va - lo) / 128 * 4 + va % 4)
      else none

/-- Whether a context has private memory at all. -/
def State.hasPriv (s : State) (c : Nat) : Bool := s.grids.any fun g => g.2.ctx == c && g.2.privSize != 0

/-- Whether a team occupies registers and frames of its core. -/
def Team.onCore (t : Team) : Bool := (t.st == .resident || t.st == .draining) && !t.preempted

/-- R228, R329: a byte read at an address through the global space: a next copy and another lane's private byte are
undefined while its wave is resident, the lane's own private byte is that of its private memory. -/
def State.globalByte (s : State) (c w l : Nat) (free va : Nat) (old : Byte) : Byte :=
  if (s.ctx c).inNext va then freeByte free
  else match s.privAt c va with
    | none => old
    | some (w', l', o) =>
      if w' = w && l' = l then (mget (s.wave w).priv (privKey l o)).getD (freeByte free)
      else if (s.teamOf (s.wave w')).onCore then freeByte free else old

/-- R228, R329: bytes of memory at an address as lane l of wave w sees them; `free` numbers the free bytes. -/
def State.seenBy (s : State) (c w l va free : Nat) (bs : List Byte) : List Byte :=
  if (s.ctx c).regions.isEmpty && !s.hasPriv c then bs
  else mapIx (fun i b => s.globalByte c w l (free + i) (va + i) b) 0 bs

/-- A read of translated bytes by an agent for lane l of wave w. -/
def State.readAs (s : State) (ag c w l va n free : Nat) : List Byte := s.seenBy c w l va free (s.vread c va n ag)

/-- A read of translated bytes by a service agent. -/
def State.svread (s : State) (c va n free : Nat) : List Byte := s.readAs svc c 0 32 va n free

/-- R228: the effect of a stored byte on private memory: the lane's own is stored, another lane's becomes undefined. -/
def privStore (c w l va : Nat) : List Byte → Nat → State → State
  | [], _, s => s
  | b :: bs, i, s =>
    let s := match s.privAt c (va + i) with
      | none => s
      | some (w', l', o) =>
        let (n, s) := s.fresh 1
        s.updWave w' fun x => { x with priv := mset x.priv (privKey l' o) (if w' = w && l' = l then b else freeByte n) }
    privStore c w l va bs (i + 1) s

/-- R228: what a store of bytes in memory does to private memory. -/
def State.privAfter (s : State) (c w l va : Nat) (bs : List Byte) : State := if s.hasPriv c then privStore c w l va bs 0 s else s

/-- A store of translated bytes by an agent for lane l of wave w. -/
def State.writeAs (s : State) (ag c w l va : Nat) (bs : List Byte) : State := (s.vwrite c va bs ag).privAfter c w l va bs

/-- A store of translated bytes by a service agent. -/
def State.svwrite (s : State) (c va : Nat) (bs : List Byte) : State := s.writeAs svc c 0 32 va bs

/-- The bytes of a service agent's read whose free values stand at the state's counter (log 1). -/
def State.svbytes (s : State) (c va n : Nat) : List Byte := s.svread c va n s.ctr
/-- A number a service agent reads. -/
def State.svnum (s : State) (c va n : Nat) : Nat := leNat (s.svbytes c va n)

end Sys2Proof.Machine
end

