-- ==== Sys2Proof/Machine/Chain.lean ====
section
/-! DEFINITION. The measurement chain (R83 to R89), status words and the mailbox (R107, R116), fault records (R279 to
R281), and a context's way to FAULTED (R77). -/
namespace Sys2Proof.Machine

/-- R107: a status word. -/
def statusWord (code detail : Nat) : Nat := 0x80000000 + code % 128 * 0x10000 + detail % 0x10000

/-- R116, R415: writes the status of a mailbox entry and sends the interrupt of the mailbox (log 160). -/
def State.mbxStatus (s : State) (slot code detail : Nat) : State :=
  let s := s.pwrite true (s.host.mbxbase.toNat + 64 * (slot % 256) + 4) (leBytes 4 (statusWord code detail))
  { s with host := { s.host with mbxIrqs := s.host.mbxIrqs + 1 } }

/-- The device sends an interrupt message to the host; message 0 is none (R102, R106). -/
def State.irq (s : State) (msg : DWord) : State :=
  if msg = 0 then s else { s with host := { s.host with irqs := s.host.irqs ++ [msg] } }

/-! ## Fault records (R279, R281) -/

/-- R281: the 32 bytes of a fault record. -/
def FaultRec.bytes (f : FaultRec) : List Byte :=
  leBytes 8 f.va ++
    leBytes 8 (f.token % 2 ^ 32 + f.ctx % 4096 * 2 ^ 32 + f.kind % 16 * 2 ^ 44 + f.level % 8 * 2 ^ 48 + f.access % 4 * 2 ^ 51) ++
    leBytes 8 (f.core % 256 + f.island % 256 * 256) ++ leBytes 8 0

/-- R281: writes into the ring the records that fit, oldest first. -/
def State.flushFaults : List FaultRec → State → State
  | [], s => s
  | f :: t, s =>
    if f.written || 256 ≤ s.page.pfrhead - s.page.pfrtail.toNat then flushFaults t s
    else
      let s := s.pwrite true (s.page.pfrbase.toNat + 32 * (s.page.pfrhead % 256)) f.bytes
      flushFaults t { s with page := { s.page with pfrhead := s.page.pfrhead + 1, faults := s.page.faults.map fun g => if g.token = f.token then { g with written := true } else g } }

/-- R281: writes the records that wait, when the ring has room. -/
def State.flushRing (s : State) : State := State.flushFaults s.page.faults s

/-- R279: an agent meets a resolvable fault: it joins the unanswered record of the page and context, else a new one is
written. Answers the record's token. -/
def State.raiseFault (s : State) (c : Nat) (f : TFault) (acc core island : Nat) (ag : FaultAgent) : Nat × State :=
  match s.page.faults.find? fun r => r.ctx == c && decide (r.page ≤ f.va) && decide (f.va < r.page + r.size) with
  | some r =>
    (r.token, { s with page := { s.page with faults := s.page.faults.map fun g => if g.token = r.token then { g with agents := if g.agents.contains ag then g.agents else g.agents ++ [ag] } else g } })
  | none =>
    let r : FaultRec := { token := s.page.nextToken, ctx := c, page := f.page, size := f.size, va := f.va, kind := f.kind,
                          level := f.level, access := acc, core := core, island := island, written := false, agents := [ag] }
    (r.token, { s with page := { s.page with nextToken := (s.page.nextToken + 1) % 2 ^ 32, faults := s.page.faults ++ [r] } }.flushRing)

/-! ## The chain (R83 to R85) -/

/-- The 16 bytes of the chain's tag: `ZALUIBIN-CHAIN01`. -/
def chainTag : List Byte :=
  [0x5A, 0x41, 0x4C, 0x55, 0x49, 0x42, 0x49, 0x4E, 0x2D, 0x43, 0x48, 0x41, 0x49, 0x4E, 0x30, 0x31]

/-- R83: the head of a new chain. -/
def chainHead0 (ctxid part umask : Nat) (fw : BitVec 384) (nonce : BitVec 256) : BitVec 384 :=
  digestOf (sha384 (chainTag ++ leBytes 2 ctxid ++ leBytes 1 part ++ leBytes 1 umask ++ digestBytes fw ++ leBytes 32 nonce.toNat))

/-- R84: the 40 bytes of meta. -/
def ChainRec.meta (r : ChainRec) (index : Nat) : List Byte :=
  leBytes 8 r.subject ++ leBytes 8 r.addr ++ leBytes 8 r.len ++ leBytes 8 r.aux ++ leBytes 8 index

/-- R84: the next head. -/
def chainNext (h : BitVec 384) (r : ChainRec) (index : Nat) : BitVec 384 :=
  digestOf (sha384 (digestBytes h ++ leBytes 1 r.type ++ r.meta index ++ digestBytes r.digest))

/-- R85: the 128 bytes of a log entry. -/
def ChainRec.entry (r : ChainRec) (index : Nat) : List Byte :=
  leBytes 8 r.type ++ r.meta index ++ digestBytes r.digest ++ List.replicate 32 0

/-- R87: a record waits for its append, when the context keeps a chain. -/
def State.record1 (s : State) (c : Nat) (r : ChainRec) : State :=
  s.updCtx c fun x => if x.desc.meas then { x with appends := x.appends ++ [r] } else x

/-- R84: the 64 bytes of an event body. -/
def eventBody (cause : Nat) (xpc xaddr xinfo launch time unit : Nat) : List Byte :=
  leBytes 8 cause ++ leBytes 8 xpc ++ leBytes 8 xaddr ++ leBytes 8 xinfo ++ leBytes 8 launch ++ leBytes 8 time ++
    leBytes 8 unit ++ leBytes 8 0

/-- What an EVENT record tells beside its cause (R84). -/
structure EventInfo where
  xpc : Nat := 0
  xaddr : Nat := 0
  xinfo : Nat := 0
  launch : Nat := 0
  unit : Nat := 0xFFFF99
  deriving DecidableEq, Repr, Inhabited

/-- R84: an EVENT record; its subject is taken at the append. -/
def State.event (s : State) (c cause : Nat) (e : EventInfo) : State :=
  s.record1 c { type := 8, subject := 0, addr := e.xaddr, len := 0, aux := cause % 256 + e.unit % 2 ^ 24 * 256,
                digest := digestOf (sha384 (eventBody cause e.xpc e.xaddr e.xinfo e.launch s.now e.unit)), waiter := .none }

/-- R97: sets a bit of the error summary. -/
def State.summary (s : State) (c bit : Nat) : State :=
  s.updCtx c fun x => { x with summary := x.summary ||| BitVec.ofNat 64 (2 ^ bit) }

/-! ## To FAULTED (R77) -/

/-- The waves of a context. -/
def State.wavesOf (s : State) (c : Nat) : List Nat := mkeys s.waves fun w => w.ctxn == c
/-- The context of a team. -/
def State.teamCtx (s : State) (t : Team) : Nat :=
  if t.berthTeam then (s.flow t.grid).ctx else (s.gridOf t).ctx

/-- Stops everything a context runs: its waves, teams, gangs, copies, MXE commands and records (R77, R133, R149, R401);
page faults lose its agents. -/
def State.stopWork (s : State) (c : Nat) : State :=
  let gone := mkeys s.teams fun t => s.teamCtx t == c
  { s with
    waves := s.waves.filter fun w => w.2.ctxn != c
    gangs := s.gangs.filter fun g => ((mget s.grids g.2.grid).getD default).ctx != c
    teams := s.teams.filter fun t => !gone.contains t.1
    copies := s.copies.filter fun j => j.2.ctx != c
    cmds := s.cmds.filter fun k => k.2.ctx != c
    mxDone := s.mxDone.filter fun d => (s.wave d.2.wave).ctxn != c
    mxes := mmap s.mxes fun _ m => { m with windows := m.windows.filter fun w => !gone.contains w.1 }
    mxSaved := s.mxSaved.filter fun w => !gone.contains w.1
    recs := s.recs.filter fun r => r.2.ctx != c
    page := { s.page with faults := s.page.faults.filter fun f => f.ctx != c }
    host := { s.host with events := s.host.events.filter fun e => match e.act with
      | .answer _ f _ => f.ctx != c
      | _ => true }
    cur := if (s.wave s.cur).ctxn = c then 0 else s.cur
    grids := mmap s.grids fun _ g => if g.ctx = c && g.st != .retired then { g with st := .faulted } else g
    flows := mmap s.flows fun _ f => if f.ctx = c && f.st != .stopped then { f with st := .faulted, teams := [] } else f }

/-- R103, R106: the fault status of a control block; a resolvable fault of its write waits for the host's answer, and one that fails is not
made. -/
def State.putFaultStatus (s : State) (q : Nat) (v : DWord) : State :=
  let qu := s.queue q
  let f := s.agentFault qu.ctx (qu.ctl + 0x20) 8 1
  let s := s.updQueue q fun x => { x with faultStatus := v, fsOwed := (f.map fun f => resolvable f.kind).getD false }
  match f with
  | none => s.svwrite qu.ctx (qu.ctl + 0x20) (leBytes 8 v.toNat)
  | some f => if resolvable f.kind then (s.raiseFault qu.ctx f 1 0xFF 0x99 (.queue q)).2 else s

/-- R112: a queue goes to FAULTED with a status word and a packet index. -/
def State.faultQueue (s : State) (q code detail index : Nat) : State :=
  let s := s.updQueue q fun x => { x with st := .faulted, slot := none }
  s.putFaultStatus q (BitVec.ofNat 64 (statusWord code detail + index % 2 ^ 32 * 2 ^ 32))

/-- R112, R133: each decoded packet of a queue whose STATUS is not written yet completes with status 0x07 and a cause. -/
def failPkts (cause : Nat) (q : Queue) : Queue :=
  { q with pkts := mmap q.pkts fun _ p =>
      if p.stage = 0 then { p with done := some (7, cause), opening := false, ctxDown := true } else p }

/-- R97: a launch of a context that keeps a chain ended FAULTED (log 130). -/
def State.launchLost (s : State) (c : Nat) : State := if (s.ctx c).desc.meas then s.summary c 17 else s
/-- R133, R401: a context has a grid or a flow graph that has not ended, or a launch whose decode goes on (SUBMITTED). -/
def State.running (s : State) (c : Nat) : Bool :=
  s.grids.any (fun g => g.2.ctx == c && g.2.st != .retired && g.2.st != .faulted) ||
    s.flows.any (fun f => f.2.ctx == c && f.2.st != .stopped && f.2.st != .faulted) ||
    s.queues.any fun q => q.2.ctx == c && q.2.pkts.any fun p => p.2.opening && [1, 2, 3].contains (p.2.words.headD 0 % 256)

/-- R77, R78, R112, R133: a context goes to FAULTED with a cause; so do all its queues, those already FAULTED too. -/
def State.ctxLost (s : State) (c cause : Nat) (e : EventInfo) : State :=
  let x := s.ctx c
  let s := s.event c cause e
  let s := if s.running c then s.launchLost c else s
  let first := x.firstEvent.getD cause
  let s := match x.cmd with
    | some k => s.mbxStatus k.slot 7 first
    | none => s
  let s := s.updCtx c fun x => { x with st := .faulted, firstEvent := some first, cmd := none, preempting := false, saved := false }
  let s := s.stopWork c
  (mkeys s.queues fun q => q.ctx == c && q.st != .destroyed).foldl
    (fun s q => (s.faultQueue q 7 first (s.queue q).decode).updQueue q (failPkts first)) s
/-- R77: a context that is ACTIVE, QUIESCING or SUSPENDED goes to FAULTED. -/
def State.ctxFault (s : State) (c cause : Nat) (e : EventInfo) : State :=
  let st := (s.ctx c).st
  if st == .active || st == .quiescing || st == .suspended then s.ctxLost c cause e else s
/-- R423, R444: a context that an error or the loss of its pair reaches goes to FAULTED, a CREATED one too; one that is FAULTED already
appends the EVENT record. -/
def State.ctxError (s : State) (c cause : Nat) (e : EventInfo) : State :=
  let st := (s.ctx c).st
  if st == .destroyed then s else if st == .faulted then s.event c cause e else s.ctxLost c cause e
/-- R446: an error that sends a context to FAULTED; while the context is being pre-empted it waits for the end of that. -/
def State.ctxStruck (s : State) (c cause xaddr unit : Nat) : State :=
  if (s.ctx c).preempting && !(s.ctx c).saved then s.updCtx c fun x => { x with errs := x.errs ++ [(cause, xaddr, unit)] }
  else s.ctxError c cause { xaddr := xaddr, unit := unit }
/-- R446: a context has been pre-empted: the errors that waited. -/
def State.errsMet (s : State) (c : Nat) : State :=
  (s.ctx c).errs.foldl (fun s e => s.ctxError c e.1 { xaddr := e.2.1, unit := e.2.2 }) (s.updCtx c fun x => { x with errs := [] })
/-- R277: a context reaches a frame that the device has retired. -/
def State.frameLost (s : State) (c pa : Nat) : State :=
  ((s.summary c 16).summary c 19).ctxFault c 0xA9 { xaddr := pa, unit := 0xFFFF9E }

end Sys2Proof.Machine
end

