-- ==== Sys2Proof/Machine/Local.lean ====
section
/-! DEFINITION. A team's local store: bytes, line tags, pages and octants (R283 to R290), and the plane regions with their
contributions and steps (R313 to R328). -/
namespace Sys2Proof.Machine

/-! ## Local store -/

/-- The tag record of a line that is EMPTY with OVF clear. -/
def emptyTag : LineTag := { tag := .empty, ovf := false, owner := 0 }

/-- The tag of a line. -/
def Local.tagAt (lo : Local) (line : Nat) : LineTag := (mget lo.tags line).getD emptyTag
/-- Writes the tag of a line; an EMPTY line with OVF clear is unlisted. -/
def Local.setTag (lo : Local) (line : Nat) (t : LineTag) : Local :=
  { lo with tags := if t.tag = .empty && !t.ovf then mdel lo.tags line else mset lo.tags line t }
/-- The lines of a byte range. -/
def linesOf (off n : Nat) : List Nat :=
  if n = 0 then [] else (List.range ((off + n - 1) / 128 - off / 128 + 1)).map (off / 128 + ·)
/-- Sets the tag of every line of a range, keeping OVF. -/
def Local.setTags (lo : Local) (off n : Nat) (t : Tag) (owner : Nat) : Local :=
  (linesOf off n).foldl (fun lo k => lo.setTag k { (lo.tagAt k) with tag := t, owner := owner }) lo
/-- R289: local page k is a FIFO window. -/
def Local.fifo (lo : Local) (k : Nat) : Bool := decide (k < 32) && lo.fifomap.getLsbD k
/-- Whether a byte range touches a FIFO window. -/
def Local.fifoIn (lo : Local) (off n : Nat) : Bool :=
  (List.range 32).any fun k => lo.fifo k && decide (off < (k + 1) * 8192) && decide (k * 8192 < off + n)
/-- Bytes of local store. -/
def Local.read (lo : Local) (off n : Nat) : List Byte := readCells lo.data off n
/-- Writes bytes of local store. -/
def Local.write (lo : Local) (off : Nat) (bs : List Byte) : Local := { lo with data := writeCells lo.data off bs }
/-- R285: an admitted team's local store: zero bytes, every tag EMPTY. -/
def Local.fresh (size : Nat) : Local :=
  { size := size, data := [], tags := [], pages := [], fifomap := 0, fifoPend := [], fifos := [], sums := [] }
/-- R287: the first line of a range that is FILLING (`some false`) or DRAINING (`some true`). -/
def Local.busyLine (lo : Local) (off n : Nat) : Option Bool :=
  (linesOf off n).findSome? fun k => match (lo.tagAt k).tag with
    | .filling => some false
    | .draining => some true
    | _ => none

/-- R283: the modes of a core's octants; CACHE where none is listed. -/
def Dev.octantModes (d : Dev) (core : Nat) : List Nat := (mget d.octants core).getD (List.replicate 8 0)

/-- R286: a page with a FILLING or DRAINING line is never unpinned. -/
def Local.busyPage (lo : Local) (k : Nat) : Bool := lo.tags.any fun t => t.1 / 64 == k && (t.2.tag == .filling || t.2.tag == .draining)

/-- R286: the pages that a core's octants of a mode hold (1 LOCAL, 2 FIFO), by team and page, in the order of their frames (log 126). -/
def State.pinnedPages (s : State) (core mode : Nat) : List (Nat × Nat) :=
  s.teams.flatMap fun t =>
    if t.2.core = core then (t.2.loc.pages.filter fun p => p.2 == (if mode = 2 then PageCond.fifo else .local)).map fun p => (t.1, p.1) else []

/-- R286: the pages in the frames of an octant: its place among the octants of its mode gives their places (log 126). -/
def State.octantPages (s : State) (core oct : Nat) : List (Nat × Nat) :=
  let ms := s.dev.octantModes core
  let mode := ms.getD oct 0
  if mode = 0 then [] else ((s.pinnedPages core mode).drop (8 * ((ms.take oct).filter (· == mode)).length)).take 8
/-- The octants of a mode on a core that no drain takes away. -/
def State.octantsIn (s : State) (core mode : Nat) : Nat :=
  ((List.range 8).filter fun o => (s.dev.octantModes core).getD o 0 == mode && !s.dev.drains.any fun d => d.1 == core && d.2.1 == o).length

/-- R289: the FIFO windows of a team, with those that pending writes will make. -/
def Local.windows (lo : Local) (pending : Bool) : Nat :=
  ((List.range 32).filter fun k => lo.fifomap.getLsbD k || (pending && lo.fifoPend.any (·.getLsbD k))).length

/-- R284: the frame of a page lies in an octant that drains. -/
def State.draining (s : State) (core t k : Nat) : Bool := s.dev.drains.any fun d => d.1 == core && (s.octantPages core d.2.1).contains (t, k)

/-- R284, R286, R289, R445: whether an access to a page can proceed: no write to FIFOMAP that changes it waits, the slice of its backing is not
under test, and it is pinned in an octant that does not drain, or a frame of the right mode is free. -/
def State.pageReady (s : State) (t k : Nat) : Bool :=
  let tm := (mget s.teams t).getD default
  let mode := if tm.loc.fifo k then 2 else 1
  !tm.loc.fifoPend.any (fun x => x.getLsbD k != tm.loc.fifomap.getLsbD k) &&
    !s.sliceTested tm.core &&
    (if (mget tm.loc.pages k).any (fun c => c == if mode = 2 then .fifo else .local) then !s.draining tm.core t k
     else decide ((s.pinnedPages tm.core mode).length < 8 * s.octantsIn tm.core mode))

/-- R286: every page of a range is ready. -/
def State.rangeReady (s : State) (t off n : Nat) : Bool :=
  n == 0 || (List.range ((off + n - 1) / 8192 - off / 8192 + 1)).all fun j => s.pageReady t (off / 8192 + j)

/-- R286: an access to an unpinned page pins it into a frame; with none free it has waited for one (log 10). -/
def State.pin (s : State) (t k : Nat) : State :=
  let tm := (mget s.teams t).getD default
  let c : PageCond := if tm.loc.fifo k then .fifo else .local
  if mget tm.loc.pages k == some c then s
  else s.updTeam t fun x => { x with loc := { x.loc with pages := mset x.loc.pages k c } }

/-- R286: pins the pages of a range. -/
def State.pinRange (s : State) (t off n : Nat) : State :=
  if n = 0 then s else (List.range ((off + n - 1) / 8192 - off / 8192 + 1)).foldl (fun s j => s.pin t (off / 8192 + j)) s

/-- R286: unpins a team's pages but those with a FILLING or DRAINING line (the data stay in the local bytes). -/
def Team.unpin (t : Team) : Team := { t with loc := { t.loc with pages := t.loc.pages.filter fun p => t.loc.busyPage p.1 } }

/-! ## Plane regions -/

/-- R313: rules of a declaration: 0 SUM, 1 PRIORITY, 2 FAULT. -/
def PlaneDecl.valid (d : PlaneDecl) : Bool :=
  decide (1 ≤ d.cells) && decide (d.cells ≤ 2 ^ 31) && decide (-96 ≤ d.fxscale) && decide (d.fxscale ≤ 31) &&
    (match d.rule with
     | 0 => d.fmt == 12 || ((d.fmt == 0 || d.fmt == 3) && d.fxscale == 0)
     | 1 => d.fmt == 0 && d.fxscale == 0
     | 2 => (d.fmt == 0 || d.fmt == 3) && d.fxscale == 0
     | _ => false)

/-- R127, R317: decodes a declaration word; none when it is malformed. -/
def planeDecl (x : Nat) : Option PlaneDecl :=
  let d : PlaneDecl := { cells := bits x 63 32, fxscale := sx 8 (bits x 23 16), fmt := bits x 11 8, carry := bitAt x 2, rule := bits x 1 0 }
  if bits x 31 24 = 0 && bits x 15 12 = 0 && bits x 7 3 = 0 && d.valid then some d else none

/-- The W bits of the present copy. -/
def Region.wPresent (r : Region) : List Nat := if r.presentB then r.wB else r.wA

/-- A region newly bound or declared (R315, R318): copy A present, no W bit, step count 0, flags clear. -/
def Region.fresh (d : PlaneDecl) (index a b : Nat) : Region :=
  { decl := d, index := index, baseA := a, baseB := b, presentB := false, wA := [], wB := [], contribs := [], steps := 0,
    ovf := false, inv := false, coll := false }

/-- R320 to R323, R326: a contribution, and whether the plane-collision trap is due. -/
def Region.contribute (r : Region) (c : Contrib) : Region × Bool :=
  let other := r.contribs.any fun x => x.cell == c.cell && x.writer != c.writer
  let r := if other then { r with coll := true } else r
  let without := r.contribs.filter fun x => !(x.cell == c.cell && x.writer == c.writer)
  match r.decl.rule with
  | 0 => ({ r with contribs := r.contribs ++ [c] }, false)
  | 1 => ({ r with contribs := without ++ [c] }, false)
  | _ => if other then (r, true) else ({ r with contribs := without ++ [c] }, false)

/-- R322: the winner of two PRIORITY contributions. -/
def winner (a b : Contrib) : Contrib :=
  if a.key < b.key || (a.key == b.key && decide (a.val < b.val)) then b else a

/-- R321 to R323: the bytes of a cell after a step from its contributions; `old` is the carried integer (SUM). Answers
whether an FX64 sum lay outside the range. -/
def PlaneDecl.settle (d : PlaneDecl) (old : Int) (cs : List Contrib) : List Byte × Bool :=
  match d.rule with
  | 0 =>
    let v := cs.foldl (fun a c => a + c.val) old
    if d.fmt = 12 then
      (leBytes 8 (wrapNat 64 (clampInt (intLo true 64) (intHi true 64) v)), decide (v < intLo true 64) || decide (intHi true 64 < v))
    else (leBytes d.cell (wrapNat (8 * d.cell) v), false)
  | 1 => match cs with
    | [] => (leBytes 8 0, false)
    | c :: t =>
      let w := t.foldl winner c
      (leBytes 4 (wrapNat 32 w.val) ++ leBytes 2 (w.key / 65536) ++ leBytes 2 (w.key % 65536), false)
  | _ => match cs.getLast? with
    | none => (leBytes d.cell 0, false)
    | some c => (leBytes d.cell (wrapNat (8 * d.cell) c.val), false)

/-- The cells that received contributions. -/
def Region.touched (r : Region) : List Nat := dedup (r.contribs.map (·.cell))

/-- R321 to R324: what a step writes into the next copy over its initial contents: cell and bytes; with overflow. The
present copy is read through `rd`. -/
def Region.results (r : Region) (rd : Nat → List Byte) : List (Nat × List Byte) × Bool :=
  r.touched.foldl (fun acc k =>
    let old := if r.decl.carry then sx (8 * r.decl.cell) (leNat (rd k)) else 0
    let (b, o) := r.decl.settle old (r.contribs.filter fun c => c.cell == k)
    (acc.1 ++ [(k, b)], acc.2 || o)) ([], false)

/-- R324, R327: the region after a step: the next copy is present with its W bits; no contributions. -/
def Region.stepped (r : Region) (ovf : Bool) : Region :=
  let kept := if r.decl.carry && r.decl.rule != 2 then r.wPresent else []
  let w := dedup (kept ++ r.touched)
  { r with presentB := !r.presentB, wA := if r.presentB then w else r.wA, wB := if r.presentB then r.wB else w,
           contribs := [], steps := r.steps + 1, ovf := r.ovf || ovf }

/-- Copies a range of cells over another: the bytes of [a, a+n) appear at b. -/
def moveCells (m : List Host.Cell) (a b n : Nat) : List Host.Cell :=
  let src := m.filter fun c => a ≤ c.1 && c.1 < a + n
  src.foldl (fun m c => writeCell m (b + (c.1 - a)) c.2) (clearCells m b n)

/-- R324, R327: the step of one region in local store. -/
def Local.stepRegion (lo : Local) (r : Region) : Local × Region :=
  let n := r.decl.bytes
  let (ws, o) := r.results fun k => lo.read (r.present + k * r.decl.cell) r.decl.cell
  let data := if r.decl.carry then moveCells lo.data r.present r.next n else clearCells lo.data r.next n
  let lo := { lo with data := data }
  (ws.foldl (fun lo w => lo.write (r.next + w.1 * r.decl.cell) w.2) lo, r.stepped o)

/-- The bytes [off, off+n) of local store touch a copy of a bound region (R329). -/
def Team.inPlane (t : Team) (off n : Nat) : Bool :=
  t.slots.any fun kr =>
    let m := kr.2.decl.bytes
    (decide (off < kr.2.baseA + m) && decide (kr.2.baseA < off + n)) || (decide (off < kr.2.baseB + m) && decide (kr.2.baseB < off + n))

/-- The byte at a local offset lies in the next copy of a bound region (R329). -/
def Team.inNext (t : Team) (off : Nat) : Bool :=
  t.slots.any fun kr => decide (kr.2.next ≤ off) && decide (off < kr.2.next + kr.2.decl.bytes)

/-- The bytes [va, va+n) touch a copy of a declared global region (R329). -/
def Ctx.inPlane (c : Ctx) (va n : Nat) : Bool :=
  c.regions.any fun kr =>
    let m := kr.2.decl.bytes
    (decide (va < kr.2.baseA + m) && decide (kr.2.baseA < va + n)) || (decide (va < kr.2.baseB + m) && decide (kr.2.baseB < va + n))

/-- R313, R317, R318: what a table entry declares, with the bases of its copies; none when a check that needs no page fails. -/
def State.declEntry (s : State) (c g : Nat) : Option (PlaneDecl × Nat × Nat) :=
  let x := s.ctx c
  let e := s.vread c (x.desc.planetab + 64 * g) 64
  let w (i : Nat) : Nat := leNat ((e.drop (8 * i)).take 8)
  (planeDecl (w 2)).bind fun d =>
    let a := w 0
    let b := w 1
    let n := d.bytes
    if w 3 == 1 && [4, 5, 6, 7].all (fun i => w i == 0) && a % 4096 == 0 && b % 4096 == 0 &&
        !(decide (a < b + n) && decide (b < a + n)) && !x.inPlane a n && !x.inPlane b n then some (d, a, b)
    else none
/-- R318: a page of a copy: mapped with PLANE, R and W in the device memory of the home package, whether or not it migrates. -/
def State.planePage (s : State) (c va : Nat) : Bool :=
  match s.translate c va 0 with
  | .ok sys pa t => !sys && s.dev.own pa && t.leaf.getLsbD 10 && t.leaf.getLsbD 7
  | .bad .. => false

/-- R318, R324, R335: the fault of a declaration with its access: of the entry's read, of a page of a copy that is not mapped, or of copy B's
initialisation, which may meet a loaded image (R128). -/
def State.declareFault (s : State) (c g : Nat) : Option (TFault × Access) :=
  ((s.rangeFault c ((s.ctx c).desc.planetab + 64 * g) 64 0).map fun f => (f, 0)).orElse fun _ =>
    (s.declEntry c g).bind fun (d, a, b) =>
      let at_ (p : Nat × Nat) (acc : Access) : Option (TFault × Access) :=
        (s.agentFault c p.1 p.2 acc).bind fun f => if f.kind = 1 || f.kind = 2 then none else some (f, acc)
      ((piecesOf a d.bytes).findSome? (at_ · 0)).orElse fun _ => (piecesOf b d.bytes).findSome? (at_ · 1)
/-- R318: the region that a table entry declares, checked; none when it fails. -/
def State.declare (s : State) (c g : Nat) : Option Region :=
  (s.declEntry c g).bind fun (d, a, b) =>
    if (piecesOf a d.bytes ++ piecesOf b d.bytes).all fun p => s.planePage c p.1 then some (Region.fresh d g a b) else none

/-- R318, R324: a region is declared: copy B is initialised as the next copy. -/
def State.addRegion (s : State) (c g : Nat) (r : Region) : State :=
  let s := s.updCtx c fun x => { x with regions := mset x.regions g r }
  let n := r.decl.bytes
  s.vwrite c r.baseB (if r.decl.carry then s.vread c r.baseA n else List.replicate n 0)
/-- R319: the package is not the home of a context: its agents reach no global region. -/
def State.awayFrom (s : State) (c : Nat) : Bool := (s.ctx c).home != s.dev.index

/-- R324, R328: the step of a global region: the carried or cleared contents, then the contributions' results, written
through the pages of its copies. -/
def State.stepGlobal (s : State) (c g : Nat) : State :=
  match mget (s.ctx c).regions g with
  | none => s
  | some r =>
    let n := r.decl.bytes
    let (ws, o) := r.results fun k => s.vread c (r.present + k * r.decl.cell) r.decl.cell
    let s := s.vwrite c r.next (if r.decl.carry then s.vread c r.present n else List.replicate n 0)
    let s := ws.foldl (fun s w => s.vwrite c (r.next + w.1 * r.decl.cell) w.2) s
    s.updCtx c fun x => { x with regions := mset x.regions g (r.stepped o) }

end Sys2Proof.Machine
end

