-- ==== Sys2Proof/Machine/Ops.lean ====
section
/-! DEFINITION. The named operations every instruction is written over: results in flight and tokens (R49, R50), lane sets,
meeting points and the state of a wave at a clause boundary (R172 to R177, R148), barriers and steps (R302 to R304, R327),
taking a trap and returning from one (R425 to R428, R434), retiring a clause (R53, R54), and the frame in which one
instruction of a clause is executed. -/
namespace Sys2Proof.Machine

/-- The outcome of a step. -/
abbrev Out := Host.Outcome State Fault Refusal

/-! ## Results in flight (R49, R50) -/

/-- Writes one 32-bit result into a lane (`v`, `p`). -/
def Lane.put (ln : Lane) (r : RegWrite) : Lane :=
  match r.file with
  | .v => ln.setV r.reg r.val
  | .p => ln.setPred r.reg (r.val != 0)
  | _ => ln

/-- Writes one 32-bit word of a shape register (word r.reg mod 16 of sh(r.reg / 16)). -/
def putShape (sh : List (BitVec 512)) (r : RegWrite) : List (BitVec 512) :=
  updAt sh (r.reg / 16) fun x =>
    let k := 32 * (r.reg % 16)
    (x &&& ~~~ ((0xFFFFFFFF : BitVec 512) <<< k)) ||| ((r.val.zeroExtend 512) <<< k)

/-- Writes one result into the wave's own registers (`w`, `sh`). -/
def Wave.putWave (wv : Wave) (r : RegWrite) : Wave :=
  match r.file with
  | .w => { wv with w := wv.w.set r.reg r.val }
  | .sh => { wv with sh := putShape wv.sh r }
  | _ => wv

/-- Lands results: each goes to its register. -/
def Wave.land (wv : Wave) (ws : List RegWrite) : Wave :=
  let wv := { wv with lanes := mapIx (fun l ln => (ws.filter fun r => r.lane == l).foldl Lane.put ln) 0 wv.lanes }
  ws.foldl Wave.putWave wv

/-- R40: merges flags into lanes. -/
def Wave.merge (wv : Wave) (fs : List (Nat × Flags)) : Wave :=
  fs.foldl (fun wv f => wv.updLane f.1 fun ln => ln.flag f.2) wv

/-- The count of a token goes up. -/
def Wave.tokUp (wv : Wave) (t : Option Nat) : Wave :=
  match t with
  | some n => { wv with wk := updAt wv.wk n (· + 1) }
  | none => wv
/-- The count of a token goes down. -/
def Wave.tokDown (wv : Wave) (t : Option Nat) : Wave :=
  match t with
  | some n => { wv with wk := updAt wv.wk n (· - 1) }
  | none => wv

/-- R49, R40: one flight lands: its results, its flags, its token. -/
def Wave.landFlight (wv : Wave) (f : Flight) : Wave := ((wv.land f.writes).merge f.flags).tokDown f.tok

/-- R53: every result in flight lands, the oldest first. -/
def Wave.landAll (wv : Wave) : Wave :=
  let fs := wv.flights
  fs.foldl Wave.landFlight { wv with flights := [] }

/-- R341: the in-core matrix operations in flight land, the oldest first. -/
def Wave.landMma (wv : Wave) : Wave :=
  let (now, later) := wv.flights.partition (·.mma)
  now.foldl Wave.landFlight { wv with flights := later }

/-- The code of a register in the choices of R50. -/
def RegWrite.code (r : RegWrite) : Nat :=
  match r.file with
  | .v => r.reg | .w => 256 + r.reg | .p => 320 + r.reg | .sh => 512 + r.reg

/-- R50: the value a lane reads from a register: while a result is in flight to it, the old or the landed one. -/
def readPending (ctr : Nat) (fs : List Flight) (file : RegFile) (reg lane : Nat) (cur : Word) : Word :=
  match fs.findSome? fun f => f.writes.find? fun r => r.file == file && r.reg == reg && (file == .w || file == .sh || r.lane == lane) with
  | none => cur
  | some r => if Config.readsLanded ctr r.code lane then r.val else cur

/-- The same register (in the same lane, for a lane's register). -/
def RegWrite.same (a b : RegWrite) : Bool :=
  a.file == b.file && a.reg == b.reg && (a.file == .w || a.file == .sh || a.lane == b.lane)

/-- R50: of the registers `rs` a result goes to, those that stay its own when `ws` are written: which value stands is open. -/
def stillOwn (ctr : Nat) (ws rs : List RegWrite) : List RegWrite :=
  rs.filter fun r => !(ws.any fun x => x.same r && Config.laterStands ctr r.code r.lane)

/-- R50: registers written while a result is still in flight to them: one of the values stands, which one is open. -/
def overFlights (ctr : Nat) (ws : List RegWrite) (fs : List Flight) : List Flight :=
  fs.map fun f => { f with writes := stillOwn ctr ws f.writes }

/-- R50, over everything outstanding: results in flight, parked operations, copies and engine commands. -/
def State.overwrite (s : State) (w : Nat) (ws : List RegWrite) : State :=
  { s with
    waves := mupd s.waves w fun wv =>
      { wv with flights := overFlights s.ctr ws wv.flights
                parks := wv.parks.map fun p => { p with dst := stillOwn s.ctr ws p.dst } }
    copies := mmap s.copies fun _ j => if j.wave = w then { j with dst := stillOwn s.ctr ws j.dst } else j
    cmds := mmap s.cmds fun _ k => if k.wave = w then { k with dst := stillOwn s.ctr ws k.dst } else k
    ctxs := mupd s.ctxs (s.wave w).ctxn fun c => { c with appends := c.appends.map fun r => match r.waiter with
      | .flight v t dst => if v = w then { r with waiter := .flight v t (stillOwn s.ctr ws dst) } else r
      | _ => r } }

/-- Whether the wave has no result outstanding. -/
def State.quiet (s : State) (w : Nat) (wv : Wave) : Bool :=
  wv.flights.isEmpty && wv.parks.isEmpty && !s.copies.any (fun j => j.2.wave == w) && !s.cmds.any (fun k => k.2.wave == w) &&
    !(s.ctx wv.ctxn).appends.any fun r => match r.waiter with
      | .flight v _ _ => v == w
      | _ => false

/-! ## Code fetch (R55, R128, R145) -/

/-- The outcome of fetching a word. -/
inductive Fetch where
  | word (w : DWord)
  | framing
  | bad (f : TFault)
  deriving DecidableEq, Repr, Inhabited

/-- R55: whether an address is in the text of a loaded code object. -/
def Ctx.inText (c : Ctx) (va : Nat) : Bool :=
  va % 8 == 0 && c.objs.any fun o => decide (o.addr + o.textOff ≤ va) && decide (va + 8 ≤ o.addr + o.textOff + o.textLen)

/-- R55, R275: fetches a word from CODE pages of a loaded code object. -/
def State.fetch (s : State) (c va ag : Nat) : Fetch :=
  if !(s.ctx c).inText va then .framing
  else match s.translate c va 3 ag with
    | .bad k lv sz => .bad { va := va, kind := k, level := lv, size := sz }
    | .ok sys pa _ => .word (BitVec.ofNat 64 (leNat (s.pread sys pa 8)))

/-- The WAIT field of the header at an address, when a header can be read there. -/
def State.waitAt (s : State) (wv : Wave) (va : DWord) : Nat :=
  match s.fetch wv.ctxn va.toNat wv.core with
  | .word h => if bits h.toNat 63 56 = 0xFF then bits h.toNat 47 32 else 0
  | _ => 0

/-! ## Lane sets (R172 to R177) -/

/-- R170: the MEET register's fields. -/
def meetV (m : DWord) : Bool := m.getLsbD 57
/-- The depth of a meeting point. -/
def meetDepth (m : DWord) : Nat := bits m.toNat 63 58
/-- The address of a meeting point. -/
def meetAddr (m : DWord) : Nat := bits m.toNat 56 3 * 8
/-- The join mask of a meeting point. -/
def meetJm (m : DWord) : Nat := bits m.toNat 2 0

/-- R175: the lane stands at its meeting point. -/
def Lane.atMeet (ln : Lane) : Bool := meetV ln.meet && ln.pc.toNat == meetAddr ln.meet && ln.depth.toNat == meetDepth ln.meet

/-- R185: lanes can hold at an address: a clause header stands there, or a page that cannot be read now. -/
def State.mayMeet (s : State) (wv : Wave) (va : DWord) : Bool :=
  match s.fetch wv.ctxn va.toNat wv.core with
  | .word h => bits h.toNat 63 56 = 0xFF
  | .framing => false
  | .bad _ => true
/-- R175, R185: the lane is held at its meeting point. -/
def State.meets (s : State) (wv : Wave) (ln : Lane) : Bool := ln.atMeet && s.mayMeet wv ln.pc
/-- The lanes held (R175): a lane that its last clause blocked is held only once it is unblocked (R172). -/
def State.heldLanes (s : State) (wv : Wave) : LaneMask := wv.live &&& maskOf fun l => (wv.lane l).block == .none && s.meets wv (wv.lane l)

/-- R292: a tile transfer waits while an older one of its team uses its group id. -/
def State.groupBusy (s : State) (k : Nat) (j : CopyJob) : Bool :=
  j.group.isSome && s.copies.any fun x => decide (x.1 < k) && x.2.team == j.team && x.2.group == j.group

/-- R351: a command waits for a window: its team holds none and none is free or saved for it. -/
def State.windowWait (s : State) (k : MxCmd) : Bool :=
  k.st == .queued && (match mget s.mxes k.cluster with
    | some m => (mget m.windows k.team).isNone && decide (4 ≤ m.windows.length)
    | none => false)

/-- The tokens withheld: by a park, by a tile transfer whose group is busy, by a command without a window. -/
def State.withheld (s : State) (wv : Wave) (w n : Nat) : Bool :=
  wv.parks.any (fun p => p.tok == some n) || s.copies.any (fun j => j.2.wave == w && j.2.tok == n && s.groupBusy j.1 j.2) ||
    s.cmds.any fun k => k.2.wave == w && k.2.tok == n && s.windowWait k.2

/-- R172: the lanes blocked, by what their last clause ended with or by a withheld token their next clause names (R50: a private one
for an operation without a token). -/
def State.blockedLanes (s : State) (wv : Wave) (w : Nat) : LaneMask :=
  let held := (List.range 16).filter (s.withheld wv w)
  wv.live &&& maskOf fun l =>
    let ln := wv.lane l
    ln.block != .none || (!s.meets wv ln && (wv.parks.any (fun p => inMask p.hold l) ||
      (!held.isEmpty && (let m := s.waitAt wv ln.pc; held.any (bitAt m)))))

/-- R176: the groups of held lanes among `m`: a MEET value and its lanes. -/
def Wave.groups (wv : Wave) (m : LaneMask) : List (DWord × LaneMask) :=
  (dedup ((lanesOf m).map fun l => (wv.lane l).meet)).map fun x => (x, m &&& maskOf fun l => (wv.lane l).meet == x)

/-- R177: of two eligible groups, the one released first. -/
def firstGroup (a b : DWord × LaneMask) : DWord × LaneMask :=
  let k (g : DWord × LaneMask) : Nat := (63 - meetDepth g.1) * 2 ^ 60 + meetAddr g.1 * 8 + meetJm g.1
  if k b < k a then b else a

/-- R176: one group is released when no lane of its join mask is runnable; `run` are the runnable lanes. -/
def Wave.releaseGroup (wv : Wave) (cand run : LaneMask) : Wave × LaneMask :=
  let ok := (wv.groups cand).filter fun g => (wv.jm.getD (meetJm g.1) 0) &&& run == 0
  match ok with
  | [] => (wv, 0)
  | g :: t =>
    let (m, ls) := t.foldl firstGroup g
    let wv := wv.updLanes ls fun _ ln => { ln with meet := ln.meet &&& ~~~ (1 <<< 57 : DWord) }
    ({ wv with jm := updAt wv.jm (meetJm m) fun x => x &&& ~~~ ls }, ls)

/-- R172: the lanes of `run` with the PC and depth of lane l. -/
def Wave.setOf (wv : Wave) (run : LaneMask) (l : Nat) : LaneMask :=
  let a := wv.lane l
  run &&& maskOf fun k => (wv.lane k).pc == a.pc && (wv.lane k).depth == a.depth

/-- R173: the lowest lanes of the runnable sets, ascending. -/
def Wave.setHeads (wv : Wave) (run : LaneMask) : List Nat :=
  (lanesOf run).filter fun l => lowest (wv.setOf run l) == some l

/-- R173: chooses the current set among the runnable lanes. A `turn` of 64 or more has ended. The next set is the one whose
lowest lane follows the lowest of the set whose turn ended, else the lowest of all (log 11). -/
def Wave.pick (wv : Wave) (run : LaneMask) : Wave :=
  match lowest (wv.lastSet &&& run) with
  | some l => if wv.turn < 64 then { wv with lastSet := wv.setOf run l } else next
  | none => next
where
  next : Wave :=
    if run = 0 then { wv with turn := 64 }
    else
      let p := (lowest wv.lastSet).getD 32
      let heads := wv.setHeads run
      let h := match heads.find? fun l => p < l with
        | some l => if wv.lastSet = 0 then heads.headD 0 else l
        | none => heads.headD 0
      { wv with lastSet := wv.setOf run h, turn := 0 }

/-! ## The state of a wave at a boundary (R148) -/

/-- R140: every child the team launched with a sequence up to `q` has retired. -/
def State.kidsDone (s : State) (t : Team) (q : Nat) : Bool :=
  t.kids.all fun k => decide (q < k.1) || (match mget s.grids k.2 with
    | some g => g.st == .retired
    | none => true)

/-- A wave whose lanes have all exited retires when its tokens are clear: its team's last wave starts DRAINING (R148,
R149, R161). -/
def State.retireWave (s : State) (w : Nat) : State :=
  let wv := s.wave w
  let s := s.updWave w fun x => { x with st := .retired, staged := [] }
  if s.waves.any fun x => x.2.team == wv.team && x.2.st != .retired then s
  else s.updTeam wv.team fun t => { t with st := .draining }

/-- The operations that keep their place in a lane's program order while they wait (R231, R235): accesses, and waits that acquire. -/
def Park.orders (p : Park) : Bool :=
  match p.instr with
  | .ld _ | .st _ | .atom _ | .acas _ | .ldl _ | .ldlw _ | .stl _ | .atoml _ | .acasl _ | .ldp _ | .stp _ | .stz _ | .fget _ | .acwait _ | .fence _
  | .tag _ | .tagq _ | .acinit _ | .acadd _ | .shld _ | .mxwait _ | .signal _ => true
  | _ => false

/-- The lanes with a waiting operation of a kind among the first `n` parks of a wave. -/
def Wave.waiting (wv : Wave) (sel : Park → Bool) (n : Nat) : LaneMask :=
  maskOf fun l => (wv.parks.take n).any fun p => sel p && p.lanes.any fun x => x.1 == l

/-- Every token of the wave is clear (R161, R402). -/
def Wave.clear (wv : Wave) : Bool := wv.wk.all (· == 0) && wv.flights.isEmpty && wv.parks.isEmpty

/-- The operation of a park is a DOCK, which counts on its token until the wave docks (R402). -/
def Park.isDock (p : Park) : Bool :=
  match p.instr with
  | .dock _ => true
  | _ => false

/-- R402: every token of the wave is clear but for what its DOCKs count. -/
def Wave.mayDock (wv : Wave) : Bool :=
  wv.flights.isEmpty && wv.parks.all Park.isDock &&
    (List.range 16).all fun n => wv.wk.getD n 0 == (wv.parks.filter fun p => p.tok == some n).length

/-- R402: the wave docks: the records its lanes still hold retire, and the DOCKs' tokens complete. -/
def State.dock (s : State) (w : Nat) : State :=
  let wv := s.wave w
  let gone := (lanesOf (wv.jm.getD 7 0)).filterMap fun l => (wv.lane l).held
  let s := { s with recs := s.recs.filter fun r => !gone.contains r.1 }
  s.updWave w fun x =>
    { x with st := .docked, jm := x.jm.set 7 0, lastSet := 0, turn := 64, parks := [], wk := List.replicate 16 0,
             lanes := x.lanes.map fun ln => { ln with block := .none, held := none, lid := -1 } }

/-- Whether every lane of a wave that has not exited is blocked at `b`, outside a trap (R303, R327, R402), and none of them has an access
that still waits: its release covers them all (R233, R304, R327). -/
def Wave.arrivedAt (wv : Wave) (b : Block) : Bool :=
  !wv.trapped && wv.live != 0 && wv.clause.isNone && (lanesOf wv.live).all (fun l => (wv.lane l).block == b) &&
    wv.live &&& wv.waiting Park.orders wv.parks.length == 0

/-- R173: the turn ends at this boundary. -/
def Wave.turnEnds (wv : Wave) (run : LaneMask) : Bool := decide (64 ≤ wv.turn) || wv.lastSet &&& run == 0

/-- R176, R177: one group is released, the first of those that may; once lanes it releases are blocked at once, that is a moment of its
own, and one more may follow. In a trap only groups of its set are (R180, R427). -/
def State.releaseHeld (s : State) (w : Nat) : Nat → Wave → Wave
  | 0, wv => wv
  | n + 1, wv =>
    let held := s.heldLanes wv
    if held = 0 then wv
    else
      let (wv, ls) := wv.releaseGroup (if wv.trapped then held &&& wv.x.s else held) (wv.live &&& ~~~ held &&& ~~~ s.blockedLanes wv w)
      if s.blockedLanes wv w &&& ls = 0 then wv else s.releaseHeld w n wv

/-- R176: what a clause boundary (`grp`) or a change of the blocked lanes releases. -/
def State.regroup (s : State) (grp : Bool) (w : Nat) (wv : Wave) : Wave :=
  let wv := if grp || s.blockedLanes wv w != wv.blkd then s.releaseHeld w 33 wv else wv
  { wv with blkd := s.blockedLanes wv w }

/-- R172, R173, R148: the state of a wave that neither sleeps nor waits for answers or children: its current set is chosen; `free` are its
runnable lanes. In a trap only lanes of its set issue (R427); a turn that others were due to follow stays due (log 124). With lanes blocked
for both causes the wave is in BARRIER (log 155). One that parks lands its matrix operations (R341); one that becomes READY begins to wait
(R154). -/
def State.settleRun (s : State) (w : Nat) (wv : Wave) : State :=
  let blk := wv.blkd
  let free := wv.live &&& ~~~ s.heldLanes wv &&& ~~~ blk
  let run := if wv.trapped then free &&& wv.x.s else free
  let wv := { wv.pick run with due := wv.due || (run != free && wv.turnEnds run) }
  if run = 0 then
    let what := (lowest wv.live).map fun l => (wv.lane l).block
    if what == some .dock && wv.arrivedAt .dock && wv.mayDock && !s.cmds.any (fun k => k.2.wave == w) then
      (s.updWave w fun _ => wv).dock w
    else if blk = 0 then s.updWave w fun _ => { wv with st := .held }
    else if (lanesOf blk).all fun l => (wv.lane l).block == .none then s.updWave w fun _ => { wv.landMma with st := .parked }
    else s.updWave w fun _ => { wv with st := .barrier }
  else
    let m := s.waitAt wv (wv.lane ((lowest wv.lastSet).getD 0)).pc
    let named := (List.range 16).filter fun n => bitAt m n && wv.wk.getD n 0 != 0
    if !named.isEmpty || wv.flights.any (fun f => f.hold &&& wv.lastSet != 0) then
      s.updWave w fun _ => { wv with st := .waiting }
    else s.updWave w fun _ => { wv with st := .ready, waited := if wv.st == .ready then wv.waited else 0 }

/-- R172, R176, R148: settles one wave: groups are released (R176; `grp` at a clause boundary), then its state is set. A wave whose fault
was answered `fail` keeps the set that issued the clause, which takes the trap (R425). -/
def State.settleAt (grp : Bool) (s : State) (w : Nat) : State :=
  match mget s.waves w with
  | none => s
  | some wv =>
    if wv.st == .retired || wv.st == .docked || wv.clause.isSome then s
    else
      let wv := s.regroup grp w wv
      if wv.faultWait != [] || wv.pend != [] then s.updWave w fun _ => { wv.landMma with st := .parked }
      else if wv.sleep.isSome then s.updWave w fun _ => { wv with st := .sleeping }
      else if (match wv.kidsWait with
          | some q => !s.kidsDone (s.teamOf wv) q
          | none => false) then s.updWave w fun _ => { wv.landMma with st := .parked }
      else
        let wv := { wv with kidsWait := none }
        if wv.live = 0 then (if wv.clear then s.retireWave w else s.updWave w fun _ => { wv with st := .waiting })
        else s.settleRun w wv

/-- Unblocks the lanes of waves that are blocked at `b`, and settles the waves. -/
def State.unblock (s : State) (b : Block) (ws : List Nat) : State :=
  let s := ws.foldl (fun s w => s.updWave w fun x =>
    { x with lanes := x.lanes.map fun ln => if ln.block = b then { ln with block := .none } else ln }) s
  ws.foldl (State.settleAt false) s

/-- The waves of a team that have not retired. -/
def State.liveWaves (s : State) (t : Nat) : List Nat := mkeys s.waves fun w => w.team == t && w.st != .retired

/-- R303: a team has arrived at a gang barrier or at a step: all its waves have. -/
def State.teamArrived (s : State) (b : Block) (t : Nat) : Bool :=
  let ws := s.liveWaves t
  !ws.isEmpty && ws.all fun w => (s.wave w).arrivedAt b

/-- R302 to R304: team barrier b of team t: counts the arrivals and completes the generation when all have arrived. -/
def State.syncBar (t : Nat) (s : State) (b : Nat) : State :=
  let ws := s.liveWaves t
  let here := ws.filter fun w => (s.wave w).arrivedAt (.bar b)
  let done := !here.isEmpty && ws.length ≤ here.length
  let s := s.updTeam t fun x => { x with bars := updAt x.bars b fun y =>
    if done then { arrived := 0, gen := y.gen + 1 } else { y with arrived := here.length } }
  if done then s.unblock (.bar b) here else s

/-- The teams of a gang that have not retired. -/
def State.gangTeams (s : State) (g : Nat) : List Nat :=
  ((mget s.gangs g).getD default).teams.filter fun t => match mget s.teams t with
    | some x => x.st != .retired
    | none => false

/-- R302 to R304: gang barrier b of gang g. -/
def State.syncBarg (g : Nat) (s : State) (b : Nat) : State :=
  let ts := s.gangTeams g
  let here := ts.filter (s.teamArrived (.barg b))
  let done := !here.isEmpty && ts.length ≤ here.length
  let s := s.updGang g fun x => { x with bars := updAt x.bars b fun y =>
    if done then { arrived := 0, gen := y.gen + 1 } else { y with arrived := here.length } }
  if done then s.unblock (.barg b) (here.flatMap s.liveWaves) else s

/-- R316: the step group of slot k of a team. -/
def State.stepGroup (s : State) (t k : Nat) : List Nat :=
  match ((mget s.teams t).getD default).gang with
  | none => [t]
  | some g => (s.gangTeams g).filter fun x => (mget ((mget s.teams x).getD default).slots k).isSome

/-- R327: the step of slot k in one team's region. -/
def State.stepTeam (k : Nat) (s : State) (t : Nat) : State :=
  s.updTeam t fun x => match mget x.slots k with
    | none => x
    | some r => let (lo, r') := x.loc.stepRegion r; { x with loc := lo, slots := mset x.slots k r' }

/-- R327: the step of slot k is performed when every team of its group has arrived. -/
def State.syncStep (t : Nat) (s : State) (k : Nat) : State :=
  let ts := s.stepGroup t k
  if ts.isEmpty || !ts.all (s.teamArrived (.pstep k)) then s
  else (ts.foldl (State.stepTeam k) s).unblock (.pstep k) (ts.flatMap s.liveWaves)

/-- Barriers and steps that the state of a team's waves completes. -/
def State.syncTeam (s : State) (t : Nat) : State :=
  let tm := (mget s.teams t).getD default
  let s := (List.range 16).foldl (State.syncBar t) s
  let s := match tm.gang with
    | some g => (List.range 4).foldl (State.syncBarg g) s
    | none => s
  (tm.slots.map (·.1)).foldl (State.syncStep t) s

/-- R153: a parked team becomes runnable: its place in the order. -/
def State.markRunnable (s : State) (t : Nat) : State :=
  let tm := (mget s.teams t).getD default
  if tm.st == .parked && tm.runnableAt == 0 then { s.updTeam t fun x => { x with runnableAt := s.key } with key := s.key + 1 } else s

/-- R153: a wave of a parked team that would leave the state it was parked in makes its team runnable. -/
def State.noteRunnable (s : State) (w : Nat) : State :=
  let wv := s.wave w
  if wv.st == .ready || ((s.settleAt false w).wave w).st != wv.st then s.markRunnable wv.team else s

/-- Settles a wave of a team on its core, then what its team waits for; a wave of a parked team keeps its state (R148). -/
def State.boundaryAt (grp : Bool) (s : State) (w : Nat) : State :=
  let t := (s.wave w).team
  if (s.teamOf (s.wave w)).onCore then
    let s := s.settleAt grp w
    if (s.liveWaves t).all fun x => (s.wave x).st != .barrier then s else s.syncTeam t
  else s.noteRunnable w

/-- A clause boundary of a wave, a moment of R176. -/
def State.boundary (s : State) (w : Nat) : State := s.boundaryAt true w

/-! ## Taking a trap (R425 to R428) -/

/-- R84, R428: the launch id of a wave's grid, or of its flow graph in an episode. -/
def State.launchOf (s : State) (wv : Wave) : Nat :=
  let t := s.teamOf wv
  if t.berthTeam then (s.flow t.grid).launch else (s.gridOf t).launch

/-- R477: the unit id of a wave's quadrant. -/
def Wave.unit (wv : Wave) : Nat := wv.core / 4 + wv.core * 256 + wv.quad * 65536

/-- R170: the 57 bits of a PC: a multiple of 8. -/
def pcBits (a : DWord) : DWord := a &&& 0x01FFFFFFFFFFFFF8

/-- R427: a wave enters a trap: `S` is the issuing set, `hdr` the clause, `after` whether the default resumption is to
continue, `nxt` the fall-through header (the continue point of a fault). Results in flight land (R341, R425). IN-TRAP already, it is a
nested trap; without a handler, cause 0xAC. What S and the wave wait for (a barrier, a sleep) waits for the return (log 124). -/
def State.takeTrap (s : State) (w : Nat) (S : LaneMask) (hdr nxt : DWord) (after : Bool) (c : Cond) : State :=
  let wv := (s.wave w).landAll
  let info (x : Word) : EventInfo :=
    { xpc := (pcBits hdr).toNat, xaddr := c.addr.toNat, xinfo := (x.toNat / 256) * 256 + c.cause, launch := s.launchOf wv, unit := wv.unit }
  let base := (s.ctx wv.ctxn).desc.trapbase
  let wv' := { wv with
    x := { xpc := pcBits hdr, cause := BitVec.ofNat 32 c.cause, addr := c.addr, lanes := c.lanes, info := c.info,
           resume := if after then 1 else 0, s := if wv.trapped then wv.x.s else S }
    clause := none
    lanes := mapIx (fun l ln => if inMask S l then { ln with xlpc := if after then ln.pc else nxt } else ln) 0 wv.lanes }
  if wv.trapped then (s.updWave w fun _ => wv').ctxFault wv.ctxn 0x08 (info c.info)
  else if base = 0 then (s.updWave w fun _ => wv').ctxFault wv.ctxn 0xAC (info c.info)
  else
    (s.updWave w fun _ => { wv' with
      trapped := true, st := .ready, lastSet := S, sleep := none, kidsWait := none, xsleep := wv.sleep, xkids := wv.kidsWait
      lanes := mapIx (fun l ln => if inMask S l then { ln with pc := base, block := .none, xblock := ln.block } else ln) 0 wv'.lanes }).boundary w

/-- R426, R429: a pending single-step is due for the set S at a settled boundary: no breakpoint of the next clause comes first. -/
def State.stepDue (s : State) (w : Nat) (S : LaneMask) : Bool :=
  let wv := s.wave w
  let brk := wv.dbg.ctl.getLsbD 1 && !wv.dbg.brkSkip && (wv.lane ((lowest wv.lastSet).getD 0)).pc == wv.dbg.brkh ++ wv.dbg.brkl
  !wv.trapped && !brk && wv.dbg.stepPending && wv.st != .retired && wv.st != .docked && S &&& wv.live != 0

/-- R429, R425: the single-step trap of the set S. -/
def State.takeStep (s : State) (w : Nat) (S : LaneMask) (hdr : DWord) : State :=
  (s.updWave w fun x => { x with dbg := { x.dbg with stepPending := false } }).takeTrap w S hdr hdr true
    { cause := 0x07, lanes := S, addr := 0, info := 0xFF, after := true }

/-- R425: the boundary after a clause: a single-step trap is taken before the wave arrives anywhere, else the wave settles. -/
def State.boundaryTrap (s : State) (w : Nat) (S : LaneMask) (hdr : DWord) : State :=
  let b := s.boundary w
  if b.stepDue w S then s.takeStep w S hdr else b

/-- R37: the lanes of `m` whose records a stopped clause sent on. -/
def Wave.sentLanes (wv : Wave) (m : LaneMask) : LaneMask := m &&& maskOf fun l => (wv.lane l).sent.isSome

/-- R434: `TRET`: every lane of S that has not exited resumes at the replay point or at its continue point; past a stopped
clause, lanes whose records it sent on hold none (log 154). -/
def Wave.tret (wv : Wave) (mode : Nat) : Wave :=
  let rep := mode == 1 || (mode == 0 && !wv.x.resume.getLsbD 0)
  { wv with
    trapped := false
    lanes := mapIx (fun l ln => if inMask wv.x.s l then
      { ln with pc := if ln.exited then ln.pc else if rep then wv.x.xpc else ln.xlpc, block := ln.xblock, xblock := .none
                sent := if rep then ln.sent else none } else ln) 0 wv.lanes
    sleep := wv.xsleep, kidsWait := wv.xkids, xsleep := none, xkids := none, turn := if wv.due then 64 else wv.turn, due := false
    clause := wv.clause.map fun c => { c with pcs := (lanesOf (wv.x.s &&& wv.live)).map fun l => (l, if rep then wv.x.xpc else (wv.lane l).xlpc) }
    perf := if rep then wv.perf else wv.perf.filter fun p => p.hdr != wv.x.xpc
    jm := if rep then wv.jm else updAt wv.jm 7 fun x => x &&& ~~~ wv.sentLanes wv.x.s
    dbg := { wv.dbg with brkSkip := if wv.x.cause == 0 then rep else wv.dbg.brkSkip } }

/-! ## Retiring a clause (R53, R54, R172, R173) -/

/-- R183: the fall-through header. -/
def Clause.nxt (c : Clause) : DWord := c.hdr + BitVec.ofNat 64 (8 * (c.words.length + 1))

/-- The lanes of a retiring clause: PCs and depths move, the set blocks, jm7 bits drop. -/
def Clause.retireLanes (c : Clause) (wv : Wave) : Wave :=
  { wv with
    lanes := mapIx (fun l ln =>
      if inMask c.set l then
        let ln := { ln with pc := (mget c.pcs l).getD c.nxt, depth := (mget c.depths l).getD ln.depth }
        let ln := match c.ends with
          | some b => if ln.exited then ln else { ln with block := b }
          | none => ln
        let ln := { ln with sent := ln.sent.filter fun x => x.hdr != c.hdr }
        if inMask c.dropRec l then { ln with held := none, lid := -1 } else ln
      else ln) 0 wv.lanes
    jm := updAt wv.jm 7 fun x => x &&& ~~~ c.dropRec }

/-- R173: a taken transfer whose target, in some lane, lies at or below the header. -/
def Clause.backward (c : Clause) : Bool := c.pcs.any fun p => p.2.toNat ≤ c.hdr.toNat

/-- The bookkeeping of a retiring clause: marks act, performed masks clear, the turn counts, YIELD resets the waiting
time (R48, R53, R54, R173). -/
def Clause.retireWave (c : Clause) (wv : Wave) : Wave :=
  let turn := wv.turn + c.words.length
  { wv with
    clause := none
    st := .ready
    staged := wv.staged.filter fun r => !c.freed.contains r
    perf := wv.perf.filter fun p => p.hdr != c.hdr
    turn := if c.rotate || c.backward then max turn 64 else turn
    waited := if c.head.getLsbD 31 then 0 else wv.waited
    dbg := { wv.dbg with stepPending := wv.dbg.stepPending || (wv.dbg.ctl.getLsbD 0 && !c.trap) } }

/-- Retires the clause of a wave: then its trap after completion, or a boundary trap, is taken (R425, R426). -/
def State.retireClause (s : State) (w : Nat) : State :=
  match (s.wave w).clause with
  | none => s
  | some c =>
    let s := s.updWave w fun wv => c.retireWave (c.retireLanes wv)
    match c.cond with
    | some k => s.takeTrap w c.set c.hdr c.nxt true k
    | none => s.boundaryTrap w c.set c.hdr

/-! ## The frame of one instruction -/

/-- What an instruction of a clause sees: the state before it (`raw`) and with what it did so far, the wave, its clause, and L, the active lanes whose predicate holds (R57). -/
structure Env where
  raw : State
  s : State
  w : Nat
  wv : Wave
  cl : Clause
  L : LaneMask

/-- R57: the lanes of a set whose selected predicate holds. -/
def Wave.predMask (wv : Wave) (ctr : Nat) (set : LaneMask) (p : BitVec 4) : LaneMask :=
  let n := p.toNat % 8
  let neg := p.getLsbD 3
  set &&& maskOf fun l =>
    let cur := (wv.lane l).pred n
    let v := if n < 7 && !wv.flights.isEmpty then readPending ctr wv.flights .p n l (if cur then 1 else 0) != 0 else cur
    v != neg

/-- The frame of the next instruction of the current wave's clause; none when no clause is being issued. -/
def begin_ (s : State) (p : BitVec 4) : Option Env :=
  match mget s.waves s.cur with
  | none => none
  | some wv => match wv.clause with
    | none => none
    | some cl => some { raw := s, s := s, w := s.cur, wv := wv, cl := cl, L := wv.predMask s.ctr (cl.set &&& wv.live) p }

/-- The lowest lane of L (l0). -/
def Env.l0 (e : Env) : Nat := (lowest e.L).getD 0
/-- The team of the wave. -/
def Env.team (e : Env) : Team := e.s.teamOf e.wv
/-- The context of the wave. -/
def Env.ctx (e : Env) : Ctx := e.s.ctx e.wv.ctxn
/-- The lanes of L that have performed this instruction already (R53). -/
def Env.performed (e : Env) : LaneMask :=
  match e.wv.perf.find? fun p => p.hdr == e.cl.hdr && p.idx == e.cl.idx with
  | some p => p.mask
  | none => 0
/-- The lanes of L still to be performed. -/
def Env.todo (e : Env) : LaneMask := e.L &&& ~~~ e.performed

/-- R53: marks lanes as performed for this instruction. -/
def Env.markPerf (e : Env) (m : LaneMask) (wv : Wave) : Wave :=
  let old := e.performed
  { wv with perf := (wv.perf.filter fun p => !(p.hdr == e.cl.hdr && p.idx == e.cl.idx)) ++
      [{ hdr := e.cl.hdr, idx := e.cl.idx, mask := old ||| m }] }

/-- The instruction is done: the next one of the clause follows, or the clause retires. -/
def Env.done (e : Env) (s : State) : State :=
  let s := { s with ctr := s.ctr + 1 }
  if e.cl.idx + 1 < e.cl.words.length then
    s.updWave e.w fun wv => { wv with clause := wv.clause.map fun c => { c with idx := c.idx + 1 } }
  else s.retireClause e.w

/-- R37: SRCNT of the set returns to its value at the clause's issue. -/
def Clause.restoreSr (c : Clause) (wv : Wave) : Wave :=
  wv.updLanes c.set fun l ln => { ln with srcnt := c.sr0.getD l ln.srcnt }

/-- R37: a lane of a clause that stops holds no record that the clause has sent on or ended; a replay takes it up again. -/
def Clause.keepSent (c : Clause) (wv : Wave) : Wave :=
  wv.updLanes c.set fun l ln =>
    if inMask c.dropRec l || ln.sent.any (·.hdr == c.hdr) then { ln with sent := some { hdr := c.hdr, held := ln.held, lid := ln.lid }, held := none, lid := -1 }
    else ln
/-- R53, R37: a replay of that clause takes the record up for its words and its checks. -/
def Lane.takeUp (hdr : DWord) (ln : Lane) : Lane :=
  match ln.sent with
  | some x => if x.hdr == hdr then { ln with held := x.held, lid := x.lid } else ln
  | none => ln

/-- R53, R173: a clause stops: results in flight land, and its turn has issued the instructions so far. -/
def Clause.stop (c : Clause) (wv : Wave) : Wave :=
  { c.keepSent (c.restoreSr wv.landAll) with clause := none, turn := wv.turn + c.idx + 1 }

/-- R53, R425, R427: a fault before completion: results in flight land, the clause stops, the trap is taken. -/
def State.faultNow (s : State) (w : Nat) (c : Clause) (cause : Nat) (lanes : LaneMask) (addr : DWord := 0)
    (info : Option Word := none) : State :=
  let s := s.updWave w fun wv => c.stop wv
  s.takeTrap w c.set c.hdr c.nxt false
    { cause := cause, lanes := lanes, addr := addr, info := info.getD (BitVec.ofNat 32 c.idx), after := false }

/-- A fault of this instruction (R428: XINFO holds the instruction index). -/
def Env.fault (e : Env) (cause : Nat) (lanes : LaneMask) (addr : DWord := 0) (info : Option Word := none) : State :=
  e.s.faultNow e.w e.cl cause lanes addr info

/-- R426: records a trap after completion; that of the lowest-indexed instruction stays. -/
def Wave.after (wv : Wave) (k : Cond) : Wave :=
  { wv with clause := wv.clause.map fun c => { c with cond := match c.cond with
    | some k0 => some k0
    | none => some k } }

/-- R280: the XINFO of a translation fault. -/
def xlateInfo (f : TFault) (acc : Nat) : Word :=
  BitVec.ofNat 32 (f.kind + f.level * 16 + acc * 256 + bn (resolvable f.kind) * 1024)

/-- R280: the trap a translation fault becomes; `ls` are the lanes that met it. -/
def xlateCond (f : TFault) (acc : Nat) (ls : LaneMask) : Cond :=
  { cause := 0x48 + f.kind, lanes := ls, addr := BitVec.ofNat 64 f.va, info := xlateInfo f acc, after := false }

/-- R279: a wave waits for the answers to the fault records its stopped clause raised, with the trap each would become. -/
def State.waitFaults (s : State) (w : Nat) (acc : Access) (fs : List (TFault × LaneMask)) (nxt : DWord) : State :=
  let wv := s.wave w
  let (ps, s) := fs.foldl (fun (a : Map Cond × State) x =>
    let (t, s) := a.2.raiseFault wv.ctxn x.1 acc wv.core (wv.core / 4) (.wave w)
    (if (mget a.1 t).isSome then a.1 else mset a.1 t (xlateCond x.1 acc x.2), s)) ([], s)
  s.updWave w fun wv => { wv.landMma with st := .parked, staged := [], faultWait := ps.map (·.1), pend := ps, pendNxt := nxt }

/-- R279, R280, R53: lanes of an instruction met translation faults: resolvable ones park the wave with one record per
page, for a replay; a final one traps, or at a frame the device has retired faults the context (R277). The cause of the lowest lane
decides (R426). -/
def Env.xlateFault (e : Env) (s : State) (acc : Access) (fs : List (Nat × TFault)) : State :=
  match fs with
  | [] => s
  | (_, f) :: _ =>
    let same (p : Nat × TFault → Bool) : LaneMask := maskOf fun l => fs.any fun x => x.1 == l && p x
    if resolvable f.kind then
      let s := s.updWave e.w fun wv => e.cl.stop wv
      s.waitFaults e.w acc ((fs.filter fun x => resolvable x.2.kind).map fun x =>
        (x.2, same fun y => y.2.kind == x.2.kind && y.2.page == x.2.page)) e.cl.nxt
    else match s.goneFrame e.wv.ctxn f e.wv.core with
      | some pa => s.frameLost e.wv.ctxn pa
      | none =>
        let c := xlateCond f acc (same fun x => x.2.kind == f.kind)
        s.faultNow e.w e.cl c.cause c.lanes c.addr (some c.info)

end Sys2Proof.Machine
end

