-- ==== Sys2Proof/Machine/Operands.lean ====
section
/-! DEFINITION. Operand forms at run time (R63 to R67): constants, specials, index registers, 32-bit and 64-bit operands,
destinations, the index-range fault, main-file reads and last-read marks. -/
namespace Sys2Proof.Machine

/-- R64: the inline constants as integers (0xF0 to 0xF7) or FP32 patterns. -/
def constInt (sp : Nat) : Nat :=
  [0, 1, 2, 4, 8, 16, 0xFFFFFFFF, 0xFFFFFFFE, 0x3F000000, 0x3F800000, 0x40000000, 0xBF800000, 0x3E800000, 0x40490FDB,
   0x3FB8AA3B].getD (sp - 0xF0) 0
/-- R64: the inline constants as FP32. -/
def constF32 (sp : Nat) : Nat :=
  [0, 0x3F800000, 0x40000000, 0x40800000, 0x41000000, 0x41800000, 0xBF800000, 0xC0000000, 0x3F000000, 0x3F800000,
   0x40000000, 0xBF800000, 0x3E800000, 0x40490FDB, 0x3FB8AA3B].getD (sp - 0xF0) 0
/-- R64: the inline constants as FP64. -/
def constF64 (sp : Nat) : Nat :=
  [0, 0x3FF0000000000000, 0x4000000000000000, 0x4010000000000000, 0x4020000000000000, 0x4030000000000000,
   0xBFF0000000000000, 0xC000000000000000, 0x3FE0000000000000, 0x3FF0000000000000, 0x4000000000000000,
   0xBFF0000000000000, 0x3FD0000000000000, 0x400921FB54442D18, 0x3FF71547652B82FE].getD (sp - 0xF0) 0
/-- R64, R223: an inline constant rounded with RNE to a format. -/
def constFmt (f : FpFmt) (sp : Nat) : Nat := (f.pack 1 false 0 (fp64.val (constF64 sp))).1

/-- How an opcode reads an inline constant (R64): the constant's 32-bit pattern. -/
abbrev ConstKind := Nat → Nat

/-- A lane's `v` register. -/
def Env.rv (e : Env) (r l : Nat) : Word := readPending e.s.ctr e.wv.flights .v r l ((e.wv.lane l).v.getD r 0)
/-- A `w` register, as lane l reads it. -/
def Env.rw (e : Env) (r l : Nat) : Word := readPending e.s.ctr e.wv.flights .w r l (e.wv.w.getD r 0)
/-- A predicate of a lane. -/
def Env.rp (e : Env) (n l : Nat) : Bool :=
  let cur := (e.wv.lane l).pred n
  if n < 7 then readPending e.s.ctr e.wv.flights .p n l (if cur then 1 else 0) != 0 else cur

/-- R66: the register an index register reaches in a lane; none is the index-range fault. `pair` asks for an even one. -/
def Wave.index (wv : Wave) (l n : Nat) (pair : Bool) : Option Nat :=
  let x := ((wv.lane l).idx n).toNat
  let r := bits x 23 16 + bits x 15 0
  if bits x 31 24 ≤ bits x 15 0 || wv.alloc ≤ r || (pair && r % 2 == 1) then none else some r

/-- R63: a special register of a lane. -/
def Env.special (e : Env) (sp l : Nat) : Nat :=
  (match sp with
  | 0xE9 => l
  | 0xEA => e.wv.rank
  | 0xEB => e.team.index
  | 0xEC => e.team.gangRank
  | 0xED => 0xFFFFFFFF
  | 0xEE => l
  | 0xEF => e.s.clk e.wv.core
  | _ => 0) % 2 ^ 32

/-- R63: a 32-bit operand of a lane. -/
def Env.src (e : Env) (ck : ConstKind) (spec : BitVec 8) (l : Nat) : Nat :=
  let sp := spec.toNat
  if sp < 0xC0 then (e.rv sp l).toNat
  else if sp < 0xE0 then (e.rw (sp - 0xC0) l).toNat
  else if sp < 0xE4 then (match e.wv.index l (sp - 0xE0) false with
    | some r => (e.rv r l).toNat
    | none => 0)
  else if 0xF0 ≤ sp then ck sp
  else e.special sp l

/-- R63, R67: a 64-bit operand of a lane; specials and integer constants are sign-extended, `%clk` zero-extended. -/
def Env.src64 (e : Env) (spec : BitVec 8) (l : Nat) : Nat :=
  let sp := spec.toNat
  if sp < 0xC0 then (e.rv sp l).toNat + 2 ^ 32 * (e.rv (sp + 1) l).toNat
  else if sp < 0xE0 then (e.rw (sp - 0xC0) l).toNat + 2 ^ 32 * (e.rw (sp - 0xC0 + 1) l).toNat
  else if sp < 0xE4 then (match e.wv.index l (sp - 0xE0) true with
    | some r => (e.rv r l).toNat + 2 ^ 32 * (e.rv (r + 1) l).toNat
    | none => 0)
  else if sp = 0xED then 2 ^ 64 - 1
  else if sp = 0xEF then e.special sp l
  else if 0xF8 ≤ sp then constInt sp
  else if 0xF0 ≤ sp then wrapNat 64 (sx 32 (constInt sp))
  else wrapNat 64 (sx 32 (e.special sp l))

/-- R63: a double operand of a lane: constants read as FP64. -/
def Env.srcD (e : Env) (spec : BitVec 8) (l : Nat) : Nat :=
  if 0xF0 ≤ spec.toNat then constF64 spec.toNat else e.src64 spec l

/-- R65, R66: the 32-bit writes of a lane to a destination specifier (`k` registers further); `w` registers take the value
of the lowest lane of L alone. -/
def Env.put (e : Env) (spec : BitVec 8) (k l : Nat) (x : Nat) (pair : Bool := false) : List RegWrite :=
  let sp := spec.toNat
  let v := BitVec.ofNat 32 x
  if sp < 0xC0 then [{ file := .v, reg := sp + k, lane := l, val := v }]
  else if sp < 0xE0 then (if l = e.l0 then [{ file := .w, reg := sp - 0xC0 + k, lane := l, val := v }] else [])
  else if sp < 0xE4 then (match e.wv.index l (sp - 0xE0) pair with
    | some r => [{ file := .v, reg := r + k, lane := l, val := v }]
    | none => [])
  else []

/-- Writes a 64-bit destination. -/
def Env.put64 (e : Env) (spec : BitVec 8) (l : Nat) (x : Nat) : List RegWrite :=
  e.put spec 0 l (x % 2 ^ 32) true ++ e.put spec 1 l (x / 2 ^ 32) true

/-- Writes a predicate destination; index 7 is none. -/
def putP (n l : Nat) (b : Bool) : List RegWrite :=
  if n < 7 then [{ file := .p, reg := n, lane := l, val := if b then 1 else 0 }] else []

/-- R66: the lanes of L in which an indexed operand is out of range, and its cause: of operands through different registers the first in the
order D, A, B, C (log 167). -/
def Env.indexFault (e : Env) (f : Form) : Option (Nat × LaneMask) :=
  match (f.ops.filter Opd.indexed).findSome? fun o =>
      let m := e.L &&& maskOf fun l => (e.wv.index l (o.spec - 0xE0) (o.n == 2)).isNone
      if m = 0 then none else some (o.spec - 0xE0, m) with
  | none => none
  | some _ =>
    -- the lowest faulting lane decides the cause (R426)
    let bad (l : Nat) : Option Nat := (f.ops.filter Opd.indexed).findSome? fun o =>
      if (e.wv.index l (o.spec - 0xE0) (o.n == 2)).isNone then some (o.spec - 0xE0) else none
    match (lanesOf e.L).findSome? bad with
    | none => none
    | some n => some (0x25 + n, e.L &&& maskOf fun l => bad l == some n)

/-- The `v` registers that the lanes of L read through an operand: all of a multi-register operand, and those index registers reach. -/
def Env.vRegs (e : Env) (o : Opd) : List Nat :=
  if !o.rd then []
  else if o.spec < 0xC0 then (List.range o.n).map (o.spec + ·)
  else if o.indexed then (lanesOf e.L).flatMap fun l =>
    ((e.wv.index l (o.spec - 0xE0) (o.n == 2)).map fun r => (List.range o.n).map (r + ·)).getD []
  else []

/-- R157, R339: the registers an instruction reads from the main file, each once: not staged, and not of an operand that a held A latch
stands for. -/
def Env.mainReads (e : Env) (f : Form) : Nat :=
  let ops := f.ops.filter fun o => !(f.latched && o.fld == 1 && !e.cl.latch.isEmpty)
  if e.L = 0 then 0 else ((dedup (ops.flatMap e.vRegs)).filter fun r => !e.wv.staged.contains r).length

/-- The reads of the main file count (R157), and the registers of the operands with last-read marks, by their fields, are noted for the
clause's retirement (R54). -/
def Env.note (e : Env) (f : Form) (marks : List Nat) : Env :=
  let freed := e.cl.freed ++ (f.ops.filter fun o => marks.contains o.fld).flatMap e.vRegs
  let wv := { e.wv with mfreads := e.wv.mfreads + BitVec.ofNat 32 (e.mainReads f), clause := some { e.cl with freed := freed } }
  { e with wv := wv, cl := { e.cl with freed := freed }, s := e.s.updWave e.w fun _ => wv }

end Sys2Proof.Machine
namespace Sys2Proof
/-- The operand fields (1 A, 2 B, 3 C) with a last-read mark in an F3 word. -/
def F3.marked (f : F3) : List Nat := (if f.markA then [1] else []) ++ (if f.markB then [2] else []) ++ (if f.markC then [3] else [])
end Sys2Proof
namespace Sys2Proof.Machine

end Sys2Proof.Machine
end

