-- ==== Sys2Proof/Machine/Frame.lean ====
section
/-! DEFINITION. The frame of every instruction of a clause: its results (short, long, parked), the token it counts on, the
lanes it acts in (R49, R50, R57, R66). -/
namespace Sys2Proof.Machine

/-! ### Results -/

/-- What one lane of L gets: register and predicate writes, flags, and the words of SR it drew. -/
structure LaneOut where
  regs : List RegWrite := []
  flags : Flags := 0
  draws : Nat := 0

/-- A lane takes its results. -/
def Lane.take (ln : Lane) (o : LaneOut) : Lane :=
  let ln := (o.regs.foldl Lane.put ln).flag o.flags
  { ln with srcnt := ln.srcnt + BitVec.ofNat 32 o.draws }

/-- Short-latency results of L: every operand was read before (R189). -/
def Env.apply (e : Env) (g : Nat → LaneOut) : Wave :=
  let wv := { e.wv with lanes := mapIx (fun l ln => if inMask e.L l then ln.take (g l) else ln) 0 e.wv.lanes }
  match lowest e.L with
  | none => wv
  | some l => (g l).regs.foldl Wave.putWave wv

/-- R50: the writes of L take over pending destinations. -/
def Env.settleOver (e : Env) (ws : Unit → List RegWrite) (s : State) : State :=
  if e.s.quiet e.w e.wv then s else s.overwrite e.w (ws ())

/-- A short-latency instruction: results now, then the next instruction. -/
def Env.short (e : Env) (g : Nat → LaneOut) : State :=
  let s := e.s.updWave e.w fun _ => e.apply g
  e.done (e.settleOver (fun _ => (lanesOf e.L).flatMap fun l => (g l).regs) s)

/-- R49: the token cannot count another operation. -/
def Env.full (e : Env) (t : Option Nat) : Bool :=
  match t with
  | some n => decide (63 ≤ e.wv.wk.getD n 0)
  | none => false

/-- R49: the instruction is held before it issues; the quadrant may issue other waves. -/
def Env.hold (e : Env) : State := { e.raw with cur := 0 }

/-- The operation of a park is a FENCE. -/
def Park.isFence (p : Park) : Bool :=
  match p.instr with
  | .fence _ => true
  | _ => false

/-- The lanes of L whose accesses are held behind one that waits (R231, R235). -/
def Env.behind (e : Env) : LaneMask := e.L &&& e.wv.waiting Park.orders e.wv.parks.length

/-- The frame of an instruction: no clause, nothing happens; a full token holds it (R49); an index out of range faults
(R66); else its effect. -/
def issue (f : Form) (p : BitVec 4) (marks : List Nat) (tok : Option Nat) (s : State) (k : Env → State) : Out :=
  .next (match begin_ s p with
    | none => s
    | some e =>
      if e.full tok then e.hold
      else match e.indexFault f with
        | some (cause, ls) => e.fault cause ls
        | none => k (e.note f marks))

/-- The frame of an instruction that is held before it issues while accesses of its lanes wait: a release, which covers what its lanes
have observed (R233), and an access whose faults depend on the bytes it reads (log 125). -/
def issueAfter (f : Form) (p : BitVec 4) (marks : List Nat) (tok : Option Nat) (s : State) (k : Env → State) : Out :=
  match begin_ s p with
  | some e => if e.behind = 0 then issue f p marks tok s k else .next e.hold
  | none => .next s

/-- R50: the lanes whose next clause an operation without a token holds. -/
def Env.holds (e : Env) (hold : Bool) : LaneMask := if hold then e.cl.set else 0

/-- R49, R50: results on their way, counted on a token or holding the next clause. With nothing to land and L empty the
instruction counts once and completes at once. -/
def State.launch (s : State) (e : Env) (t : Option Nat) (hold : Bool) (ws : List RegWrite) (fl : List (Nat × Flags))
    (mma : Bool := false) : State :=
  if e.L = 0 then s
  else
    let s := if e.s.quiet e.w e.wv then s else s.overwrite e.w ws
    s.updWave e.w fun wv => { (wv.tokUp t) with flights := wv.flights ++ [{ tok := t, hold := e.holds hold, writes := ws, flags := fl, mma := mma }] }

/-- A long-latency instruction whose results are known at issue; `mma` marks an in-core matrix operation (R341). -/
def Env.long (e : Env) (t : Option Nat) (hold : Bool) (g : Nat → LaneOut) (s : State) (mma : Bool := false) : State :=
  let ls := lanesOf e.L
  let s := s.updWave e.w fun wv => wv.updLanes e.L fun l ln => { ln with srcnt := ln.srcnt + BitVec.ofNat 32 (g l).draws }
  e.done (s.launch e t hold (ls.flatMap fun l => (g l).regs) ((ls.map fun l => (l, (g l).flags)).filter fun x => x.2 != 0) mma)

/-- Moves to the next fresh key. -/
def State.bumpKey (s : State) : State := { s with key := s.key + 1 }

/-- R50: an operation parks: its token counts it and is withheld; `dst` are the registers each lane's result goes to. -/
def Env.park (e : Env) (i : Instr) (t : Option Nat) (hold : Bool) (lanes : List (Nat × List Nat)) (dst : Nat → List RegWrite)
    (s : State := e.s) : State :=
  let ds := lanes.flatMap fun l => dst l.1
  let s := if s.quiet e.w (s.wave e.w) then s else s.overwrite e.w ds
  e.done (s.updWave e.w fun wv =>
    { (wv.tokUp t) with parks := wv.parks ++ [{ seq := s.key, instr := i, tok := t, hold := e.holds hold, lanes := lanes, dst := ds }] }).bumpKey

/-- R36, R37: a lane's logical id; once its clause has sent its record on or ended it, the lane holds none (R396). -/
def State.logicalId (s : State) (wv : Wave) (l : Nat) : Nat :=
  let t := s.teamOf wv
  if t.berthTeam then (if wv.clause.any fun c => inMask c.dropRec l then 2 ^ 64 - 1 else (wv.lane l).lid.toNat) else (t.index * 1024 + wv.rank * 32 + l) % 2 ^ 62

/-- R35: the seed of a wave's grid or flow graph. -/
def State.seedOf (s : State) (wv : Wave) : Nat :=
  let t := s.teamOf wv
  if t.berthTeam then (s.flow t.grid).seed.toNat else (s.gridOf t).seed.toNat

/-- R33: the `k`-th word a lane draws in this instruction. -/
def Env.srWord (e : Env) (l k : Nat) : Nat :=
  srHash (e.s.seedOf e.wv) (e.s.logicalId e.wv l) (((e.wv.lane l).srcnt.toNat + k) % 2 ^ 32)

end Sys2Proof.Machine
end

