-- ==== Sys2Proof/Machine/Integer.lean ====
section
/-! DEFINITION. Integer, logic, predicate and lane instructions, opcodes 0x10 to 0x3D (R188 to R207): for each its form
and its meaning. -/
namespace Sys2Proof.Machine

/-- D := a 32-bit value of each lane of L. -/
def vec32 (fm : Form) (f : F3) (s : State) (g : Env → Nat → Nat) : Out :=
  issue fm f.pred f.marked none s fun e => e.short fun l => { regs := e.put f.d 0 l (g e l) }

/-- D pair := a 64-bit value of each lane of L. -/
def vec64 (fm : Form) (f : F3) (s : State) (g : Env → Nat → Nat) : Out :=
  issue fm f.pred f.marked none s fun e => e.short fun l => { regs := e.put64 f.d l (g e l) }

/-- D := a 32-bit value of each lane, from an FI instruction. -/
def vecI (fm : Form) (f : FI) (s : State) (g : Env → Nat → Nat) : Out :=
  issue fm f.pred [] none s fun e => e.short fun l => { regs := e.put f.d 0 l (g e l) }

/-- The operands of an integer opcode. -/
def Env.a (e : Env) (f : F3) (l : Nat) : Nat := e.src constInt f.a l
/-- Operand B of an integer opcode. -/
def Env.b (e : Env) (f : F3) (l : Nat) : Nat := e.src constInt f.b l
/-- Operand C of an integer opcode. -/
def Env.c (e : Env) (f : F3) (l : Nat) : Nat := e.src constInt f.c l

end Sys2Proof.Machine
namespace Sys2Proof
/-- R190: the signedness bit. -/
def F3.signed (f : F3) : Bool := !f.mod.getLsbD 0
end Sys2Proof
namespace Sys2Proof.Machine

/-- Forms with a 32-bit destination and 32-bit sources A; A, B; A, B, C. -/
def formA (f : F3) (u : Use3) : Form :=
  { rsv := f.clear { u with d := true, a := true }, ops := [dst 0 f.d, src 1 f.a] }
/-- Sources A and B. -/
def formAB (f : F3) (u : Use3) : Form :=
  { rsv := f.clear { u with d := true, a := true, b := true }, ops := [dst 0 f.d, src 1 f.a, src 2 f.b] }
/-- Sources A, B and C. -/
def formABC (f : F3) (u : Use3) : Form :=
  { rsv := f.clear { u with d := true, a := true, b := true, c := true }, ops := [dst 0 f.d, src 1 f.a, src 2 f.b, src 3 f.c] }
/-- The FI forms with a destination and a source. -/
def formDAI (f : FI) : Form := { rsv := f.mod == 0, ops := [dst 0 f.d, src 1 f.a] }

/-! ## Moves and selects (R191) -/

/-- MOV. -/
def formMov (f : F3) : Form :=
  let n := if f.mod.getLsbD 0 then 2 else 1
  { rsv := f.clear { d := true, a := true, mod := 1 }, ops := [dst 0 f.d n, src 1 f.a n] }
/-- MOV (R191). -/
def execMov (f : F3) (s : State) : Out :=
  issue (formMov f) f.pred f.marked none s fun e => e.short fun l =>
    { regs := if f.mod.getLsbD 0 then e.put64 f.d l (e.src64 f.a l) else e.put f.d 0 l (e.a f l) }

/-- MOVI. -/
def formMovi (f : FI) : Form := { rsv := f.mod == 0 && f.a == 0, ops := [dst 0 f.d] }
/-- MOVI (R191). -/
def execMovi (f : FI) (s : State) : Out := vecI (formMovi f) f s fun _ _ => f.imm.toNat

/-- MOVW. -/
def formMovw (f : F3) : Form :=
  { rsv := f.clear { d := true, a := true, b := true }, ops := [dst 0 f.d 2, src 1 f.a, src 2 f.b] }
/-- MOVW (R191). -/
def execMovw (f : F3) (s : State) : Out := vec64 (formMovw f) f s fun e l => e.a f l + 2 ^ 32 * e.b f l

/-- SEL. -/
def formSel (f : F3) : Form :=
  { formAB f { mod := 15 } with rd := pReg (f.mod.toNat % 8) }
/-- SEL (R191). -/
def execSel (f : F3) (s : State) : Out := vec32 (formSel f) f s fun e l =>
  if e.rp (f.mod.toNat % 8) l != f.mod.getLsbD 3 then e.a f l else e.b f l

/-! ## Add, subtract, multiply (R192 to R195) -/

/-- A operand in the signedness of R190, as an integer. -/
def Env.ai (e : Env) (f : F3) (l : Nat) : Int := extInt f.signed 32 (e.a f l)
/-- B operand in the signedness of R190. -/
def Env.bi (e : Env) (f : F3) (l : Nat) : Int := extInt f.signed 32 (e.b f l)
/-- C operand in the signedness of R190. -/
def Env.ci (e : Env) (f : F3) (l : Nat) : Int := extInt f.signed 32 (e.c f l)

/-- Forms with S and SAT. -/
def formArith (f : F3) : Form := formAB f { mod := 1, sat := true }
/-- IADD (R192). -/
def execIadd (f : F3) (s : State) : Out :=
  vec32 (formArith f) f s fun e l => fitInt f.sat f.signed 32 (e.ai f l + e.bi f l)
/-- ISUB (R192). -/
def execIsub (f : F3) (s : State) : Out :=
  vec32 (formArith f) f s fun e l => fitInt f.sat f.signed 32 (e.ai f l - e.bi f l)
/-- IMUL (R192). -/
def execImul (f : F3) (s : State) : Out :=
  vec32 (formArith f) f s fun e l => fitInt f.sat f.signed 32 (e.ai f l * e.bi f l)
/-- IMULH, IMIN, IMAX, BFE: S alone. -/
def formS (f : F3) : Form := formAB f { mod := 1 }
/-- IMULH (R192). -/
def execImulh (f : F3) (s : State) : Out :=
  vec32 (formS f) f s fun e l => wrapNat 32 ((e.ai f l * e.bi f l) / (2 ^ 32 : Nat))
/-- IMAD and ISAD. -/
def formMad (f : F3) : Form := formABC f { mod := 1, sat := true }
/-- IMAD (R192). -/
def execImad (f : F3) (s : State) : Out :=
  vec32 (formMad f) f s fun e l => fitInt f.sat f.signed 32 (e.ai f l * e.bi f l + e.ci f l)
/-- IADDI (R192). -/
def execIaddi (f : FI) (s : State) : Out :=
  vecI (formDAI f) f s fun e l => (e.src constInt f.a l + f.imm.toNat) % 2 ^ 32
/-- IMIN (R192). -/
def execImin (f : F3) (s : State) : Out :=
  vec32 (formS f) f s fun e l => if e.ai f l ≤ e.bi f l then e.a f l else e.b f l
/-- IMAX (R192). -/
def execImax (f : F3) (s : State) : Out :=
  vec32 (formS f) f s fun e l => if e.ai f l ≤ e.bi f l then e.b f l else e.a f l
/-- IABS and INEG. -/
def formSat1 (f : F3) : Form := formA f { sat := true }
/-- IABS (R192). -/
def execIabs (f : F3) (s : State) : Out :=
  vec32 (formSat1 f) f s fun e l => fitInt f.sat true 32 (sx 32 (e.a f l)).natAbs
/-- INEG (R192). -/
def execIneg (f : F3) (s : State) : Out :=
  vec32 (formSat1 f) f s fun e l => fitInt f.sat true 32 (-(sx 32 (e.a f l)))
/-- ISAD (R192). -/
def execIsad (f : F3) (s : State) : Out :=
  vec32 (formMad f) f s fun e l => fitInt f.sat false 32 ((e.ai f l - e.bi f l).natAbs + (e.c f l : Int))

/-- IADDC and ISUBB: C holds the carry predicates. -/
def formCarry (f : F3) : Form :=
  let c := f.c.toNat
  { formAB f { craw := true } with
    rsv := f.clear { d := true, a := true, b := true, craw := true } && !bitAt c 7 && !bitAt c 3
    rd := pReg (bits c 6 4), wr := pReg (bits c 2 0) }
/-- The carry in of a lane. -/
def Env.carryIn (e : Env) (f : F3) (l : Nat) : Nat :=
  let n := bits f.c.toNat 6 4
  if n = 7 then 0 else bn (e.rp n l)
/-- IADDC (R193). -/
def execIaddc (f : F3) (s : State) : Out :=
  issue (formCarry f) f.pred f.marked none s fun e => e.short fun l =>
    let x := e.a f l + e.b f l + e.carryIn f l
    { regs := e.put f.d 0 l (x % 2 ^ 32) ++ putP (bits f.c.toNat 2 0) l (decide (2 ^ 32 ≤ x)) }
/-- ISUBB (R193). -/
def execIsubb (f : F3) (s : State) : Out :=
  issue (formCarry f) f.pred f.marked none s fun e => e.short fun l =>
    let x : Int := (e.a f l : Int) - e.b f l - e.carryIn f l
    { regs := e.put f.d 0 l (wrapNat 32 x) ++ putP (bits f.c.toNat 2 0) l (decide (x < 0)) }

/-- IMADW. -/
def formImadw (f : F3) : Form :=
  { rsv := f.clear { d := true, a := true, b := true, c := true, mod := 1 },
    ops := [dst 0 f.d 2, src 1 f.a, src 2 f.b, src 3 f.c 2] }
/-- IMADW (R194). -/
def execImadw (f : F3) (s : State) : Out :=
  vec64 (formImadw f) f s fun e l => wrapNat 64 (e.ai f l * e.bi f l + (e.src64 f.c l : Int))

/-- IDP4 and IDP2. -/
def formIdp (f : F3) : Form := formABC f { mod := 3, sat := true }
/-- R195: the accumulated dot product of `n` elements of `w` bits. -/
def dotN (ua ub : Bool) (w n a b : Nat) : Int :=
  (List.range n).foldl (fun x i => x + extInt (!ua) w (a / 2 ^ (w * i)) * extInt (!ub) w (b / 2 ^ (w * i))) 0
/-- IDP4 (R195). -/
def execIdp4 (f : F3) (s : State) : Out :=
  vec32 (formIdp f) f s fun e l =>
    fitInt f.sat true 32 (sx 32 (e.c f l) + dotN (f.mod.getLsbD 0) (f.mod.getLsbD 1) 8 4 (e.a f l) (e.b f l))
/-- IDP2 (R195). -/
def execIdp2 (f : F3) (s : State) : Out :=
  vec32 (formIdp f) f s fun e l =>
    fitInt f.sat true 32 (sx 32 (e.c f l) + dotN (f.mod.getLsbD 0) (f.mod.getLsbD 1) 16 2 (e.a f l) (e.b f l))

/-! ## Shifts and rotates (R196) -/

/-- A shifted left by `n` in `w` bits; 0 from the width on. -/
def shlN (w a n : Nat) : Nat := if w ≤ n then 0 else a * 2 ^ n % 2 ^ w
/-- A shifted right by `n`, unsigned. -/
def shrN (w a n : Nat) : Nat := if w ≤ n then 0 else a / 2 ^ n
/-- A shifted right by `n`, signed. -/
def sarN (w a n : Nat) : Nat := wrapNat w (sx w a / ((2 ^ (min n w) : Nat) : Int))

/-- SHL, SHR, SAR. -/
def formShift (f : F3) : Form := formAB f {}
/-- SHL (R196). -/
def execShl (f : F3) (s : State) : Out := vec32 (formShift f) f s fun e l => shlN 32 (e.a f l) (e.b f l)
/-- SHR (R196). -/
def execShr (f : F3) (s : State) : Out := vec32 (formShift f) f s fun e l => shrN 32 (e.a f l) (e.b f l)
/-- SAR (R196). -/
def execSar (f : F3) (s : State) : Out := vec32 (formShift f) f s fun e l => sarN 32 (e.a f l) (e.b f l)
/-- FSH. -/
def formFsh (f : F3) : Form := formABC f { mod := 1 }
/-- FSH (R196). -/
def execFsh (f : F3) (s : State) : Out := vec32 (formFsh f) f s fun e l =>
  let x := e.b f l * 2 ^ 32 + e.a f l
  let m := min (e.c f l) 32
  if f.mod.getLsbD 0 then x * 2 ^ m / 2 ^ 32 % 2 ^ 32 else x / 2 ^ m % 2 ^ 32
/-- ROT (R196). -/
def execRot (f : F3) (s : State) : Out := vec32 (formS f) f s fun e l =>
  let n := e.b f l % 32
  let k := if f.mod.getLsbD 0 then (32 - n) % 32 else n
  (e.a f l * 2 ^ k + e.a f l / 2 ^ (32 - k)) % 2 ^ 32
/-- SHW. -/
def formShw (f : F3) : Form :=
  { rsv := f.clear { d := true, a := true, b := true, mod := 3 }, mods := f.mod.toNat % 4 != 3,
    ops := [dst 0 f.d 2, src 1 f.a 2, src 2 f.b] }
/-- SHW (R196). -/
def execShw (f : F3) (s : State) : Out := vec64 (formShw f) f s fun e l =>
  match f.mod.toNat % 4 with
  | 0 => shlN 64 (e.src64 f.a l) (e.b f l)
  | 1 => shrN 64 (e.src64 f.a l) (e.b f l)
  | _ => sarN 64 (e.src64 f.a l) (e.b f l)

/-! ## Logic and bit fields (R197 to R199) -/

/-- R197: bit i of the result is bit k of the table, k built from the three source bits. -/
def lop3 (lut a b c : Nat) : Nat :=
  (List.range 32).foldl (fun x i => x + bn (bitAt lut (bn (bitAt a i) + 2 * bn (bitAt b i) + 4 * bn (bitAt c i))) * 2 ^ i) 0
/-- LOP3. -/
def formLop3 (f : F3) : Form := formABC f { fmt := true, rnd := 7, sat := true }
/-- LOP3 (R197). -/
def execLop3 (f : F3) (s : State) : Out :=
  vec32 (formLop3 f) f s fun e l => lop3 f.ext (e.a f l) (e.b f l) (e.c f l)
/-- ANDI (R197). -/
def execAndi (f : FI) (s : State) : Out := vecI (formDAI f) f s fun e l => Nat.land (e.src constInt f.a l) f.imm.toNat
/-- ORI (R197). -/
def execOri (f : FI) (s : State) : Out := vecI (formDAI f) f s fun e l => Nat.lor (e.src constInt f.a l) f.imm.toNat
/-- XORI (R197). -/
def execXori (f : FI) (s : State) : Out := vecI (formDAI f) f s fun e l => Nat.xor (e.src constInt f.a l) f.imm.toNat

/-- R198: the position of a bit field. -/
def bfPos (b : Nat) : Nat := min (b % 256) 32
/-- R198: the length of a bit field. -/
def bfLen (b : Nat) : Nat := min (b / 256 % 256) (32 - bfPos b)
/-- BFE (R198). -/
def execBfe (f : F3) (s : State) : Out := vec32 (formS f) f s fun e l =>
  let pos := bfPos (e.b f l)
  let len := bfLen (e.b f l)
  if len = 0 then 0 else wrapNat 32 (extInt f.signed len (e.a f l / 2 ^ pos))
/-- BFI. -/
def formBfi (f : F3) : Form := formABC f {}
/-- BFI (R198). -/
def execBfi (f : F3) (s : State) : Out := vec32 (formBfi f) f s fun e l =>
  let pos := bfPos (e.b f l)
  let len := bfLen (e.b f l)
  let c := e.c f l
  c - bits c (pos + len - 1) pos % 2 ^ len * 2 ^ pos + e.a f l % 2 ^ len * 2 ^ pos
/-- One source. -/
def formUn (f : F3) : Form := formA f {}
/-- The number of 1 bits among the `n` low bits. -/
def popN : Nat → Nat → Nat
  | 0, _ => 0
  | n + 1, x => x % 2 + popN n (x / 2)
/-- POPC (R198). -/
def execPopc (f : F3) (s : State) : Out := vec32 (formUn f) f s fun e l => popN 32 (e.a f l)
/-- CLZ (R198). -/
def execClz (f : F3) (s : State) : Out :=
  vec32 (formUn f) f s fun e l => if e.a f l = 0 then 32 else 31 - Nat.log2 (e.a f l)
/-- Trailing zero bits of the `n` low bits. -/
def ctzN : Nat → Nat → Nat
  | 0, _ => 0
  | n + 1, x => if x % 2 = 1 then 0 else 1 + ctzN n (x / 2)
/-- CTZ (R198). -/
def execCtz (f : F3) (s : State) : Out := vec32 (formUn f) f s fun e l => ctzN 32 (e.a f l)
/-- The `n` low bits reversed. -/
def revN : Nat → Nat → Nat
  | 0, _ => 0
  | n + 1, x => x % 2 * 2 ^ n + revN n (x / 2)
/-- BREV (R198). -/
def execBrev (f : F3) (s : State) : Out := vec32 (formUn f) f s fun e l => revN 32 (e.a f l)

/-- R199: byte k of the permuted word. -/
def prmtByte (a b sel : Nat) : Nat :=
  let x := (a + b * 2 ^ 32) / 2 ^ (8 * (sel % 8)) % 256
  match sel / 8 % 4 with
  | 0 => x
  | 1 => 0
  | 2 => if 128 ≤ x then 255 else 0
  | _ => 255
/-- PRMT (R199). -/
def execPrmt (f : F3) (s : State) : Out := vec32 (formBfi f) f s fun e l =>
  let c := e.c f l
  (List.range 4).foldl (fun x k => x + prmtByte (e.a f l) (e.b f l) (c / 2 ^ (8 * k) % 256) * 2 ^ (8 * k)) 0

/-! ## Compares and predicates (R200 to R202) -/

/-- R200: the relation of a condition code 0 to 5. -/
def icond (c : Nat) (a b : Int) : Bool :=
  match c with
  | 0 => decide (a = b)
  | 1 => decide (a ≠ b)
  | 2 => decide (a < b)
  | 3 => decide (a ≤ b)
  | 4 => decide (b < a)
  | _ => decide (b ≤ a)

/-- R200: combines a comparison with a predicate: 0 AND, 1 OR, 2 XOR. -/
def combine (k : Nat) (r q : Bool) : Bool :=
  match k with
  | 0 => r && q
  | 1 => r || q
  | _ => r != q

/-- The C field of a compare: [7:6] reserved, combine, negate, predicate. -/
def cmpField (c : BitVec 8) : Bool := bits c.toNat 7 6 == 0

/-- R200: the combined result of a lane, given the comparison. -/
def Env.combined (e : Env) (c : BitVec 8) (l : Nat) (r : Bool) : Bool :=
  combine (bits c.toNat 5 4) r (e.rp (bits c.toNat 2 0) l != bitAt c.toNat 3)

/-- R200: what a compare writes in a lane. -/
def Env.cmpOut (e : Env) (f : F3) (l : Nat) (r : Bool) (fl : Flags) : LaneOut :=
  { regs := e.put f.d 0 l (if r then 0xFFFFFFFF else 0) ++ putP (f.mod.toNat % 8) l r, flags := fl }

/-- ISET. -/
def formIset (f : F3) : Form :=
  let n := if f.mod.getLsbD 3 then 2 else 1
  { rsv := f.clear { d := true, a := true, b := true, craw := true, fmt := true, rnd := 4, mod := 15 } && cmpField f.c
    mods := decide (f.fmt.toNat ≤ 5) && bits f.c.toNat 5 4 != 3
    ops := [dst 0 f.d, src 1 f.a n, src 2 f.b n]
    rd := pReg (bits f.c.toNat 2 0), wr := pReg (f.mod.toNat % 8) }
/-- ISET (R200). -/
def execIset (f : F3) (s : State) : Out :=
  issue (formIset f) f.pred f.marked none s fun e => e.short fun l =>
    let sg := !f.rnd.getLsbD 2
    let r := if f.mod.getLsbD 3 then icond f.fmt.toNat (extInt sg 64 (e.src64 f.a l)) (extInt sg 64 (e.src64 f.b l))
             else icond f.fmt.toNat (extInt sg 32 (e.a f l)) (extInt sg 32 (e.b f l))
    e.cmpOut f l (e.combined f.c l r) 0

/-- ISETI: D holds COND in [7:4] and S in [3]. -/
def formIseti (f : FI) : Form :=
  { rsv := bits f.d.toNat 2 0 == 0 && !f.mod.getLsbD 3
    mods := decide (bits f.d.toNat 7 4 ≤ 5) && f.mod.toNat % 8 != 7
    ops := [src 1 f.a], wr := pReg (f.mod.toNat % 8) }
/-- ISETI (R201). -/
def execIseti (f : FI) (s : State) : Out :=
  issue (formIseti f) f.pred [] none s fun e => e.short fun l =>
    let sg := !bitAt f.d.toNat 3
    { regs := putP (f.mod.toNat % 8) l (icond (bits f.d.toNat 7 4) (extInt sg 32 (e.src constInt f.a l)) (extInt sg 32 f.imm.toNat)) }

/-- PLOP. -/
def formPlop (f : F3) : Form :=
  { rsv := f.clear { araw := true, braw := true, craw := true, fmt := true, rnd := 7, sat := true, mod := 7 } &&
      bits f.a.toNat 7 4 == 0 && bits f.b.toNat 7 4 == 0 && bits f.c.toNat 7 4 == 0
    mods := f.mod.toNat % 8 != 7
    rd := pReg (f.a.toNat % 8) ++ pReg (f.b.toNat % 8) ++ pReg (f.c.toNat % 8), wr := pReg (f.mod.toNat % 8) }
/-- A predicate as coded in a raw field: [3] negates. -/
def Env.coded (e : Env) (x : BitVec 8) (l : Nat) : Bool := e.rp (x.toNat % 8) l != bitAt x.toNat 3
/-- PLOP (R202). -/
def execPlop (f : F3) (s : State) : Out :=
  issue (formPlop f) f.pred [] none s fun e => e.short fun l =>
    { regs := putP (f.mod.toNat % 8) l
        (bitAt f.ext (bn (e.coded f.a l) + 2 * bn (e.coded f.b l) + 4 * bn (e.coded f.c l))) }

/-! ## Votes and lane exchange (R203, R204) -/

/-- VOTE. -/
def formVote (f : F3) : Form :=
  let m := f.mod.toNat % 8
  let wr := bitAt f.b.toNat 3
  { rsv := f.clear { d := true, araw := true, braw := true, mod := 7 } && bits f.a.toNat 7 4 == 0 && bits f.b.toNat 7 4 == 0
    mods := decide (m ≤ 5) && !(wr && (m == 3 || bits f.b.toNat 2 0 == 7))
    ops := [dst 0 f.d]
    rd := pReg (f.a.toNat % 8), wr := if wr then pReg (bits f.b.toNat 2 0) else [] }
/-- VOTE (R203). -/
def execVote (f : F3) (s : State) : Out :=
  issue (formVote f) f.pred [] none s fun e =>
    let m := f.mod.toNat % 8
    let yes := (lanesOf e.L).filter (e.coded f.a)
    let all := (lanesOf e.L).length
    let r := match m with
      | 0 => yes.length == all
      | 1 => !yes.isEmpty
      | _ => yes.length == all || yes.isEmpty
    let first := yes.headD 32
    let val := match m with
      | 3 => yes.foldl (fun x l => x + 2 ^ l) 0
      | 4 => yes.length
      | 5 => first
      | _ => if r then 0xFFFFFFFF else 0
    let pv (l : Nat) : Bool := match m with
      | 4 => !yes.isEmpty
      | 5 => l == first
      | _ => r
    e.short fun l =>
      { regs := e.put f.d 0 l val ++ (if bitAt f.b.toNat 3 then putP (bits f.b.toNat 2 0) l (pv l) else []) }

/-- A register read in another lane. -/
def Env.inLane (e : Env) (spec : BitVec 8) (l : Nat) : Nat := e.src constInt spec l

/-- SHFL: EXT[11:8] holds the predicate field. -/
def formShfl (f : F3) : Form :=
  let x := f.ext % 16
  { rsv := f.clear { d := true, a := true, b := true, c := true, rnd := 7, sat := true, mod := 3 }
    mods := !(bitAt x 3 && x % 8 == 7)
    ops := [dst 0 f.d, src 1 f.a 1 kVWonly, src 2 f.b, src 3 f.c]
    wr := if bitAt x 3 then pReg (x % 8) else [] }
/-- R204: the source lane of a lane, and whether it wraps, in segments of `w` lanes. -/
def shflSource (mode w l b : Nat) : Nat × Bool :=
  let base := l - l % w
  let i := l % w
  match mode with
  | 0 => (base + b, false)
  | 1 => (base + (i + w - b) % w, decide (i < b))
  | 2 => (base + (i + b) % w, decide (w ≤ i + b))
  | _ => (base + Nat.xor i b, false)
/-- SHFL (R204). -/
def execShfl (f : F3) (s : State) : Out :=
  issue (formShfl f) f.pred f.marked none s fun e =>
    let w := 2 ^ min (e.c f e.l0) 5
    let x := f.ext % 16
    e.short fun l =>
      let (sl, wrap) := shflSource (f.mod.toNat % 4) w l (e.b f l % w)
      { regs := e.put f.d 0 l (e.inLane f.a sl) ++ (if bitAt x 3 then putP (x % 8) l wrap else []) }
/-- BCAST. -/
def formBcast (f : F3) : Form :=
  let first := f.mod.getLsbD 0
  { rsv := f.clear { d := true, a := true, b := !first, mod := 1 }
    ops := [dst 0 f.d, src 1 f.a 1 kVWonly] ++ (if first then [] else [src 2 f.b]) }
/-- BCAST (R204). -/
def execBcast (f : F3) (s : State) : Out :=
  issue (formBcast f) f.pred f.marked none s fun e =>
    let sl := if f.mod.getLsbD 0 then e.l0 else e.b f e.l0 % 32
    e.short fun l => { regs := e.put f.d 0 l (e.inLane f.a sl) }

/-! ## Address and wide arithmetic (R205, R206) -/

/-- LEA. -/
def formLea (f : F3) : Form :=
  { rsv := f.clear { d := true, a := true, b := true, mod := 15 }, ops := [dst 0 f.d 2, src 1 f.a 2, src 2 f.b] }
/-- LEA (R205). -/
def execLea (f : F3) (s : State) : Out := vec64 (formLea f) f s fun e l =>
  wrapNat 64 ((e.src64 f.a l : Int) + extInt (!f.mod.getLsbD 3) 32 (e.b f l) * ((2 ^ (f.mod.toNat % 8) : Nat) : Int))
/-- IADDW. -/
def formIaddw (f : F3) : Form :=
  { rsv := f.clear { d := true, a := true, b := true, mod := 3, sat := true },
    ops := [dst 0 f.d 2, src 1 f.a 2, src 2 f.b 2] }
/-- IADDW (R205). -/
def execIaddw (f : F3) (s : State) : Out := vec64 (formIaddw f) f s fun e l =>
  let sg := !f.mod.getLsbD 1
  let a := extInt sg 64 (e.src64 f.a l)
  let b := extInt sg 64 (e.src64 f.b l)
  fitInt f.sat sg 64 (if f.mod.getLsbD 0 then a - b else a + b)

/-- CVTI. -/
def formCvti (f : F3) : Form :=
  let m := f.mod.toNat
  { rsv := f.clear { d := true, a := true, mod := 15, sat := decide (6 ≤ m) }
    mods := m != 15
    ops := [dst 0 f.d (if m = 4 || m = 5 then 2 else 1), src 1 f.a (if 12 ≤ m && m ≤ 14 then 2 else 1)] }
/-- R206: source signedness and width, target signedness and width of the narrowing operations 6 to 14. -/
def cvtiKind (m : Nat) : Bool × Nat × Bool × Nat :=
  match m with
  | 6 => (true, 32, true, 8)
  | 7 => (true, 32, false, 8)
  | 8 => (false, 32, false, 8)
  | 9 => (true, 32, true, 16)
  | 10 => (true, 32, false, 16)
  | 11 => (false, 32, false, 16)
  | 12 => (true, 64, true, 32)
  | 13 => (true, 64, false, 32)
  | _ => (false, 64, false, 32)
/-- R206: the converted value, of 64 bits for operations 4 and 5. -/
def cvti (m : Nat) (sat : Bool) (a : Nat) : Nat :=
  match m with
  | 0 => wrapNat 32 (sx 8 a)
  | 1 => a % 2 ^ 8
  | 2 => wrapNat 32 (sx 16 a)
  | 3 => a % 2 ^ 16
  | 4 => wrapNat 64 (sx 32 a)
  | 5 => a % 2 ^ 32
  | _ =>
    let (ss, sw, ts, tw) := cvtiKind m
    wrapNat 32 (extInt ts tw (fitInt sat ts tw (extInt ss sw a)))
/-- CVTI (R206). -/
def execCvti (f : F3) (s : State) : Out :=
  issue (formCvti f) f.pred f.marked none s fun e => e.short fun l =>
    let m := f.mod.toNat
    let a := if 12 ≤ m then e.src64 f.a l else e.a f l
    { regs := if m = 4 || m = 5 then e.put64 f.d l (cvti m f.sat a) else e.put f.d 0 l (cvti m f.sat a) }

end Sys2Proof.Machine
end

