-- ==== Sys2Proof/Machine/Teams.lean ====
section
/-! DEFINITION. Waves and teams coming into being: wave start (R131, R148), quadrant choice (R156), the fit of an entry
(R134), capacities of a core (R151), and starting a team on a core (R149). -/
namespace Sys2Proof.Machine

/-- A fresh key for a wave, team, gang, grid, flow graph, record, job or command. -/
def State.newKey (s : State) : Nat × State := (s.key, { s with key := s.key + 1 })

/-- R32, R170: a lane at wave start; its `v` registers are undefined (R131). -/
def Lane.fresh (pc : DWord) (alloc base : Nat) : Lane :=
  { pc := pc, depth := 0, meet := 0, exited := false, block := .none, xblock := .none, p := 0, i0 := 0, i1 := 0, i2 := 0, i3 := 0,
    lsr := 0x100, srcnt := 0, v := (List.range alloc).map fun r => Config.freeWord (base + r), xlpc := 0, held := none, lid := -1 }

/-- R428: the trap registers of a wave that has taken no trap. -/
def XRegs.zero : XRegs := { xpc := 0, cause := 0, addr := 0, lanes := 0, info := 0, resume := 0, s := 0 }
/-- R429: the debug registers at wave start. -/
def DbgRegs.zero : DbgRegs :=
  { ctl := 0, brkl := 0, brkh := 0, watch := [0, 0, 0, 0], stepPending := false, stopPending := false, brkSkip := false }

/-- R131: a wave at its start. -/
def Wave.fresh (team rank core quad ctxn alloc : Nat) (pc : DWord) (base : Nat) : Wave :=
  { team := team, rank := rank, core := core, quad := quad, ctxNo := 0, ctxn := ctxn, st := .ready, trapped := false, alloc := alloc,
    lanes := (List.range 32).map fun l => Lane.fresh pc alloc (base + l * alloc)
    w := List.replicate 32 0, jm := List.replicate 8 0, wk := List.replicate 16 0, sh := List.replicate 16 0, staged := [],
    lastSet := 0, turn := 64, due := false, waited := 0, clause := none, perf := [], flights := [], parks := [], faultWait := [],
    pend := [], pendNxt := 0, x := .zero, dbg := .zero, sleep := none, kidsWait := none, xsleep := none, xkids := none, mfreads := 0, berth := none,
    mxStop := none, priv := [] }

/-! ## Room on a core (R134, R151, R156) -/

/-- The registers per lane of an entry (R125). -/
def Entry.alloc (e : Entry) : Nat := 8 * e.regblk
/-- The pages of a team's local store. -/
def Team.npages (t : Team) : Nat := t.loc.size / 8192

/-- R134: the teams of an entry that one core holds. -/
def Entry.perCore (e : Entry) : Nat :=
  let q := min 16 (131072 / (e.alloc * 128))
  min (4 * q / e.waves) (if e.loc = 0 then 64 else 64 / (e.loc / 8192))
/-- R134: whether a launch of the entry passes the fit test. -/
def Entry.fits (e : Entry) : Bool := e.perCore != 0 && decide (e.gang ≤ 4 * e.perCore)

/-- The resident waves of a quadrant that have not retired. -/
def State.quadWaves (s : State) (core q : Nat) : List Wave :=
  (s.waves.map (·.2)).filter fun w => w.core == core && w.quad == q && w.st != .retired && (s.teamOf w).onCore

/-- The register bytes a wave occupies. -/
def Wave.bytes (w : Wave) : Nat := w.alloc * 128

/-- A core's quadrants: register bytes and wave contexts in use. -/
def State.quads (s : State) (core : Nat) : List (Nat × Nat) :=
  (List.range 4).map fun q =>
    let ws := s.quadWaves core q
    (ws.foldl (fun a w => a + w.bytes) 0, ws.length)

/-- R156: the quadrant for a wave of `bytes`: room for it, the most free bytes, the lowest number among equals. -/
def pickQuad (bytes : Nat) (qs : List (Nat × Nat)) : Option Nat :=
  leastBy (fun q => (qs.getD q (0, 0)).1) ((List.range 4).filter fun q =>
    let x := qs.getD q (0, 0)
    decide (x.1 + bytes ≤ 131072) && decide (x.2 < 16))

/-- R156: quadrants for `n` waves of `bytes`, one after the other. -/
def pickQuads (bytes : Nat) : Nat → List (Nat × Nat) → Option (List Nat)
  | 0, _ => some []
  | n + 1, qs => match pickQuad bytes qs with
    | none => none
    | some q => (pickQuads bytes n (updAt qs q fun x => (x.1 + bytes, x.2 + 1))).map (q :: ·)

/-- The teams of a core in a state. -/
def State.teamsOn (s : State) (core : Nat) (f : Team → Bool) : List Nat := mkeys s.teams fun t => t.core == core && f t
/-- Whether a team is admitted. -/
def Team.admitted (t : Team) : Bool := t.st == .resident || t.st == .parked || t.st == .draining

/-- R395: what a berth team takes of a core, as an entry. -/
def Flow.berthEntry (f : Flow) : Entry := { (default : Entry) with waves := f.bwaves, regblk := f.breg, loc := f.blocal }
/-- The entry a team runs: of its grid; a berth team's footprint. -/
def State.entryOf (s : State) (t : Team) : Entry := if t.berthTeam then (s.flow t.grid).berthEntry else (s.gridOf t).entry

/-- R136: the entries a reserving gang holds resources for on a core. -/
def State.reservedOn (s : State) (core : Nat) : List Entry :=
  s.gangs.flatMap fun g =>
    if g.2.st == .reserving then (g.2.reserved.filter fun r => r.2 == core).map fun _ => ((mget s.grids g.2.grid).getD default).entry
    else []
/-- R156: quadrants with `n` further waves of `bytes` placed, as far as there is room. -/
def placeWaves (bytes : Nat) : Nat → List (Nat × Nat) → List (Nat × Nat)
  | 0, qs => qs
  | n + 1, qs => match pickQuad bytes qs with
    | none => qs
    | some q => placeWaves bytes n (updAt qs q fun x => (x.1 + bytes, x.2 + 1))
/-- A core's quadrants in use or reserved. -/
def State.quadsLeft (s : State) (core : Nat) : List (Nat × Nat) :=
  (s.reservedOn core).foldl (fun qs e => placeWaves (e.alloc * 128) e.waves qs) (s.quads core)
/-- Pages reserved on a core. -/
def State.pagesReserved (s : State) (core : Nat) : Nat := (s.reservedOn core).foldl (fun a e => a + e.loc / 8192) 0

/-- R135, R360: frames that teams resident on a core hold, and pages that others keep pinned there. -/
def State.framesUsed (s : State) (core : Nat) : Nat :=
  s.teams.foldl (fun a t => if t.2.core = core then a + (if t.2.onCore then t.2.npages else t.2.loc.pages.length) else a) 0
/-- R135, R283: the LOCAL frames of a core. -/
def State.framesOf (s : State) (core : Nat) : Nat := 8 * s.octantsIn core 1

/-- R135: room for a resident team of `n` waves of `alloc` registers and `p` pages: the quadrants of its waves. -/
def State.roomFor (s : State) (core n alloc p : Nat) : Option (List Nat) :=
  if s.framesUsed core + s.pagesReserved core + p ≤ s.framesOf core then pickQuads (alloc * 128) n (s.quadsLeft core) else none

/-- The waves, register bytes and pages of a team admitted to a core: its waves once started, else those of its entry. -/
def State.footprint (s : State) (t : Nat) (tm : Team) : Nat × Nat × Nat :=
  let ws := (s.waves.filter fun w => w.2.team == t && w.2.st != .retired).map (·.2)
  let e := s.entryOf tm
  if ws.isEmpty then (e.waves, e.waves * e.alloc * 128, tm.npages)
  else (ws.length, ws.foldl (fun a w => a + w.bytes) 0, tm.npages)

/-- Sums of the footprints of a core's teams that satisfy `f`. -/
def State.load (s : State) (core : Nat) (f : Team → Bool) : Nat × Nat × Nat :=
  s.teams.foldl (fun a t => if t.2.core = core && f t.2 then
      let x := s.footprint t.1 t.2
      (a.1 + x.1, a.2.1 + x.2.1, a.2.2 + x.2.2)
    else a) (0, 0, 0)

/-- R154: the lowest free wave context of a quadrant. -/
def State.freeContext (s : State) (core q : Nat) : Nat :=
  ((List.range 16).find? fun n => !(s.quadWaves core q).any fun w => w.ctxNo == n).getD 16

/-- R154: the waves of a team take wave contexts of their quadrants. -/
def State.takeContexts (s : State) (t : Nat) : State :=
  let ws := s.liveWaves t
  let s := ws.foldl (fun s w => s.updWave w fun x => { x with ctxNo := 16 }) s
  ws.foldl (fun s w => s.updWave w fun x => { x with ctxNo := s.freeContext x.core x.quad }) s

/-- R151, R11: the parking area in the slice beneath a core, none once the slice is retired: register bytes and pages. -/
def State.parkArea (s : State) (core : Nat) : Nat × Nat := if s.dev.retiredSlices.contains core then (0, 0) else (0x180000, 192)
/-- R151: what a core has parked leaves room for `b` register bytes and `pg` pages more. -/
def State.parkRoom (s : State) (core b pg : Nat) : Bool :=
  let p := s.load core fun t => t.st == .parked
  decide (p.2.1 + b ≤ (s.parkArea core).1) && decide (p.2.2 + pg ≤ (s.parkArea core).2)

/-- R151: the admission capacity of a core has room; `parked` says that the team would start parked. -/
def State.capacity (s : State) (core : Nat) (e : Entry) (parked : Bool) : Bool :=
  let r := (s.reservedOn core).foldl (fun (x : Nat × Nat × Nat) e =>
    (x.1 + e.waves, x.2.1 + e.waves * e.alloc * 128, x.2.2 + e.loc / 8192)) (0, 0, 0)
  let a := s.load core Team.admitted
  let a := (a.1 + r.1, a.2.1 + r.2.1, a.2.2 + r.2.2)
  let b := e.waves * e.alloc * 128
  let pg := e.loc / 8192
  let area := s.parkArea core
  decide (a.1 + e.waves ≤ 64 + area.2) && decide (a.2.1 + b ≤ 0x80000 + area.1) && decide (a.2.2 + pg ≤ 64 + area.2) && (!parked || s.parkRoom core b pg)

/-! ## Starting teams (R148, R149) -/

/-- Adds a wave to a team on a quadrant. -/
def State.addWave (s : State) (team rank core quad ctxn alloc : Nat) (pc : DWord) (f : Wave → Wave) : Nat × State :=
  let (b, s) := s.fresh (32 * alloc)
  let (k, s) := s.newKey
  (k, { s with waves := mset s.waves k (f { Wave.fresh team rank core quad ctxn alloc pc b with ctxNo := s.freeContext core quad }) })

/-- R131: what `w0` to `w3` hold in a wave of a grid. -/
def Grid.w0 (g : Grid) : List Word :=
  [BitVec.ofNat 32 g.args, BitVec.ofNat 32 (g.args / 2 ^ 32), BitVec.ofNat 32 g.teams, BitVec.ofNat 32 g.depth] ++
    List.replicate 28 0

/-- R128: the address of an entry's first clause. -/
def State.entryPc (s : State) (g : Grid) : DWord :=
  match (s.ctx g.ctx).objs.find? fun o => o.addr == g.code with
  | some o => BitVec.ofNat 64 (o.addr + o.textOff + g.entry.clause)
  | none => 0

/-- R148: the waves of a team on their quadrants, READY (rank by rank). -/
def startWaves (t : Nat) (tm : Team) (g : Grid) : List Nat → Nat → State → State
  | [], _, s => s
  | q :: qs, rank, s =>
    let (k, s) := s.addWave t rank tm.core q g.ctx g.entry.alloc (s.entryPc g) fun w => { w with w := g.w0 }
    startWaves t tm g qs (rank + 1) (s.boundary k)

/-- R149: a team becomes RESIDENT for the first time, on the quadrants found for its waves. -/
def State.makeResident (s : State) (t : Nat) (quads : List Nat) : State :=
  let s := s.updTeam t fun x => { x with st := .resident, since := s.now }
  let tm := (mget s.teams t).getD default
  startWaves t tm (s.gridOf tm) quads 0 s

/-- R160: the lowest free private slot of a grid. -/
def State.freeSlot (s : State) (g : Nat) (gr : Grid) : Option Nat :=
  if gr.privSize = 0 then none
  else (List.range gr.privTeams).find? fun p => !s.teams.any fun t => !t.2.berthTeam && t.2.grid == g && t.2.priv == some p

/-- R149: a team of a grid bound to a core at its admission. -/
def Team.make (g index core part : Nat) (st : TeamState) (size : Nat) (priv gang : Option Nat) (rank time : Nat) : Team :=
  { grid := g, berthTeam := false, index := index, core := core, part := part, st := st, loc := .fresh size, sub := 0,
    bars := List.replicate 16 { arrived := 0, gen := 0 }, slots := [], childSeq := 0, kids := [], priv := priv,
    since := time, runnableAt := 0, gang := gang, gangRank := rank, preempted := false, estimate := 0, estDen := 1 }

/-- R442: the energy of one team of a grid in microjoules, as a fraction. -/
def State.estimateOf (s : State) (g : Grid) : Nat × Nat :=
  if g.estimate = 0 then ((mget (s.ctx g.ctx).avgEst (256 * g.code + g.entryIx)).getD 0, 1) else (1000 * g.estimate, max 1 g.teams)

/-- R133: the grid's state after one more team has been admitted. -/
def Grid.admitOne (g : Grid) : Grid :=
  { g with nextTeam := g.nextTeam + 1, st := if g.nextTeam + 1 < g.teams then .admitting else .running }

/-- R149: admits the next team of a grid to a core; `quads` are given when it starts resident. -/
def State.admitTeam (s : State) (g core : Nat) (quads : Option (List Nat)) (gang : Option Nat) (rank : Nat) : Nat × State :=
  let gr := (mget s.grids g).getD default
  let (k, s) := s.newKey
  let tm := Team.make g gr.nextTeam core (s.ctx gr.ctx).desc.part (if quads.isSome then .resident else .parked) gr.entry.loc
    (s.freeSlot g gr) gang rank s.now
  let est := s.estimateOf gr
  let s := { s with teams := mset s.teams k { tm with estimate := est.1, estDen := est.2, runnableAt := k }
                    grids := mupd s.grids g Grid.admitOne }
  match quads with
  | some qs => (k, s.makeResident k qs)
  | none => (k, s)

end Sys2Proof.Machine
end

