-- ==== Sys2Proof/Machine/Control.lean ====
section
/-! DEFINITION. Control flow and wave instructions, opcodes 0x00 to 0x0F (R138 to R140, R161 to R187): for each its form and
its meaning. -/
namespace Sys2Proof.Machine

/-- Changes the clause an instruction belongs to. -/
def Env.upClause (e : Env) (g : Clause → Clause) : Env :=
  let cl := g e.cl
  let wv := { e.wv with clause := some cl }
  { e with cl := cl, wv := wv, s := e.s.updWave e.w fun _ => wv }

/-- Changes the wave of an instruction. -/
def Env.upWave (e : Env) (g : Wave → Wave) : Env :=
  let wv := g e.wv
  { e with wv := wv, s := e.s.updWave e.w fun _ => wv }

/-- The instruction has no effect beyond its place in the clause. -/
def Env.idle (e : Env) : State := e.done e.s

/-! ## NOP and branches (R181 to R184) -/

/-- NOP, EXIT, YIELD, WAITKIDS: no field but the predicate. -/
def formBare (f : F3) : Form := { rsv := f.clear {} }
/-- NOP (R181). -/
def execNop (f : F3) (s : State) : Out := issue (formBare f) f.pred [] none s Env.idle

/-- R61: the target of an FB instruction. -/
def Env.target (e : Env) (off : Word) : DWord := e.cl.hdr + off.signExtend 64 * 8

/-- R183: the lanes of L transfer: their new PCs, and the change of their call depth. -/
def Env.transfer (e : Env) (t : Nat → DWord) (dep : BitVec 6) : Env :=
  e.upClause fun c => { c with
    pcs := (lanesOf e.L).map fun l => (l, t l)
    depths := (lanesOf e.L).map fun l => (l, (e.wv.lane l).depth + dep) }

/-- The lanes of L whose call depth is `n`. -/
def Env.atDepth (e : Env) (n : Nat) : LaneMask := e.L &&& maskOf fun l => (e.wv.lane l).depth.toNat == n

/-- A register target of a lane. -/
def Env.regTarget (e : Env) (a : BitVec 8) (l : Nat) : DWord := BitVec.ofNat 64 (e.src64 a l)

/-- R183: a call: the link pair receives the fall-through header. -/
def Env.callTo (e : Env) (d : BitVec 8) (t : Nat → DWord) : State :=
  let bad := e.atDepth 63
  if bad != 0 then e.fault 0x2A bad
  else
    let nxt := e.cl.nxt.toNat
    (e.transfer t 1).short fun l => { regs := e.put64 d l nxt }

/-- BRA. -/
def formBra (f : FB) : Form := { rsv := f.mod == 0 && f.d == 0 && f.a == 0 }
/-- BRA (R183). -/
def execBra (f : FB) (s : State) : Out :=
  issue (formBra f) f.pred [] none s fun e => (e.transfer (fun _ => e.target f.off) 0).idle
/-- BRX and RET. -/
def formBrx (f : F3) : Form := { rsv := f.clear { a := true }, ops := [src 1 f.a 2 kVW] }
/-- BRX (R183). -/
def execBrx (f : F3) (s : State) : Out :=
  issue (formBrx f) f.pred f.marked none s fun e => (e.transfer (e.regTarget f.a) 0).idle
/-- CALL. -/
def formCall (f : FB) : Form := { rsv := f.mod == 0 && f.a == 0, ops := [dst 0 f.d 2 kV] }
/-- CALL (R183). -/
def execCall (f : FB) (s : State) : Out :=
  issue (formCall f) f.pred [] none s fun e => e.callTo f.d fun _ => e.target f.off
/-- CALLX. -/
def formCallx (f : F3) : Form :=
  { rsv := f.clear { d := true, a := true }, ops := [dst 0 f.d 2 kV, src 1 f.a 2 kVW] }
/-- CALLX (R183): the target is read before the link is written. -/
def execCallx (f : F3) (s : State) : Out :=
  issue (formCallx f) f.pred f.marked none s fun e => e.callTo f.d (e.regTarget f.a)
/-- RET (R183). -/
def execRet (f : F3) (s : State) : Out :=
  issue (formBrx f) f.pred f.marked none s fun e =>
    let bad := e.atDepth 0
    if bad != 0 then e.fault 0x2B bad else (e.transfer (e.regTarget f.a) 63).idle

/-! ## Meeting points (R185 to R187) -/

/-- Packs a meeting point (R170). -/
def meetPack (depth : BitVec 6) (t : DWord) (jm : Nat) : DWord :=
  BitVec.ofNat 64 (depth.toNat * 2 ^ 58 + 2 ^ 57 + bits t.toNat 56 3 * 8 + jm % 8)

/-- MEET. -/
def formMeet (f : FB) : Form :=
  { rsv := !f.mod.getLsbD 3 && f.d == 0 && f.a == 0, wr := [.jm (f.mod.toNat % 8)] }
/-- MEET (R185). -/
def execMeet (f : FB) (s : State) : Out :=
  issue (formMeet f) f.pred [] none s fun e =>
    let j := f.mod.toNat % 8
    let t := e.target f.off
    if e.L = 0 then e.idle
    else (e.upWave fun wv => { wv.updLanes e.L (fun _ ln => { ln with meet := meetPack ln.depth t j }) with jm := wv.jm.set j e.L }).idle

/-- MVMEET. -/
def formMvmeet (f : F3) : Form :=
  let get := !f.mod.getLsbD 0
  { rsv := F3.clear { f with markA := false } { d := get, a := !get, mod := 1 }, ops := if get then [dst 0 f.d 2 kV] else [src 1 f.a 2 kVW] }
/-- MVMEET (R186). -/
def execMvmeet (f : F3) (s : State) : Out :=
  issue (formMvmeet f) f.pred f.marked none s fun e =>
    if f.mod.getLsbD 0 then
      (e.upWave fun wv => wv.updLanes e.L fun l ln => { ln with meet := e.regTarget f.a l }).idle
    else e.short fun l => { regs := e.put64 f.d l (e.wv.lane l).meet.toNat }

/-- JMOP: R187 excepts the marks from the reserved fields. -/
def formJmop (f : F3) : Form :=
  let m := f.mod.toNat % 8
  let a := 1 ≤ m && m ≤ 3
  let j := f.b.toNat
  { rsv := F3.clear { f with markA := false, markB := false, markC := false } { d := m = 0, a := a, braw := true, mod := 7 }
    mods := decide (m ≤ 4)
    ops := (if m = 0 then [dst 0 f.d 1 kVW] else []) ++ (if a then [src 1 f.a] else [])
    bad := if 8 ≤ j then [2] else []
    rd := if m = 0 || m = 2 || m = 3 then [.jm j] else []
    wr := if m = 0 then [] else [.jm j] }
/-- R187: the new join mask. -/
def jmop (m : Nat) (old x L : LaneMask) : LaneMask :=
  match m with
  | 1 => x
  | 2 => old ||| x
  | 3 => old &&& ~~~ x
  | _ => L
/-- JMOP (R187). -/
def execJmop (f : F3) (s : State) : Out :=
  issue (formJmop f) f.pred f.marked none s fun e =>
    let m := f.mod.toNat % 8
    let j := f.b.toNat
    if e.L = 0 then e.idle
    else if m = 0 then e.short fun l => { regs := e.put f.d 0 l (e.wv.jm.getD j 0).toNat }
    else
      let x := BitVec.ofNat 32 (e.src constInt f.a e.l0)
      (e.upWave fun wv => { wv with jm := updAt wv.jm j fun old => jmop m old x e.L }).idle

/-! ## EXIT, YIELD, SLEEP, REGION (R161 to R165) -/

/-- Whether the wave is a berth wave. -/
def Env.berth (e : Env) : Bool := e.wv.berth.isSome
/-- EXIT (R161). -/
def execExit (f : F3) (s : State) : Out :=
  issue (formBare f) f.pred [] none s fun e =>
    if e.berth && e.L != 0 then e.fault 0x2F e.L
    else (e.upWave fun wv => wv.updLanes e.L fun _ ln => { ln with exited := true }).idle

/-- R162: the turn rotates and the waiting time becomes zero. -/
def Env.yielding (e : Env) : Env :=
  if e.L = 0 then e else (e.upClause fun c => { c with rotate := true }).upWave fun wv => { wv with waited := 0 }
/-- YIELD (R162). -/
def execYield (f : F3) (s : State) : Out := issue (formBare f) f.pred [] none s fun e => e.yielding.idle
/-- SLEEP. -/
def formSleep (f : FI) : Form := { rsv := f.mod == 0 && f.d == 0 && f.a == 0 }
/-- SLEEP (R163, R164). -/
def execSleep (f : FI) (s : State) : Out :=
  issue (formSleep f) f.pred [] none s fun e =>
    if f.imm = 0 then e.yielding.idle
    else if e.L = 0 then e.idle
    else (e.upWave fun wv => { wv with sleep := some (e.s.tick.now + f.imm.toNat) }).idle

/-- The registers a REGION names. -/
def regionRegs (f : FI) : List Nat := ((List.range 32).filter fun i => f.imm.getLsbD i).map (f.a.toNat + ·)
/-- REGION: A must be a `v` specifier, the mask hold 1 to 16 bits, and each register lie within the allocation (R165). -/
def formRegion (f : FI) : Form :=
  let rs := regionRegs f
  { rsv := f.mod == 0 && f.d == 0, mods := always f.pred
    ops := rs.map fun r => { fld := 4, spec := if r < 0xC0 then r else 0xFF, n := 1, align := 1, k := kV, rd := false, wr := false }
    bad := (if 0xC0 ≤ f.a.toNat then [1] else []) ++ (if rs.isEmpty || decide (16 < rs.length) then [4] else []) }
/-- REGION (R165). -/
def execRegion (f : FI) (s : State) : Out :=
  issue (formRegion f) f.pred [] none s fun e => (e.upWave fun wv => { wv with staged := regionRegs f }).idle

/-! ## SPAWN (R166 to R168) -/

/-- SPAWN. -/
def formSpawn (f : F3) : Form :=
  let try_ := f.mod.getLsbD 3
  { rsv := f.clear { d := true, a := true, b := true, mod := if try_ then 15 else 8 }
    mods := !(try_ && f.mod.toNat % 8 == 7)
    ops := [dst 0 f.d 1 kVWZ, { src 1 f.a 8 kV with align := 1 }, src 2 f.b]
    wr := if try_ then pReg (f.mod.toNat % 8) else [] }

/-- R167: the rank and quadrant of a spawned wave, when there is room. -/
def State.spawnRoom (s : State) (w : Nat) : Option (Nat × Nat) :=
  let wv := s.wave w
  let ranks := (s.liveWaves wv.team).map fun k => (s.wave k).rank
  match (List.range 32).find? fun r => !ranks.contains r with
  | none => none
  | some r => (pickQuad wv.bytes (s.quadsLeft wv.core)).map fun q => (r, q)

/-- R167: the new wave; `vals` gives each lane of L its eight values and the offset B. -/
def State.spawnWave (s : State) (w r q : Nat) (vals : List (Nat × List Nat)) : State :=
  let wv := s.wave w
  let g := s.gridOf (s.teamOf wv)
  let base := match (s.ctx wv.ctxn).objs.find? fun o => o.addr == g.code with
    | some o => o.addr + o.textOff
    | none => 0
  let b := (vals.headD (0, [])).2.getD 8 0
  let (k, s) := s.addWave wv.team r wv.core q wv.ctxn wv.alloc (BitVec.ofNat 64 (base + b)) fun x =>
    { x with
      w := (wv.w.take 4) ++ List.replicate 28 0
      lanes := mapIx (fun l ln => match mget vals l with
        | some vs => { ln with v := ((vs.take 8).map (BitVec.ofNat 32)) ++ ln.v.drop 8 }
        | none => { ln with exited := true }) 0 x.lanes }
  s.boundary k

/-- R167: what a spawn delivers in a lane. -/
def spawnOut (f : F3) (e : Env) (ok : Bool) (r l : Nat) : List RegWrite :=
  e.put f.d 0 l (if ok then r else 0x10000000) ++ (if f.mod.getLsbD 3 then putP (f.mod.toNat % 8) l (!ok) else [])

/-- SPAWN (R167). Without room and TRY, it parks, holding the next clause (R50). -/
def execSpawn (f : F3) (s : State) : Out :=
  issueAfter (formSpawn f) f.pred f.marked none s fun e =>
    if e.L = 0 then e.idle
    else if e.berth then e.fault 0x2D e.L
    else
      let vals := (lanesOf e.L).map fun l =>
        (l, ((List.range 8).map fun j => (e.rv (f.a.toNat + j) l).toNat) ++ [e.src constInt f.b l])
      match e.s.spawnRoom e.w with
      | some (r, q) =>
        let s := (e.s.spawnWave e.w r q vals).updWave e.w fun _ => e.apply fun l => { regs := spawnOut f e true r l }
        e.done (e.settleOver (fun _ => (lanesOf e.L).flatMap fun l => spawnOut f e true r l) s)
      | none =>
        if f.mod.getLsbD 3 then e.short fun l => { regs := spawnOut f e false 0 l }
        else e.park (.spawn f) none true vals fun l => spawnOut f e true 0 l

/-! ## LAUNCH and WAITKIDS (R137 to R140) -/

/-- LAUNCH. -/
def formLaunch (f : F3) : Form :=
  { rsv := f.clear { d := true, a := true, b := true, c := true }
    ops := [dst 0 f.d 1 kVWZ, src 1 f.a 2 kVW, src 2 f.b 2 kVW, src 3 f.c] }

/-- R146: the team leader: the wave of rank 0 and its lowest lane that has not exited; a spawned wave that takes rank 0 after the first has
retired is wave 0 from then (log 166). -/
def State.leader (s : State) (t : Nat) : Option (Nat × Nat) :=
  match (s.liveWaves t).find? fun k => (s.wave k).rank == 0 with
  | none => none
  | some k => (lowest (s.wave k).live).map fun l => (k, l)

/-- R139: a child grid enqueued for decode. -/
def Grid.child (c team parent launch desc args len depth : Nat) : Grid :=
  { ctx := c, st := .submitted, origin := .child team, parent := some parent, launch := launch, desc := desc, args := args,
    arglen := len, depth := depth, code := 0, codeId := 0, entryIx := 0, entry := default, teams := 0, prio := 0, seed := 0,
    estimate := 0, privBase := 0, privTeams := 0, privSize := 0, nextTeam := 0, retiredTeams := 0, decoded := 0,
    mResult := false, childFault := false, since := 0 }

/-- R139: the unretired children of a context. -/
def State.childrenOf (s : State) (c : Nat) : Nat :=
  (s.grids.filter fun g => g.2.ctx == c && g.2.parent.isSome && g.2.st != .retired).length

/-- LAUNCH (R139). -/
def execLaunch (f : F3) (s : State) : Out :=
  issueAfter (formLaunch f) f.pred f.marked none s fun e =>
    if e.L = 0 then e.idle
    else if e.berth then e.fault 0x2D e.L
    else match e.s.leader e.wv.team with
      | none => e.fault 0x2E e.L
      | some (k, l) =>
        if k != e.w || !inMask e.L l then e.fault 0x2E e.L
        else
          let g := e.s.gridOf e.team
          if g.depth = 16 then e.short fun j => { regs := e.put f.d 0 j 0x10000000 }
          else if 65536 ≤ e.s.childrenOf e.wv.ctxn then e.short fun j => { regs := e.put f.d 0 j 0x20000000 }
          else
            let id := e.ctx.nextLaunch
            let (key, s) := e.s.newKey
            let s := s.updCtx e.wv.ctxn fun x => { x with nextLaunch := id + 1 }
            let s := s.updTeam e.wv.team fun t => { t with childSeq := t.childSeq + 1, kids := t.kids ++ [(t.childSeq + 1, key)] }
            let s := { s with grids := mset s.grids key (Grid.child e.wv.ctxn e.wv.team e.team.grid id
              (e.src64 f.a l) (e.src64 f.b l) (e.src constInt f.c l) (g.depth + 1)) }
            { e with s := s }.short fun j => { regs := e.put f.d 0 j (id % 2 ^ 28) }

/-- WAITKIDS (R140). -/
def execWaitkids (f : F3) (s : State) : Out :=
  issue (formBare f) f.pred [] none s fun e =>
    if e.L = 0 then e.idle
    else (e.upWave fun wv => { wv with kidsWait := some e.team.childSeq }).idle

end Sys2Proof.Machine
end

