-- ==== Sys2Proof/Machine/Special.lean ====
section
/-! DEFINITION. The special functions (R219 to R222) of one operand: exact cases and special operands as the tables give
them, correctly rounded reciprocals and roots, and for the others a value within the accuracy bound: the implementation's
own choice (`Config.sfuChoice`, log 8) where that choice keeps the bound, else the exact value rounded toward zero. -/
namespace Sys2Proof.Machine

/-- The fraction bits of the fixed-point values below. -/
def fxP : Nat := 120
/-- 1.0 in fixed point. -/
def fxOne : Nat := 2 ^ fxP
/-- ln 2 in fixed point. -/
def fxLn2 : Nat := 0xb17217f7d1cf79abc9e3b39803f2f6
/-- π in fixed point. -/
def fxPi : Nat := 0x3243f6a8885a308d313198a2e037073
/-- 1/ln 2 in fixed point. -/
def fxInvLn2 : Nat := 0x171547652b82fe1777d0ffda0d23a7d

/-- Terms k, k+1, … of a power series in `x` whose term k is the last one times x / (k·(k+1)…): the exponential series. -/
def expTerms (x : Nat) : Nat → Nat → Nat → Nat
  | 0, _, _ => 0
  | n + 1, k, t => t + expTerms x n (k + 1) (t * x / (fxOne * (k + 1)))

/-- 2^f for a fraction f below 1. -/
def exp2Frac (f : Nat) : Nat := expTerms (f * fxLn2 / fxOne) 40 0 fxOne

/-- 2^x for a fixed-point x. -/
def exp2Fx (x : Nat) : Nat := exp2Frac (x % fxOne) * 2 ^ (x / fxOne)

/-- z + z³/3 + z⁵/5 + …: the series of artanh. -/
def artanhTerms (z2 : Nat) : Nat → Nat → Nat → Nat
  | 0, _, _ => 0
  | n + 1, k, t => t / (2 * k + 1) + artanhTerms z2 n (k + 1) (t * z2 / fxOne)

/-- log₂ of a fixed-point number in [1, 2). -/
def log2Frac (m : Nat) : Nat :=
  let z := (m - fxOne) * fxOne / (m + fxOne)
  2 * artanhTerms (z * z / fxOne) 45 0 z * fxInvLn2 / fxOne

/-- The alternating series of sine (`k` odd) and cosine (`k` even) at x, from its term `t` of degree k. -/
def trigTerms (x2 : Nat) : Nat → Nat → Nat → Int
  | 0, _, _ => 0
  | n + 1, k, t => (t : Int) - trigTerms x2 n (k + 2) (t * x2 / (fxOne * ((k + 1) * (k + 2))))

/-- sin 2πf for a fraction f below 1. -/
def sinTurn (f : Nat) : Int :=
  let x := 2 * f * fxPi / fxOne
  trigTerms (x * x / fxOne) 40 1 x
/-- cos 2πf for a fraction f below 1. -/
def cosTurn (f : Nat) : Int :=
  let x := 2 * f * fxPi / fxOne
  trigTerms (x * x / fxOne) 40 0 fxOne

/-- The integer square root, bit by bit from bit n − 1. -/
def isqrtGo (x : Nat) : Nat → Nat → Nat
  | 0, r => r
  | n + 1, r => isqrtGo x n (if (r + 2 ^ n) * (r + 2 ^ n) ≤ x then r + 2 ^ n else r)
/-- The integer square root. -/
def isqrt (x : Nat) : Nat := isqrtGo x (Nat.log2 x / 2 + 1) 0

/-- m·2^e in fixed point, rounded down. -/
def toFxP (m : Nat) (e : Int) : Nat :=
  if 0 ≤ e + fxP then m * 2 ^ (e + fxP).toNat else m / 2 ^ (-(e + fxP)).toNat

/-! ## Results -/

/-- The magnitude bits of a pattern. -/
def FpFmt.mag (f : FpFmt) (x : Nat) : Nat := x % 2 ^ (f.eb + f.fb)

/-- R221: UF follows the delivered value of an inexact result. -/
def FpFmt.delivered (f : FpFmt) (r : Nat × Flags) : Nat × Flags :=
  let g := r.2 &&& (fNV ||| fDZ ||| fOF ||| fNX)
  (r.1, if g &&& fNX != 0 && decide (f.mag r.1 < 2 ^ f.fb) then g ||| fUF else g)

/-- The canonical NaN, invalid. -/
def FpFmt.invalid (f : FpFmt) : Nat × Flags := (f.nan, fNV)

/-- |x − y| ≤ b for dyadic values. -/
def nearBy (n : Bool) (m : Nat) (e : Int) (n' : Bool) (m' : Nat) (e' : Int) (b : Nat × Int) : Bool :=
  let q := min e (min e' b.2)
  decide ((scaleTo n m e q - scaleTo n' m' e' q).natAbs ≤ (scaleTo false b.1 b.2 q).natAbs)

/-- R220: two units in the last place of an FP32 value m·2^e. -/
def ulp2 (m : Nat) (e : Int) : Nat × Int := (2, max ((Nat.log2 m : Int) + e) (-126) - 23)

/-- R220, R222: an inexact FP32 result within one of the bounds, of magnitude at most `cap`. -/
def sfuPick (fn x : Nat) (neg : Bool) (m : Nat) (e : Int) (bs : List (Nat × Int)) (cap : Nat) : Nat × Flags :=
  let own := Config.sfuChoice fn x % 2 ^ 32
  let ok := match fp32.val own with
    | .fin n' m' e' => bs.any (nearBy n' m' e' neg m e) && decide (fp32.mag own ≤ cap)
    | _ => false
  fp32.delivered (if ok then own else (fp32.pack 2 false 0 (.fin neg m e)).1, fNX)

/-- Changes the sign of a result. -/
def negOut (neg : Bool) (r : Nat × Flags) : Nat × Flags := (if neg then Nat.xor r.1 (2 ^ 31) else r.1, r.2)

/-! ## Reciprocals and roots -/

/-- RCP and DRCP (R219 to R221): correctly rounded. -/
def sfuRcp (f : FpFmt) (mode : Mode) (sat : Bool) (x : Nat) : Nat × Flags :=
  match f.val x with
  | .nan s => (f.nan, if s then fNV else 0)
  | .inf neg => (f.signed neg 0, 0)
  | .fin neg m e =>
    if m = 0 then (f.infinity sat neg, fDZ)
    else
      let k := Nat.log2 m + 128
      let q := 2 ^ k / m
      f.delivered (f.round mode sat 0 neg (2 * q + bn (2 ^ k % m != 0)) (-(k : Int) - 1 - e))

/-- A positive finite value with an even exponent. -/
def evenExp (m : Nat) (e : Int) : Nat × Int := if e % 2 = 0 then (m, e) else (2 * m, e - 1)

/-- SQRT (R219 to R221): correctly rounded. -/
def sfuSqrt (mode : Mode) (x : Nat) : Nat × Flags :=
  match fp32.val x with
  | .nan s => (fp32.nan, if s then fNV else 0)
  | .inf neg => if neg then fp32.invalid else (fp32.inf, 0)
  | .fin neg m e =>
    if m = 0 then (fp32.signed neg 0, 0)
    else if neg then fp32.invalid
    else
      let (m, e) := evenExp m e
      let y := m * 2 ^ 80
      let s := isqrt y
      fp32.delivered (fp32.round mode false 0 false (2 * s + bn (s * s != y)) (e / 2 - 41))

/-- A power of two. -/
def isPow2 (m : Nat) : Bool := m == 2 ^ Nat.log2 m

/-- RSQ and DRSQ (R219 to R221): faithful, and exact for powers of four. -/
def sfuRsq (fn : Nat) (f : FpFmt) (sat : Bool) (x : Nat) : Nat × Flags :=
  match f.val x with
  | .nan s => (f.nan, if s then fNV else 0)
  | .inf neg => if neg then f.invalid else (0, 0)
  | .fin neg m e =>
    if m = 0 then (f.infinity sat neg, fDZ)
    else if neg then f.invalid
    else
      let lg : Int := (Nat.log2 m : Int) + e
      if isPow2 m && lg % 2 == 0 then (f.pack 1 sat 0 (.fin false 1 (-(lg / 2))))
      else
        let (m, e) := evenExp m e
        let k := Nat.log2 m / 2 + 80
        let a := (f.round 2 sat 0 false (isqrt (2 ^ (2 * k) / m)) (-(k : Int) - e / 2)).1
        f.delivered (if Config.sfuChoice fn x % 2 = 1 then a + 1 else a, fNX)

/-! ## Exponential, logarithm, sigmoid and circle functions -/

/-- EXP2 (R219 to R221); of a negative argument the value lies below the power of two above it, however small the argument. -/
def sfuExp2 (sat : Bool) (x : Nat) : Nat × Flags :=
  match fp32.val x with
  | .nan s => (fp32.nan, if s then fNV else 0)
  | .inf neg => if neg then (0, 0) else (fp32.infinity sat false, 0)
  | .fin neg m e =>
    if m = 0 then (0x3F800000, 0)
    else if !neg && decide (7 ≤ (Nat.log2 m : Int) + e) then (fp32.infinity sat false, fOF ||| fNX)
    else
      let whole : Option Nat := if 0 ≤ e then some (m * 2 ^ e.toNat)
        else if m % 2 ^ (-e).toNat = 0 then some (m / 2 ^ (-e).toNat) else none
      match whole with
      | some n => if neg && decide (149 < n) then tiny else (fp32.pack 1 sat 0 (.fin false 1 (if neg then -(n : Int) else n)))
      | none =>
        let a := max (bn neg) (min (toFxP m e) (200 * fxOne))
        let n : Int := if neg then -((a / fxOne : Nat) : Int) - bn (a % fxOne != 0) else ((a / fxOne : Nat) : Int)
        let fr := if neg then (fxOne - a % fxOne) % fxOne else a % fxOne
        let y := if neg then min (exp2Frac fr) (2 * fxOne - 1) else exp2Frac fr
        sfuPick 0x63 x false y (n - fxP) [ulp2 y (n - fxP)] fp32.max
where
  /-- 2^A for an integer A below −149. -/
  tiny : Nat × Flags := sfuPick 0x63 x false 1 (-200) [(2, -149)] fp32.max

/-- LOG2 (R219 to R221). -/
def sfuLog2 (x : Nat) : Nat × Flags :=
  match fp32.val x with
  | .nan s => (fp32.nan, if s then fNV else 0)
  | .inf neg => if neg then fp32.invalid else (fp32.inf, 0)
  | .fin neg m e =>
    if m = 0 then (fp32.signed true fp32.inf, fDZ)
    else if neg then fp32.invalid
    else
      let lg : Int := (Nat.log2 m : Int) + e
      if isPow2 m then fp32.pack 1 false 0 (ofIntFv lg)
      else
        let y : Int := lg * fxOne + log2Frac (m * 2 ^ (fxP - Nat.log2 m))
        let b := if lg = -1 || lg = 0 then (1, -22) else ulp2 y.natAbs (-(fxP : Int))
        sfuPick 0x64 x (decide (y < 0)) y.natAbs (-(fxP : Int)) [b] fp32.max

/-- R220: four times a value, when it is an integer. -/
def quarters (m : Nat) (e : Int) : Option Nat :=
  if -2 ≤ e then some (m * 2 ^ (e + 2).toNat)
  else if m % 2 ^ (-e - 2).toNat = 0 then some (m / 2 ^ (-e - 2).toNat) else none

/-- SINCY and COSCY (R219 to R221), computed on the magnitude. -/
def sfuCircle (cosine : Bool) (x : Nat) : Nat × Flags :=
  match fp32.val x with
  | .nan s => (fp32.nan, if s then fNV else 0)
  | .inf _ => fp32.invalid
  | .fin neg m e =>
    match (quarters m e).map (· % 4) with
    | some 0 => (if cosine then 0x3F800000 else fp32.signed neg 0, 0)
    | some 2 => (if cosine then 0xBF800000 else fp32.signed neg 0, 0)
    | some 1 => (if cosine then 0 else fp32.signed neg 0x3F800000, 0)
    | some _ => (if cosine then 0 else fp32.signed (!neg) 0x3F800000, 0)
    | none =>
      let fr := toFxP m e % fxOne
      let y := if cosine then cosTurn fr else sinTurn fr
      let r := sfuPick (if cosine then 0x66 else 0x65) (fp32.mag x) (decide (y < 0)) y.natAbs (-(fxP : Int)) [(1, -22)] 0x3F800000
      if cosine then r else negOut neg r

/-- TANH (R219 to R221), computed on the magnitude. -/
def sfuTanh (x : Nat) (fn : Nat := 0x67) : Nat × Flags :=
  match fp32.val x with
  | .nan s => (fp32.nan, if s then fNV else 0)
  | .inf neg => (fp32.signed neg 0x3F800000, 0)
  | .fin neg m e =>
    if fp32.mag x < 0x39800000 then (x, 0)
    else if 0x41200000 ≤ fp32.mag x then (fp32.signed neg 0x3F800000, 0)
    else
      let p := exp2Fx (2 * toFxP m e * fxInvLn2 / fxOne)
      let y := (p - fxOne) * fxOne / (p + fxOne)
      negOut neg (sfuPick fn (fp32.mag x) false y (-(fxP : Int)) [ulp2 y (-(fxP : Int)), (1, -24)] fp32.max)

/-- SIGM (R219 to R221); of a negative argument the value lies below one half, however small the argument. -/
def sfuSigm (x : Nat) (fn : Nat := 0x68) : Nat × Flags :=
  match fp32.val x with
  | .nan s => (fp32.nan, if s then fNV else 0)
  | .inf neg => (if neg then 0 else 0x3F800000, 0)
  | .fin neg m e =>
    if m = 0 then (0x3F000000, 0)
    else if !neg && decide (0x41900000 ≤ x) then (0x3F800000, 0)
    else
      let p := exp2Fx (min (toFxP m e) (200 * fxOne) * fxInvLn2 / fxOne)
      let y := if neg then min (fxOne * 2 ^ 400 / (p + fxOne)) (2 ^ 399 - 1) else p * 2 ^ 400 / (p + fxOne)
      sfuPick fn x false y (-400) [ulp2 y (-400), (1, -24)] fp32.max

/-- R219: a special function by opcode, of an FP32 or FP64 pattern. -/
def sfu (op : Nat) (mode : Mode) (sat : Bool) (x : Nat) : Nat × Flags :=
  match op with
  | 0x60 => sfuRcp fp32 mode sat x
  | 0x61 => sfuRsq 0x61 fp32 sat x
  | 0x62 => sfuSqrt mode x
  | 0x63 => sfuExp2 sat x
  | 0x64 => sfuLog2 x
  | 0x65 => sfuCircle false x
  | 0x66 => sfuCircle true x
  | 0x67 => sfuTanh x
  | 0x68 => sfuSigm x
  | 0x69 => sfuRcp fp64 mode sat x
  | _ => sfuRsq 0x6A fp64 sat x

end Sys2Proof.Machine
end

