-- ==== Sys2Proof/Machine/Float.lean ====
section
/-! DEFINITION. Floating-point, packed-half, double, special-function and conversion instructions, opcodes 0x40 to 0x6F
(R208 to R227): for each its form and its meaning. -/
namespace Sys2Proof.Machine

/-- R59: absolute value, then negation, of a pattern of `w` bits. -/
def signMod (w : Nat) (neg abs : Bool) (x : Nat) : Nat :=
  let x := if abs then x % 2 ^ (w - 1) else x
  if neg then Nat.xor x (2 ^ (w - 1)) else x

/-- R30: the rounding mode of a lane for an RND code. -/
def Env.mode (e : Env) (sr : Bool) (rnd l : Nat) : Mode := pickMode sr rnd (e.wv.lane l).drm

/-- What one element computes: mode, SAT, SR word and the operands' patterns. -/
abbrev Elem := Mode → Bool → Nat → Nat → Nat → Nat → Nat × Flags

/-- R210: A + B. -/
def elAdd (f : FpFmt) : Elem := fun m s w a b _ => f.finish m s w (Fv.add m (f.val a) (f.val b))
/-- R210: A × B. -/
def elMul (f : FpFmt) : Elem := fun m s w a b _ => f.finish m s w (Fv.mul (f.val a) (f.val b))
/-- R210: A × B + C, one rounding. -/
def elFma (f : FpFmt) : Elem := fun m s w a b c => f.finish m s w (Fv.fma m (f.val a) (f.val b) (f.val c))
/-- R213: A rounded to an integral value. -/
def elRnd (f : FpFmt) : Elem := fun m _ w a _ _ => f.integral m w a
/-- R211: minimum or maximum. -/
def elMinMax (f : FpFmt) (big nanRule : Bool) : Elem := fun _ _ _ a b _ => f.minmax big nanRule a b
/-- R211: min(max(A, B), C). -/
def elClamp (f : FpFmt) (nanRule : Bool) : Elem := fun _ _ _ a b c =>
  let (x, g) := f.minmax true nanRule a b
  let (y, h) := f.minmax false nanRule x c
  (y, g ||| h)

/-! ## Element-wise instructions -/

/-- R64, R209: an inline constant in both halves. -/
def constHalf (f : FpFmt) (sp : Nat) : Nat := constFmt f sp * 65537

/-- The form of an element-wise instruction of `n` sources: `p` registers an operand, the accepted FMT values when the field
is meaningful, whether it rounds and saturates, and its MOD mask. -/
def formFp (f : F3) (n p : Nat) (fmts : Option (List Nat)) (rnd sat : Bool) (md : Nat) : Form :=
  { rsv := f.clear { d := true, a := true, b := decide (2 ≤ n), c := decide (3 ≤ n), fmt := fmts.isSome,
                     rnd := if rnd then 7 else 0, sat := sat, sa := true, sb := decide (2 ≤ n), mod := md }
    mods := (match fmts with
      | some l => l.contains f.fmt.toNat
      | none => true) && !(rnd && f.rnd == 7)
    ops := [dst 0 f.d p, src 1 f.a p] ++ (if 2 ≤ n then [src 2 f.b p] else []) ++ (if 3 ≤ n then [src 3 f.c p] else []) }

/-- The words an instruction of `n` elements draws (R209). -/
def drawsOf (m : Mode) (n : Nat) : Nat := if m = 6 then n else 0

/-- R208, R209: an FP32 element-wise instruction. -/
def fp1 (fm : Form) (f : F3) (rnd : Bool) (el : Elem) (s : State) : Out :=
  issue fm f.pred f.marked none s fun e => e.short fun l =>
    let m := if rnd then e.mode true f.rnd.toNat l else 1
    let a := signMod 32 f.negA f.absA (e.src constF32 f.a l)
    let b := signMod 32 f.negB f.absB (e.src constF32 f.b l)
    let (x, g) := el m f.sat (e.srWord l 0) a b (e.src constF32 f.c l)
    { regs := e.put f.d 0 l x, flags := g, draws := drawsOf m 1 }

/-- R216: an FP64 element-wise instruction. -/
def fp1d (fm : Form) (f : F3) (rnd : Bool) (el : Elem) (s : State) : Out :=
  issue fm f.pred f.marked none s fun e => e.short fun l =>
    let m := if rnd then e.mode true f.rnd.toNat l else 1
    let a := signMod 64 f.negA f.absA (e.srcD f.a l)
    let b := signMod 64 f.negB f.absB (e.srcD f.b l)
    let (x, g) := el m f.sat (e.srWord l 0) a b (e.srcD f.c l)
    { regs := e.put64 f.d l x, flags := g, draws := drawsOf m 1 }

/-- R217: a packed-half element-wise instruction. -/
def fp2 (fm : Form) (f : F3) (rnd : Bool) (el : FpFmt → Elem) (s : State) : Out :=
  issue fm f.pred f.marked none s fun e => e.short fun l =>
    let ft := fmtOf f.fmt.toNat
    let m := if rnd then e.mode true f.rnd.toNat l else 1
    let a := e.src (constHalf ft) f.a l
    let b := e.src (constHalf ft) f.b l
    let c := e.src (constHalf ft) f.c l
    let one (i : Nat) : Nat × Flags :=
      el ft m f.sat (e.srWord l i) (signMod 16 f.negA f.absA (a / 65536 ^ i % 65536))
        (signMod 16 f.negB f.absB (b / 65536 ^ i % 65536)) (c / 65536 ^ i % 65536)
    { regs := e.put f.d 0 l ((one 0).1 + (one 1).1 * 65536), flags := (one 0).2 ||| (one 1).2, draws := drawsOf m 2 }

/-! ## FP32 (R210 to R213) -/

/-- FADD, FMUL. -/
def formF2 (f : F3) : Form := formFp f 2 1 (some [0]) true true 0
/-- FADD (R210). -/
def execFadd (f : F3) (s : State) : Out := fp1 (formF2 f) f true (elAdd fp32) s
/-- FMUL (R210). -/
def execFmul (f : F3) (s : State) : Out := fp1 (formF2 f) f true (elMul fp32) s
/-- FFMA. -/
def formFfma (f : F3) : Form := formFp f 3 1 (some [0]) true true 0
/-- FFMA (R210). -/
def execFfma (f : F3) (s : State) : Out := fp1 (formFfma f) f true (elFma fp32) s
/-- FMIN, FMAX. -/
def formFmm (f : F3) : Form := formFp f 2 1 (some [0]) false false 1
/-- FMIN (R211). -/
def execFmin (f : F3) (s : State) : Out := fp1 (formFmm f) f false (elMinMax fp32 false (f.mod.getLsbD 0)) s
/-- FMAX (R211). -/
def execFmax (f : F3) (s : State) : Out := fp1 (formFmm f) f false (elMinMax fp32 true (f.mod.getLsbD 0)) s
/-- FCLMP. -/
def formFclmp (f : F3) : Form := formFp f 3 1 (some [0]) false false 1
/-- FCLMP (R211). -/
def execFclmp (f : F3) (s : State) : Out := fp1 (formFclmp f) f false (elClamp fp32 (f.mod.getLsbD 0)) s
/-- FRND. -/
def formFrnd (f : F3) : Form := formFp f 1 1 (some [0]) true false 0
/-- FRND (R213). -/
def execFrnd (f : F3) (s : State) : Out := fp1 (formFrnd f) f true (elRnd fp32) s

/-- FADDI, FMULI. -/
def formFi (f : FI) : Form := { mods := f.mod.toNat % 8 != 7, ops := [dst 0 f.d, src 1 f.a] }
/-- R210: an FP32 instruction with an immediate. -/
def fpI (f : FI) (el : Elem) (s : State) : Out :=
  issue (formFi f) f.pred [] none s fun e => e.short fun l =>
    let m := e.mode true (f.mod.toNat % 8) l
    let (x, g) := el m (f.mod.getLsbD 3) (e.srWord l 0) (e.src constF32 f.a l) f.imm.toNat 0
    { regs := e.put f.d 0 l x, flags := g, draws := drawsOf m 1 }
/-- FADDI (R210). -/
def execFaddi (f : FI) (s : State) : Out := fpI f (elAdd fp32) s
/-- FMULI (R210). -/
def execFmuli (f : FI) (s : State) : Out := fpI f (elMul fp32) s

/-! ## Compares (R212, R216, R218) -/

/-- FSET and DSET; `md` is the MOD mask and `p` the registers of a source. -/
def formFset (f : F3) (p md : Nat) : Form :=
  { rsv := f.clear { d := true, a := true, b := true, craw := true, fmt := true, sa := true, sb := true, mod := md } && cmpField f.c
    mods := decide (f.fmt.toNat ≤ 13) && bits f.c.toNat 5 4 != 3
    ops := [dst 0 f.d, src 1 f.a p, src 2 f.b p]
    rd := pReg (bits f.c.toNat 2 0), wr := pReg (f.mod.toNat % 8) }
/-- The comparison of two patterns, and NV for a signalling NaN. -/
def fcompare (ft : FpFmt) (cond a b : Nat) : Bool × Flags :=
  (fcond cond (Fv.cmp (ft.val a) (ft.val b)), snans [ft.val a, ft.val b])
/-- FSET (R212). -/
def execFset (f : F3) (s : State) : Out :=
  issue (formFset f 1 7) f.pred f.marked none s fun e => e.short fun l =>
    let (r, g) := fcompare fp32 f.fmt.toNat (signMod 32 f.negA f.absA (e.src constF32 f.a l))
      (signMod 32 f.negB f.absB (e.src constF32 f.b l))
    e.cmpOut f l (e.combined f.c l r) g
/-- DSET (R216). -/
def execDset (f : F3) (s : State) : Out :=
  issue (formFset f 2 7) f.pred f.marked none s fun e => e.short fun l =>
    let (r, g) := fcompare fp64 f.fmt.toNat (signMod 64 f.negA f.absA (e.srcD f.a l)) (signMod 64 f.negB f.absB (e.srcD f.b l))
    e.cmpOut f l (e.combined f.c l r) g
/-- HSET2 (R218): MOD[3] chooses the element format. -/
def execHset2 (f : F3) (s : State) : Out :=
  issue (formFset f 1 15) f.pred f.marked none s fun e => e.short fun l =>
    let ft := if f.mod.getLsbD 3 then bf16 else fp16
    let a := e.src (constHalf ft) f.a l
    let b := e.src (constHalf ft) f.b l
    let one (i : Nat) : Bool × Flags := fcompare ft f.fmt.toNat (signMod 16 f.negA f.absA (a / 65536 ^ i % 65536))
      (signMod 16 f.negB f.absB (b / 65536 ^ i % 65536))
    let g0 := e.combined f.c l (one 0).1
    let g1 := e.combined f.c l (one 1).1
    { regs := e.put f.d 0 l ((if g1 then 0xFFFF0000 else 0) + (if g0 then 0xFFFF else 0)) ++ putP (f.mod.toNat % 8) l (g0 && g1)
      flags := (one 0).2 ||| (one 1).2 }

/-! ## Class, scale, decomposition (R214, R215) -/

/-- R214: the class mask of an FP32 pattern. -/
def fclass (x : Nat) : Nat :=
  match fp32.val x with
  | .nan s => if s then 1 else 2
  | .inf neg => if neg then 4 else 512
  | .fin neg m _ =>
    if m = 0 then (if neg then 32 else 64)
    else if m < 2 ^ 23 then (if neg then 16 else 128)
    else (if neg then 8 else 256)
/-- FCLASS. -/
def formFclass (f : F3) : Form :=
  { rsv := f.clear { d := true, a := true, b := true, fmt := true, sa := true, mod := 7 }, mods := f.fmt == 0
    ops := [dst 0 f.d, src 1 f.a, src 2 f.b], wr := pReg (f.mod.toNat % 8) }
/-- FCLASS (R214); an inline constant in B is read as FP32 (R209, log 127). -/
def execFclass (f : F3) (s : State) : Out :=
  issue (formFclass f) f.pred f.marked none s fun e => e.short fun l =>
    let c := fclass (signMod 32 f.negA f.absA (e.src constF32 f.a l))
    { regs := e.put f.d 0 l c ++ putP (f.mod.toNat % 8) l (Nat.land c (e.src constF32 f.b l % 1024) != 0) }

/-- FSCALE. -/
def formFscale (f : F3) : Form :=
  { rsv := f.clear { d := true, a := true, b := true, fmt := true, rnd := 7, sat := true, sa := true }
    mods := f.fmt == 0 && f.rnd != 7, ops := [dst 0 f.d, src 1 f.a, src 2 f.b] }
/-- R215: A × 2^B. A scale beyond ±4096 rounds as ±4096 does. -/
def fscale (m : Mode) (sat : Bool) (w x : Nat) (b : Int) : Nat × Flags :=
  match fp32.val x with
  | .fin neg k e => if k = 0 then (x, 0) else fp32.round m sat w neg k (e + clampInt (-4096) 4096 b)
  | v => fp32.pack m sat w v
/-- FSCALE (R215); an inline constant in B is read as FP32 (R209, log 127). -/
def execFscale (f : F3) (s : State) : Out :=
  issue (formFscale f) f.pred f.marked none s fun e => e.short fun l =>
    let m := e.mode true f.rnd.toNat l
    let (x, g) := fscale m f.sat (e.srWord l 0) (signMod 32 f.negA f.absA (e.src constF32 f.a l)) (sx 32 (e.src constF32 f.b l))
    { regs := e.put f.d 0 l x, flags := g, draws := drawsOf m 1 }

/-- FEXPT, FMANT. -/
def formDecomp (f : F3) : Form := formFp f 1 1 (some [0]) false false 0
/-- R215: floor(log₂|A|). -/
def elExpt : Elem := fun _ _ _ a _ _ =>
  match fp32.val a with
  | .fin _ m e => if m = 0 then (0x80000000, fDZ) else (wrapNat 32 ((Nat.log2 m : Int) + e), 0)
  | _ => (0x7FFFFFFF, fNV)
/-- FEXPT (R215). -/
def execFexpt (f : F3) (s : State) : Out := fp1 (formDecomp f) f false elExpt s
/-- R215: A scaled into [1, 2). -/
def elMant : Elem := fun _ _ _ a _ _ =>
  match fp32.val a with
  | .fin neg m _ => if m = 0 then (a, 0) else fp32.round 1 false 0 neg m (-(Nat.log2 m : Int))
  | .inf _ => (a, 0)
  | .nan s => (fp32.nan, if s then fNV else 0)
/-- FMANT (R215). -/
def execFmant (f : F3) (s : State) : Out := fp1 (formDecomp f) f false elMant s

/-! ## FP64 (R216) -/

/-- DADD, DMUL. -/
def formD2 (f : F3) : Form := formFp f 2 2 none true true 0
/-- DADD (R216). -/
def execDadd (f : F3) (s : State) : Out := fp1d (formD2 f) f true (elAdd fp64) s
/-- DMUL (R216). -/
def execDmul (f : F3) (s : State) : Out := fp1d (formD2 f) f true (elMul fp64) s
/-- DFMA. -/
def formDfma (f : F3) : Form := formFp f 3 2 none true true 0
/-- DFMA (R216). -/
def execDfma (f : F3) (s : State) : Out := fp1d (formDfma f) f true (elFma fp64) s
/-- DMIN, DMAX. -/
def formDmm (f : F3) : Form := formFp f 2 2 none false false 1
/-- DMIN (R216). -/
def execDmin (f : F3) (s : State) : Out := fp1d (formDmm f) f false (elMinMax fp64 false (f.mod.getLsbD 0)) s
/-- DMAX (R216). -/
def execDmax (f : F3) (s : State) : Out := fp1d (formDmm f) f false (elMinMax fp64 true (f.mod.getLsbD 0)) s
/-- DRND. -/
def formDrnd (f : F3) : Form := formFp f 1 2 none true false 0
/-- DRND (R216). -/
def execDrnd (f : F3) (s : State) : Out := fp1d (formDrnd f) f true (elRnd fp64) s

/-! ## Packed halves (R217) -/

/-- HADD2, HMUL2. -/
def formH2 (f : F3) : Form := formFp f 2 1 (some [1, 2]) true true 0
/-- HADD2 (R217). -/
def execHadd2 (f : F3) (s : State) : Out := fp2 (formH2 f) f true elAdd s
/-- HMUL2 (R217). -/
def execHmul2 (f : F3) (s : State) : Out := fp2 (formH2 f) f true elMul s
/-- HFMA2. -/
def formHfma2 (f : F3) : Form := formFp f 3 1 (some [1, 2]) true true 0
/-- HFMA2 (R217). -/
def execHfma2 (f : F3) (s : State) : Out := fp2 (formHfma2 f) f true elFma s
/-- HMIN2, HMAX2. -/
def formHmm (f : F3) : Form := formFp f 2 1 (some [1, 2]) false false 1
/-- HMIN2 (R217). -/
def execHmin2 (f : F3) (s : State) : Out := fp2 (formHmm f) f false (fun ft => elMinMax ft false (f.mod.getLsbD 0)) s
/-- HMAX2 (R217). -/
def execHmax2 (f : F3) (s : State) : Out := fp2 (formHmm f) f false (fun ft => elMinMax ft true (f.mod.getLsbD 0)) s

/-! ## Special functions (R219 to R222) -/

/-- The form of a special function: whether it rounds and saturates, and whether it is a double. -/
def formSfu (f : F3) (rnd sat dbl : Bool) : Form :=
  let p := if dbl then 2 else 1
  { rsv := f.clear { d := true, a := true, fmt := !dbl, rnd := if rnd then 7 else 0, sat := sat, sa := true, mod := 15 }
    mods := (dbl || f.fmt == 0) && (!rnd || decide (f.rnd.toNat ≤ 5))
    ops := [dst 0 f.d p, src 1 f.a p] }
/-- R219: a special function lands under its token. -/
def sfuRun (fm : Form) (op : Nat) (dbl : Bool) (f : F3) (s : State) : Out :=
  issue fm f.pred f.marked (some f.mod.toNat) s fun e => e.long (some f.mod.toNat) false (fun l =>
    let m := e.mode false f.rnd.toNat l
    if dbl then
      let (x, g) := sfu op m f.sat (signMod 64 f.negA f.absA (e.srcD f.a l))
      { regs := e.put64 f.d l x, flags := g }
    else
      let (x, g) := sfu op m f.sat (signMod 32 f.negA f.absA (e.src constF32 f.a l))
      { regs := e.put f.d 0 l x, flags := g }) e.s
/-- RCP (R219). -/
def execRcp (f : F3) (s : State) : Out := sfuRun (formSfu f true true false) 0x60 false f s
/-- RSQ (R219). -/
def execRsq (f : F3) (s : State) : Out := sfuRun (formSfu f false true false) 0x61 false f s
/-- SQRT (R219). -/
def execSqrt (f : F3) (s : State) : Out := sfuRun (formSfu f true false false) 0x62 false f s
/-- EXP2 (R219). -/
def execExp2 (f : F3) (s : State) : Out := sfuRun (formSfu f false true false) 0x63 false f s
/-- LOG2 (R219). -/
def execLog2 (f : F3) (s : State) : Out := sfuRun (formSfu f false false false) 0x64 false f s
/-- SINCY (R219). -/
def execSincy (f : F3) (s : State) : Out := sfuRun (formSfu f false false false) 0x65 false f s
/-- COSCY (R219). -/
def execCoscy (f : F3) (s : State) : Out := sfuRun (formSfu f false false false) 0x66 false f s
/-- TANH (R219). -/
def execTanh (f : F3) (s : State) : Out := sfuRun (formSfu f false false false) 0x67 false f s
/-- SIGM (R219). -/
def execSigm (f : F3) (s : State) : Out := sfuRun (formSfu f false false false) 0x68 false f s
/-- DRCP (R219). -/
def execDrcp (f : F3) (s : State) : Out := sfuRun (formSfu f true true true) 0x69 true f s
/-- DRSQ (R219). -/
def execDrsq (f : F3) (s : State) : Out := sfuRun (formSfu f false true true) 0x6A true f s

/-! ## Conversions (R223 to R226) -/

/-- R223: the elements of a source format in a register. -/
def elemsOf (fmt : Nat) : Nat := if fmt = 0 || fmt = 3 then 1 else if fmt ≤ 2 then 2 else 4
/-- R223: signedness and width of an integer type code. -/
def ityp (t : Nat) : Bool × Nat := (t % 2 == 0, [32, 64, 16, 8].getD (t / 2) 32)
/-- R223: an inline constant in every element position of a source format. -/
def constElems (fmt sp : Nat) : Nat :=
  let f := fmtOf fmt
  (List.range (elemsOf fmt)).foldl (fun x i => x + constFmt f sp * 2 ^ (f.width * i)) 0
/-- R223, R225: the source element of a lane, after its modifiers. -/
def Env.elem (e : Env) (f : F3) (fmt l : Nat) : Nat :=
  let w := (fmtOf fmt).width
  if fmt = 3 then signMod 64 f.negA f.absA (e.srcD f.a l)
  else signMod w f.negA f.absA (e.src (constElems fmt) f.a l / 2 ^ (w * f.c.toNat) % 2 ^ w)

/-- F2I. -/
def formF2i (f : F3) : Form :=
  let t := f.mod.toNat % 8
  { rsv := f.clear { d := true, a := true, craw := true, fmt := true, rnd := 7, sa := true, mod := 7 }
    mods := decide (f.fmt.toNat ≤ 5) && f.rnd != 7
    ops := [dst 0 f.d (if (ityp t).2 = 64 then 2 else 1), src 1 f.a (if f.fmt = 3 then 2 else 1)]
    bad := if elemsOf f.fmt.toNat ≤ f.c.toNat then [3] else [] }
/-- F2I (R223). -/
def execF2i (f : F3) (s : State) : Out :=
  issue (formF2i f) f.pred f.marked none s fun e => e.short fun l =>
    let (sg, w) := ityp (f.mod.toNat % 8)
    let m := e.mode true f.rnd.toNat l
    let (x, g) := toInt m (e.srWord l 0) sg w ((fmtOf f.fmt.toNat).val (e.elem f f.fmt.toNat l))
    { regs := if w = 64 then e.put64 f.d l (wrapNat 64 x) else e.put f.d 0 l (wrapNat 32 x), flags := g, draws := drawsOf m 1 }

/-- I2F. -/
def formI2f (f : F3) : Form :=
  { rsv := f.clear { d := true, a := true, fmt := true, rnd := 7, sat := true, mod := 7 }
    mods := decide (f.fmt.toNat ≤ 3) && f.rnd != 7
    ops := [dst 0 f.d (if f.fmt = 3 then 2 else 1), src 1 f.a (if (ityp (f.mod.toNat % 8)).2 = 64 then 2 else 1)] }
/-- I2F (R224); an inline constant in A is read as an integer (log 127). -/
def execI2f (f : F3) (s : State) : Out :=
  issue (formI2f f) f.pred f.marked none s fun e => e.short fun l =>
    let (sg, w) := ityp (f.mod.toNat % 8)
    let m := e.mode true f.rnd.toNat l
    let a := if w = 64 then e.src64 f.a l else e.src constInt f.a l
    let (x, g) := (fmtOf f.fmt.toNat).pack m f.sat (e.srWord l 0) (ofIntFv (extInt sg w a))
    { regs := if f.fmt = 3 then e.put64 f.d l x else e.put f.d 0 l x, flags := g, draws := drawsOf m 1 }

/-- F2F. -/
def formF2f (f : F3) : Form :=
  { rsv := f.clear { d := true, a := true, craw := true, fmt := true, rnd := 7, sat := true, sa := true, mod := 15 }
    mods := decide (f.fmt.toNat ≤ 5) && decide (f.mod.toNat ≤ 5) && f.rnd != 7
    ops := [dst 0 f.d (if f.fmt = 3 then 2 else 1), src 1 f.a (if f.mod = 3 then 2 else 1)]
    bad := if elemsOf f.mod.toNat ≤ f.c.toNat then [3] else [] }
/-- F2F (R225). -/
def execF2f (f : F3) (s : State) : Out :=
  issue (formF2f f) f.pred f.marked none s fun e => e.short fun l =>
    let m := e.mode true f.rnd.toNat l
    let (x, g) := (fmtOf f.fmt.toNat).pack m f.sat (e.srWord l 0) ((fmtOf f.mod.toNat).val (e.elem f f.mod.toNat l))
    { regs := if f.fmt = 3 then e.put64 f.d l x else e.put f.d 0 l x, flags := g, draws := drawsOf m 1 }

/-- R226: the largest k of a destination format; none for a format it does not have. -/
def f2fpMax (fmt : Nat) : Option Nat :=
  if fmt = 1 || fmt = 2 then some 0
  else if fmt = 4 || fmt = 5 || fmt = 9 || fmt = 10 then some 1
  else if fmt = 11 then some 3
  else none
/-- R226: the bits of an element. -/
def f2fpWidth (fmt : Nat) : Nat := if fmt ≤ 2 then 16 else if fmt = 11 then 4 else 8
/-- F2FP. -/
def formF2fp (f : F3) : Form :=
  let half := f.fmt = 1 || f.fmt = 2
  let int := f.fmt = 9 || f.fmt = 10 || f.fmt = 11
  { rsv := f.clear { d := true, a := true, b := true, c := !half, fmt := true, rnd := 7, sat := !int, sa := true, sb := true, mod := 15 }
    mods := f.rnd != 7 && (match f2fpMax f.fmt.toNat with
      | some k => decide (f.mod.toNat ≤ k)
      | none => false)
    ops := [dst 0 f.d, src 1 f.a, src 2 f.b] ++ (if half then [] else [src 3 f.c]) }
/-- R226: one element converted. -/
def f2fpElem (fmt : Nat) (m : Mode) (sat : Bool) (w x : Nat) : Nat × Flags :=
  if 9 ≤ fmt then
    let bw := f2fpWidth fmt
    let (v, g) := toInt m w (fmt != 10) bw (fp32.val x)
    (wrapNat bw v, g)
  else (fmtOf fmt).pack m sat w (fp32.val x)
/-- F2FP (R226); an inline constant in C is read as FP32 (R209, log 127). -/
def execF2fp (f : F3) (s : State) : Out :=
  issue (formF2fp f) f.pred f.marked none s fun e => e.short fun l =>
    let m := e.mode true f.rnd.toNat l
    let bw := f2fpWidth f.fmt.toNat
    let lo := f2fpElem f.fmt.toNat m f.sat (e.srWord l 0) (signMod 32 f.negA f.absA (e.src constF32 f.a l))
    let hi := f2fpElem f.fmt.toNat m f.sat (e.srWord l 1) (signMod 32 f.negB f.absB (e.src constF32 f.b l))
    let c := if bw = 16 then 0 else e.src constF32 f.c l
    let k := 2 * bw * (f.mod.toNat % 4)
    let x := c - c / 2 ^ k % 2 ^ (2 * bw) * 2 ^ k + (lo.1 + hi.1 * 2 ^ bw) * 2 ^ k
    { regs := e.put f.d 0 l x, flags := lo.2 ||| hi.2, draws := drawsOf m 2 }

end Sys2Proof.Machine
end

