-- ==== Sys2Proof/Machine/Matrix.lean ====
section
/-! DEFINITION. The in-core matrix instructions and the block-format instructions, opcodes 0x70 to 0x7B (R23 to R26, R41 to
R43, R336 to R349). -/
namespace Sys2Proof.Machine

/-! ## Sums of the matrix unit (R41, R42) -/

/-- R42: whether a list of terms has an infinity of a sign. -/
def hasInf (neg : Bool) (ts : List Fv) : Bool := ts.any fun t => t == .inf neg

/-- R41: the exponent of a nonzero finite term. -/
def termExp : Fv → Option Int
  | .fin _ m e => if m = 0 then none else some ((Nat.log2 m : Int) + e)
  | _ => none

/-- R41: a finite term truncated toward zero to a multiple of 2^q, in multiples, and whether bits were discarded. -/
def truncTerm (q : Int) : Fv → Int × Bool
  | .fin neg m e =>
    let (a, nx) := roundTo 2 neg 0 m e q
    (if neg then -(a : Int) else a, nx)
  | _ => (0, false)

/-- R41, R42: the FP32 result of a set of terms; `inv` says that a signalling NaN or an invalid product occurred. -/
def sumTerms (inv : Bool) (ts : List Fv) : Nat × Flags :=
  let both := hasInf true ts && hasInf false ts
  if ts.any Fv.isNan || both then (fp32.nan, if inv || both then fNV else 0)
  else if hasInf true ts then (fp32.signed true fp32.inf, 0)
  else if hasInf false ts then (fp32.inf, 0)
  else match ts.filterMap termExp with
    | [] => (fp32.signed (ts.all Fv.sign) 0, 0)
    | x :: xs =>
      let q := xs.foldl max x - 40
      let (v, cut) := ts.foldl (fun (acc : Int × Bool) t =>
        let (a, c) := truncTerm q t
        (acc.1 + a, acc.2 || c)) (0, false)
      let (r, g) := fp32.pack 1 false 0 (.ofInt false v q)
      (r, if cut then g ||| fNX else g)

/-! ## Block formats (R23 to R26) -/

/-- R23: magnitude bits of ZB8, ZB5, ZB3 by format code 6, 7, 8. -/
def zbK (fmt : Nat) : Nat := if fmt = 6 then 7 else if fmt = 7 then 4 else 2
/-- R336: the fragment registers of ZB8, ZB5, ZB3. -/
def zbF (fmt : Nat) : Nat := if fmt = 6 then 4 else if fmt = 7 then 3 else 2

/-- R24: the value of an element from the scale record. -/
def zbVal (k record j x : Nat) : Fv :=
  let ex := record / 256
  let m := x % 2 ^ k
  if ex = 255 then .nan false
  else if m = 0 then .fin false 0 0
  else .fin (bitAt x k) m ((ex : Int) - 127 - bn (bitAt record (j / 2)) - (k - 1))

/-- R23, R24: the sixteen elements of a block. -/
def zbBlock (k record stream : Nat) : List Fv :=
  (List.range 16).map fun j => zbVal k record j (stream / 2 ^ ((k + 1) * j) % 2 ^ (k + 1))

/-- R26: the shared exponent and micro-exponents of sixteen finite values that are not all zero. -/
def zbScale (k : Nat) (xs : List Fv) : Nat × Nat :=
  let top := match xs.filterMap termExp with
    | [] => (0 : Int)
    | x :: t => t.foldl max x
  let ex := max 0 (top + 127)
  let q : Int := ex - 127 - k
  let small : Fv → Bool
    | .fin _ m e =>
      let c := if e ≤ q then e else q
      decide (scaleTo false m e c ≤ scaleTo false (2 ^ k - 1) q c)
    | _ => false
  let mu := (List.range 8).foldl (fun a i =>
    a + bn (small (xs.getD (2 * i) default) && small (xs.getD (2 * i + 1) default)) * 2 ^ i) 0
  (ex.toNat, mu)

/-- R26: one element rounded: its bits, and its flags. -/
def zbElem (k : Nat) (mode : Mode) (w : Nat) (q : Int) : Fv → Nat × Flags
  | .fin neg m e =>
    let (a, nx) := roundTo mode neg w m e q
    let r := min a (2 ^ k - 1)
    (if r = 0 then 0 else r + bn neg * 2 ^ k,
     (if nx || decide (2 ^ k ≤ a) then fNX else 0) ||| (if m != 0 && r = 0 then fUF else 0))
  | _ => (0, 0)

/-- R26: a packed block: the scale record, the stream, the flags. -/
def zbPack (k : Nat) (mode : Mode) (w : Nat → Nat) (xs : List Fv) : Nat × Nat × Flags :=
  if xs.any fun v => v.isNan || v == .inf true || v == .inf false then (255 * 256, 0, fNV)
  else if (xs.filterMap termExp).isEmpty then (0, 0, 0)
  else
    let (ex, mu) := zbScale k xs
    let el (j : Nat) : Nat × Flags :=
      zbElem k mode (w j) ((ex : Int) - 127 - bn (bitAt mu (j / 2)) - (k - 1)) (xs.getD j default)
    let (st, fl) := (List.range 16).foldl (fun (acc : Nat × Flags) j =>
      let (b, g) := el j
      (acc.1 + b * 2 ^ ((k + 1) * j), acc.2 ||| g)) (0, 0)
    (ex * 256 + mu, st, fl)

/-- R26: the scale record alone. -/
def zbRecord (k : Nat) (xs : List Fv) : Nat := (zbPack k 1 (fun _ => 0) xs).1

/-- R25: a word with the half at byte `sel` replaced. -/
def putHalf (c sel x : Nat) : Nat := if sel = 0 then c / 65536 * 65536 + x else c % 65536 + x * 65536

/-! ## MMA (R336 to R345) -/

/-- The registers of a range, as numbers. -/
def rangeOf (a n : Nat) : List Nat := (List.range n).map (a + ·)
/-- Whether two lists share an element. -/
def meets (a b : List Nat) : Bool := a.any b.contains

/-- R336: the fragment registers of a matrix opcode, without the scale. -/
def mmaF (op : Nat) : Nat := if op = 0x75 then 3 else if op = 0x76 then 2 else 4
/-- Whether a matrix opcode takes block formats. -/
def mmaZb (op : Nat) : Bool := decide (0x74 ≤ op) && decide (op ≤ 0x76)
/-- R336, R337: the registers of a fragment, the scale included. -/
def mmaN (op : Nat) : Nat := mmaF op + bn (mmaZb op)

/-- R342, R343: the form of a matrix instruction. -/
def formMma (op : Nat) (f : F3) : Form :=
  let zb := mmaZb op
  let i8 := op = 0x77
  let n := mmaN op
  let d := rangeOf f.d.toNat 8
  let meetsAny := meets d (rangeOf f.a.toNat n) || meets d (rangeOf f.b.toNat n) ||
    (f.c != 0xE8 && f.c != f.d && meets d (rangeOf f.c.toNat 8))
  { rsv := f.clear { d := true, a := true, b := true, c := true, fmt := zb || (i8 && decide (f.fmt.toNat < 4)), sat := i8,
                     reuse := true, mod := 15 }
    mods := f.pred == 7 && (!zb || (!f.fmt.getLsbD 0 && !f.fmt.getLsbD 2))
    ops := [{ dst 0 f.d 8 kV with align := 8 }, { src 1 f.a n kV with align := 4 }, { src 2 f.b n kV with align := 4 },
            { src 3 f.c 8 kVZ with align := 8 }]
    bad := if meetsAny then [0] else [], latched := true }

/-- The words of a lane's fragment registers. -/
def Env.frag (e : Env) (a n l : Nat) : List Word := (List.range n).map fun j => e.rv (a + j) l

/-- The stream of a fragment: its registers as one number. -/
def wordsNat : List Word → Nat
  | [] => 0
  | x :: xs => x.toNat + 2 ^ 32 * wordsNat xs

/-- R336, R337: the element values of a lane's share; `sel` is the byte-select of the scale. -/
def mmaShare (op sel : Nat) (ws : List Word) : List Fv :=
  let st := wordsNat (ws.take (mmaF op))
  if mmaZb op then
    zbBlock (zbK (op - 0x6E)) ((ws.getD (mmaF op) 0).toNat / 2 ^ (8 * sel) % 65536) st
  else if op ≤ 0x71 then
    (List.range 8).map fun j => (if op = 0x70 then fp16 else bf16).val (st / 2 ^ (16 * j) % 65536)
  else (List.range 16).map fun j => (if op = 0x72 then e4m3 else e5m2).val (st / 2 ^ (8 * j) % 256)

/-- R336: the bytes of a lane's share of `MMA.I8`. -/
def mmaBytes (unsigned : Bool) (ws : List Word) : List Int :=
  (List.range 16).map fun j => extInt (!unsigned) 8 (wordsNat ws / 2 ^ (8 * j))

/-- R41, R42: one element of a floating product. -/
def mmaDot (c : Nat) (row col : List Fv) : Nat × Flags :=
  let ps := (row.zip col).map fun p => Fv.mul p.1 p.2
  let cv := fp32.val c
  sumTerms (ps.any (fun p => p.2 != 0) || snans [cv] != 0) (cv :: ps.map (·.1))

/-- R43: one element of an integer product. -/
def mmaInt (sat : Bool) (c : Nat) (row col : List Int) : Nat :=
  fitInt sat true 32 ((row.zip col).foldl (fun a p => a + p.1 * p.2) (sx 32 c))

/-- R344: the result words and flags of a lane, from the shares of all lanes (two lanes hold one row or column). -/
def mmaLane {α : Type} (dot : Nat → List α → List α → Nat × Flags) (fa fb : List (List α)) (c : Nat → Nat) (l : Nat) :
    List Nat × Flags :=
  let m := l / 2
  let row := fa.getD (2 * m) [] ++ fa.getD (2 * m + 1) []
  (List.range 8).foldl (fun (acc : List Nat × Flags) i =>
    let n := 8 * (l % 2) + i
    let (x, g) := dot (c i) row (fb.getD (2 * n) [] ++ fb.getD (2 * n + 1) [])
    (acc.1 ++ [x], acc.2 ||| g)) ([], 0)

/-- R339: the A latch after an MMA. -/
def Env.latchTo (e : Env) (a : List (List Word)) : Env :=
  let cl := { e.cl with latch := a }
  { e with cl := cl, wv := { e.wv with clause := some cl }, s := e.s.updWave e.w fun wv => { wv with clause := some cl } }

/-- R338 to R344: a matrix instruction. -/
def mmaRun (op : Nat) (f : F3) (s : State) : Out :=
  issue (formMma op f) f.pred f.marked (some f.mod.toNat) s fun e =>
    if e.L != BitVec.allOnes 32 then e.fault 0x29 e.cl.set
    else
      let n := mmaN op
      let wa := if e.cl.latch.isEmpty then (List.range 32).map (e.frag f.a.toNat n) else e.cl.latch
      let wb := (List.range 32).map (e.frag f.b.toNat n)
      let c (l i : Nat) : Nat := if f.c = 0xE8 then 0 else (e.rv (f.c.toNat + i) l).toNat
      let outs : List (List Nat × Flags) :=
        if op = 0x77 then
          let fa := wa.map (mmaBytes (f.fmt.getLsbD 1))
          let fb := wb.map (mmaBytes (f.fmt.getLsbD 0))
          (List.range 32).map fun l => mmaLane (fun x r k => (mmaInt f.sat x r k, 0)) fa fb (c l) l
        else
          let fa := wa.map (mmaShare op (if mmaZb op then f.fmt.toNat / 4 else 0))
          let fb := wb.map (mmaShare op (if mmaZb op then f.fmt.toNat % 4 else 0))
          (List.range 32).map fun l => mmaLane mmaDot fa fb (c l) l
      let e := e.latchTo (if f.reuse then wa else [])
      e.long (some f.mod.toNat) false (fun l =>
        let o := outs.getD l ([], 0)
        { regs := (List.range 8).flatMap fun i => e.put f.d i l (o.1.getD i 0), flags := o.2 }) e.s true

/-- MMA.F16 (R342). -/
def execMmaF16 (f : F3) (s : State) : Out := mmaRun 0x70 f s
/-- MMA.BF16 (R342). -/
def execMmaBf16 (f : F3) (s : State) : Out := mmaRun 0x71 f s
/-- MMA.E4 (R342). -/
def execMmaE4 (f : F3) (s : State) : Out := mmaRun 0x72 f s
/-- MMA.E5 (R342). -/
def execMmaE5 (f : F3) (s : State) : Out := mmaRun 0x73 f s
/-- MMA.ZB8 (R342). -/
def execMmaZb8 (f : F3) (s : State) : Out := mmaRun 0x74 f s
/-- MMA.ZB5 (R342). -/
def execMmaZb5 (f : F3) (s : State) : Out := mmaRun 0x75 f s
/-- MMA.ZB3 (R342). -/
def execMmaZb3 (f : F3) (s : State) : Out := mmaRun 0x76 f s
/-- MMA.I8 (R342). -/
def execMmaI8 (f : F3) (s : State) : Out := mmaRun 0x77 f s

/-! ## ZBPACK, ZBUNP, ZBEXP (R346 to R349) -/

/-- R25: a byte-select of 0 or 2. -/
def selOk (f : F3) : Bool := !f.mod.getLsbD 0
/-- R346: an accepted block format. -/
def zbFmt (f : F3) : Bool := decide (6 ≤ f.fmt.toNat) && decide (f.fmt.toNat ≤ 8)

/-- The sixteen FP32 sources of a lane. -/
def Env.sixteen (e : Env) (a l : Nat) : List Fv := (List.range 16).map fun j => fp32.val (e.rv (a + j) l).toNat

/-- ZBPACK. -/
def formZbpack (f : F3) : Form :=
  let n := zbF f.fmt.toNat + 1
  { rsv := f.clear { d := true, a := true, c := true, fmt := true, rnd := 7, mod := 3 }
    mods := zbFmt f && selOk f && f.rnd != 7
    ops := [{ dst 0 f.d n kV with align := 4 }, { src 1 f.a 16 kV with align := 4 }, src 3 f.c]
    bad := if meets (rangeOf f.d.toNat n) (rangeOf f.a.toNat 16) then [0] else [] }
/-- ZBPACK (R346). -/
def execZbpack (f : F3) (s : State) : Out :=
  issue (formZbpack f) f.pred f.marked none s fun e => e.short fun l =>
    let m := e.mode true f.rnd.toNat l
    let n := zbF f.fmt.toNat
    let (rec_, st, g) := zbPack (zbK f.fmt.toNat) m (e.srWord l) (e.sixteen f.a.toNat l)
    { regs := ((List.range n).flatMap fun j => e.put f.d j l (st / 2 ^ (32 * j) % 2 ^ 32)) ++
        e.put f.d n l (putHalf (e.src constInt f.c l) (f.mod.toNat % 4) rec_)
      flags := g, draws := drawsOf m 16 }

/-- ZBUNP. -/
def formZbunp (f : F3) : Form :=
  let n := zbF f.fmt.toNat + 1
  { rsv := f.clear { d := true, a := true, fmt := true, mod := 3 } && !f.markA
    mods := zbFmt f && selOk f
    ops := [{ dst 0 f.d 16 kV with align := 4 }, { src 1 f.a n kV with align := 4 }]
    bad := if meets (rangeOf f.d.toNat 16) (rangeOf f.a.toNat n) then [0] else [] }
/-- ZBUNP (R347): its marks are reserved with the rest of the low fields. -/
def execZbunp (f : F3) (s : State) : Out :=
  issue (formZbunp f) f.pred f.marked none s fun e => e.short fun l =>
    let n := zbF f.fmt.toNat
    let ws := e.frag f.a.toNat (n + 1) l
    let vs := zbBlock (zbK f.fmt.toNat) ((ws.getD n 0).toNat / 2 ^ (8 * (f.mod.toNat % 4)) % 65536) (wordsNat (ws.take n))
    { regs := (List.range 16).flatMap fun j => e.put f.d j l (fp32.pack 1 false 0 (vs.getD j default)).1 }

/-- ZBEXP: MOD[3:2] selects the mode. -/
def formZbexp (f : F3) : Form :=
  let adj := f.mod.toNat / 4 = 1
  { rsv := f.clear { d := true, a := true, b := adj, c := true, fmt := !adj, mod := 15 }
    mods := decide (f.mod.toNat < 8) && selOk f && (adj || zbFmt f)
    ops := if adj then [dst 0 f.d 1 { kDst with z := false }, src 1 f.a, src 2 f.b, src 3 f.c]
           else [dst 0 f.d 1 { kDst with z := false }, { src 1 f.a 16 kV with align := 4 }, src 3 f.c] }
/-- R348: an adjusted exponent, with flags. -/
def zbAdjust (ex : Nat) (b : Int) : Nat × Flags :=
  if ex = 255 then (255, 0)
  else if 254 < (ex : Int) + b then (254, fOF ||| fNX)
  else if (ex : Int) + b < 0 then (0, fUF ||| fNX)
  else (((ex : Int) + b).toNat, 0)
/-- ZBEXP (R348). -/
def execZbexp (f : F3) (s : State) : Out :=
  issue (formZbexp f) f.pred f.marked none s fun e => e.short fun l =>
    let sel := f.mod.toNat % 4
    let c := e.src constInt f.c l
    if f.mod.toNat / 4 = 1 then
      let rec_ := e.src constInt f.a l / 2 ^ (8 * sel) % 65536
      let (ex, g) := zbAdjust (rec_ / 256) (sx 32 (e.src constInt f.b l))
      { regs := e.put f.d 0 l (putHalf c sel (ex * 256 + rec_ % 256)), flags := g }
    else { regs := e.put f.d 0 l (putHalf c sel (zbRecord (zbK f.fmt.toNat) (e.sixteen f.a.toNat l))) }

end Sys2Proof.Machine
end

