-- ==== Sys2Proof/Machine/Memory.lean ====
section
/-! DEFINITION. Memory access instructions, opcodes 0x80 to 0x90 (R244 to R263), over one memory in which
an access takes effect at its issue, or when the accesses of its lanes before it have (R231): for each its form and its meaning. -/
namespace Sys2Proof.Machine

/-! ## Faults of lanes (R247, R426) -/

/-- What stops one lane before anything is performed: a cause with its address, a translation fault, or a wait: of a local page for a
frame (R286, R289), of an access for a port or a unit under test (R422, R445). -/
inductive LaneFault where
  | cause (c : Nat) (addr : DWord)
  | xlate (f : TFault)
  | wait
  deriving DecidableEq, Repr, Inhabited

/-- The fault of lanes, the lowest first: its cause with every lane that raised the same (R426); a resolvable translation
fault stops the clause for a replay (R279); where lanes only wait for a frame, the instruction is held. -/
def Env.laneFault (e : Env) (s : State) (acc : Access) (fs : List (Nat × LaneFault)) : State :=
  match fs.filter fun x => x.2 != .wait with
  | [] => if fs.isEmpty then s else e.hold
  | (_, .xlate _) :: _ =>
    e.xlateFault s acc (fs.filterMap fun x => match x.2 with
      | .xlate f => some (x.1, f)
      | _ => none)
  | (_, .cause c a) :: _ =>
    s.faultNow e.w e.cl c (maskOf fun l => fs.any fun x => x.1 == l && (match x.2 with
      | .cause c' _ => c' == c
      | _ => false)) a
  | _ => s

/-- Checks every lane of a mask: the places they reach, or their faults. -/
def checkLanes {α : Type} (m : LaneMask) (g : Nat → α ⊕ LaneFault) : List (Nat × α) × List (Nat × LaneFault) :=
  (lanesOf m).foldr (fun l acc => match g l with
    | .inl a => ((l, a) :: acc.1, acc.2)
    | .inr f => (acc.1, (l, f) :: acc.2)) ([], [])

/-! ## Global addresses (R244, R246, R160, R228) -/

/-- R244, R246: the effective address of an access of `s` bytes, or its address or misaligned fault. -/
def eaOf (a off : Int) (s : Nat) : Nat ⊕ LaneFault :=
  let ea := a + off * s
  if ea < 0 || (2 ^ 57 : Nat) < ea + s then .inr (.cause 0x40 (BitVec.ofInt 64 ea))
  else if ea.toNat % s != 0 then .inr (.cause 0x41 (BitVec.ofInt 64 ea))
  else .inl ea.toNat

/-- R244: the effective address of an FM instruction of `sz` bytes in a lane. -/
def Env.ea (e : Env) (f : FM) (sz l : Nat) : Nat ⊕ LaneFault := eaOf (e.src64 f.a l) f.offset sz

/-- R128, R329: whether a write to a range is refused before translation: code, or a copy of a declared region. -/
def Ctx.writeFault (c : Ctx) (va n : Nat) : Option LaneFault :=
  if c.inCode va n then some (.cause 0x42 (BitVec.ofNat 64 va))
  else if c.inPlane va n then some (.cause 0x74 (BitVec.ofNat 64 va))
  else none

/-- A checked global access of `sz` bytes for a lane, translated by an agent; it may have to wait for a port or a unit (R422, R445). -/
def Env.placeBy (e : Env) (ag : Nat) (acc : Access) (sz : Nat) (ea : Nat ⊕ LaneFault) : Nat ⊕ LaneFault :=
  match ea with
  | .inr f => .inr f
  | .inl va =>
    match (if acc = 0 then none else e.ctx.writeFault va sz) with
    | some f => .inr f
    | none => match e.s.rangeFault e.wv.ctxn va sz acc ag with
      | some f => .inr (.xlate f)
      | none => if e.s.rangeWaits e.wv.ctxn va sz acc ag then .inr .wait else .inl va
/-- A checked global access of `sz` bytes in a lane, by its core. -/
def Env.place (e : Env) (acc : Access) (sz : Nat) (ea : Nat ⊕ LaneFault) : Nat ⊕ LaneFault := e.placeBy e.wv.core acc sz ea

/-- R278: who translates for a lane of a wave; lane 32 is the engine of its cluster. -/
def Wave.agent (wv : Wave) (l : Nat) : Nat := if l < 32 then wv.core else 256 + wv.core / 4

/-- A read of translated bytes by a lane. -/
def State.gread (s : State) (c w l va n free : Nat) : List Byte := s.readAs ((s.wave w).agent l) c w l va n free
/-- A store of translated bytes by a lane. -/
def State.gwrite (s : State) (c w l va : Nat) (bs : List Byte) : State := s.writeAs ((s.wave w).agent l) c w l va bs
/-! ### Places translated at issue (R281)

An access that is performed later than it issues goes where its translation led when it issued: a number for each 4 KiB piece. -/

/-- The physical place of an address as one number. -/
def State.physOf (s : State) (c va : Nat) (acc : Access) (ag : Nat) : Nat :=
  match s.translate c va acc ag with
  | .ok sys pa _ => 2 * pa + bn sys
  | .bad .. => 0
/-- The places of the pieces of a range. -/
def State.placesOf (s : State) (c va n : Nat) (acc : Access) (ag : Nat) : List Nat := (piecesOf va n).map fun p => s.physOf c p.1 acc ag
/-- R277: the address of a place in a frame that the device has retired since. -/
def State.placeGone (s : State) (x : Nat) : Option Nat := if x % 2 = 0 && s.frameRetired (x / 2) then some (x / 2) else none
/-- The bytes of a range at its places. -/
def State.readPlaces (s : State) (va n : Nat) (locs : List Nat) : List Byte :=
  ((piecesOf va n).zip locs).flatMap fun p => s.pread (p.2 % 2 == 1) (p.2 / 2) p.1.2
/-- Stores bytes at the places of a range. -/
def putPlaces : List ((Nat × Nat) × Nat) → List Byte → State → State
  | [], _, s => s
  | p :: t, bs, s => putPlaces t (bs.drop p.1.2) (s.pwrite (p.2 % 2 == 1) (p.2 / 2) (bs.take p.1.2))
/-- A read by lane l of wave w at places translated before. -/
def State.readHeld (s : State) (c w l va n free : Nat) (locs : List Nat) : List Byte := s.seenBy c w l va free (s.readPlaces va n locs)
/-- A store by lane l of wave w at places translated before. -/
def State.writeHeld (s : State) (c w l va : Nat) (locs : List Nat) (bs : List Byte) : State :=
  (putPlaces ((piecesOf va bs.length).zip locs) bs s).privAfter c w l va bs

/-- R240, R242: the model's counter at the acquire that started a wave's grid, or its flow graph. -/
def State.startOf (s : State) (wv : Wave) : Nat :=
  let t := s.teamOf wv
  if t.berthTeam then (s.flow t.grid).since else (s.gridOf t).since
/-- R242: what `LDC` returns of a byte: the value at the start of the lane's grid or that of a later store, which one is open. -/
def State.constByte (s : State) (wv : Wave) (free va : Nat) (b : Byte) : Byte :=
  match s.translate wv.ctxn va 0 wv.core with
  | .bad .. => b
  | .ok sys pa _ =>
    let olds := ((mget s.olds (2 * s.cellOf sys pa + bn sys)).getD []).filter fun x => decide (s.startOf wv ≤ x.1)
    let n := (Config.freeWord free).toNat % (olds.length + 1)
    if n = 0 then b else (olds.getD (n - 1) (0, b)).2

/-! ## Sizes and data (R246) -/

/-- R246: bytes of an access. -/
def sizeOf8 (m : Nat) : Nat := [1, 1, 2, 2, 4, 8, 16, 32].getD m 4
/-- R246: registers of an access. -/
def regsOf8 (m : Nat) : Nat := max 1 (sizeOf8 m / 4)

/-- R246: the registers of a loaded value. -/
def loadWords (m : Nat) (bs : List Byte) : List Nat :=
  let x := leNat bs
  if m = 1 then [wrapNat 32 (sx 8 x)]
  else if m = 3 then [wrapNat 32 (sx 16 x)]
  else (List.range (regsOf8 m)).map fun i => x / 2 ^ (32 * i) % 2 ^ 32

/-- The writes of a destination of `n` registers. -/
def Env.putWords (e : Env) (d : BitVec 8) (n l : Nat) (ws : List Nat) : List RegWrite :=
  (List.range n).flatMap fun k => e.put d k l (ws.getD k 0) (n == 2)

/-- R246: the register writes of a loaded value. -/
def Env.loaded (e : Env) (d : BitVec 8) (m l : Nat) (bs : List Byte) : List RegWrite := e.putWords d (regsOf8 m) l (loadWords m bs)

/-- The registers a parked result of `n` words goes to: each holds the number of its word until the result comes. -/
def Env.slots (e : Env) (d : BitVec 8) (n l : Nat) : List RegWrite := e.putWords d n l (List.range n)

/-- R246: the bytes a store takes from its data registers. -/
def Env.stored (e : Env) (d : BitVec 8) (m l : Nat) : List Byte :=
  let n := sizeOf8 m
  leBytes n (if m ≤ 4 then e.src constInt d l
    else if m = 5 then e.src64 d l
    else (List.range (regsOf8 m)).foldl (fun x i => x + (e.rv (d.toNat + i) l).toNat * 2 ^ (32 * i)) 0)

/-- R50: the token of an FM instruction, when it has one. -/
def tokenOf (f : FM) : Option Nat := if f.tv then some f.wk.toNat else none

/-! ## Forms -/

/-- What an FM entry accepts beside its operands: MOD values, ORDER values; whether SCOPE, ORDER and OFFSET are fields. -/
def fmForm (f : FM) (mods orders : List Nat) (scope order off : Bool) : Form :=
  { rsv := f.wkOk && (scope || f.scope == 0) && (order || f.order == 0) && (off || f.off == 0)
    mods := mods.contains f.mod.toNat && orders.contains f.order.toNat && f.scope != 7 }

/-- MOD values of a size list, with and without `.nt`. -/
def withNt (l : List Nat) : List Nat := l ++ l.map (· + 8)

/-- The A operand: a global address, or a 32-bit operand. -/
def opdA (a : BitVec 8) (glob : Bool) : Opd := if glob then src 1 a 2 kVW else src 1 a

/-- R249: the form of a load. -/
def formLoad (f : FM) (sizes orders : List Nat) (glob ldc : Bool) : Form :=
  let n := regsOf8 (f.mod.toNat % 8)
  let b := fmForm f (withNt sizes) orders (!ldc) (!ldc) true
  { b with rsv := b.rsv && f.b == 0
           ops := [dst 0 f.d n (if n ≤ 2 then { kDst with z := false } else kV), opdA f.a glob] }
/-- R249: the form of a store. -/
def formStore (f : FM) (sizes : List Nat) (orders : List Nat) (glob : Bool) : Form :=
  let n := regsOf8 (f.mod.toNat % 8)
  let b := fmForm f (withNt sizes) orders true true true
  { b with rsv := b.rsv && f.b == 0, ops := [src 0 f.d n (if n ≤ 2 then kSrc else kV), opdA f.a glob] }

/-- Every size. -/
def allSizes : List Nat := [0, 1, 2, 3, 4, 5, 6, 7]
/-- The sizes of a store. -/
def storeSizes : List Nat := [0, 2, 4, 5, 6, 7]

/-! ## Watchpoints (R429) -/

/-- R429: the lowest enabled watchpoint that a lane's access touches: bit 0 loads, bit 1 stores. -/
def Wave.watched (wv : Wave) (va : Nat) (ld st : Bool) : Option Nat :=
  (List.range 4).find? fun n =>
    let x := wv.dbg.watch.getD n 0
    wv.dbg.ctl.getLsbD (2 + n) && bits x.toNat 56 7 == va % 2 ^ 57 / 128 && ((ld && x.getLsbD 0) || (st && x.getLsbD 1))

/-- R429: the trap after completion of watched accesses. -/
def Env.watch (e : Env) (ps : List (Nat × Nat)) (ld st : Bool) : Env :=
  match ps.findSome? fun p => (e.wv.watched p.2 ld st).map fun n => (n, p.2) with
  | none => e
  | some (n, va) =>
    e.upWave (·.after { cause := 0x0B + n, lanes := maskOf fun l => ps.any fun p => p.1 == l && e.wv.watched p.2 ld st == some n,
                        addr := BitVec.ofNat 64 va, info := BitVec.ofNat 32 e.cl.idx, after := true })

/-! ## Global loads and stores (R250, R253) -/

/-- R231, R235: an access whose lanes have earlier accesses waiting is held behind them: it parks with the places and the data it
captured, and is performed lane by lane in its turn (log 125). -/
def Env.defer (e : Env) (i : Instr) (f : FM) (lanes : List (Nat × List Nat)) (dst : Nat → List RegWrite) : State :=
  e.park i (tokenOf f) (!f.tv) lanes dst
/-- What a held global access of a lane captures: its address, its place, its operands. -/
def Env.heldAt (e : Env) (acc : Access) (va : Nat) (ops : List Nat) : List Nat := va :: e.s.physOf e.wv.ctxn va acc e.wv.core :: ops

/-- A global load of the lanes of L; `i` is the instruction of one that keeps program order (none for LDC, R242). -/
def loadRun (fm : Form) (i : Option Instr) (f : FM) (s : State) : Out :=
  let m := f.mod.toNat % 8
  let n := sizeOf8 m
  issue fm f.pred [] (tokenOf f) s fun e =>
    match checkLanes e.L fun l => e.place 0 n (e.ea f n l) with
    | (ps, []) =>
      let e := if i.isSome then e.watch ps true false else e
      match i, e.behind == 0 with
      | some i, false => e.defer i f (ps.map fun p => (p.1, e.heldAt 0 p.2 [])) fun l => e.slots f.d (regsOf8 m) l
      | _, _ =>
      let (b, s) := e.s.fresh 2048
      e.long (tokenOf f) (!f.tv) (fun l => match mget ps l with
        | some va =>
          let bs := e.s.gread e.wv.ctxn e.w l va n (b + 32 * l)
          { regs := e.loaded f.d m l (if i.isSome then bs else mapIx (fun k x => e.s.constByte e.wv (b + 1024 + 32 * l + k) (va + k) x) 0 bs) }
        | none => {}) s
    | (_, fs) => e.laneFault e.s 0 fs

/-- LD. -/
def formLd (f : FM) : Form := formLoad f allSizes [0, 1] true false
/-- LD (R249, R250). -/
def execLd (f : FM) (s : State) : Out := loadRun (formLd f) (some (.ld f)) f s
/-- LDC. -/
def formLdc (f : FM) : Form := formLoad f allSizes [0] true true
/-- LDC (R253): it orders nothing (R242). -/
def execLdc (f : FM) (s : State) : Out := loadRun (formLdc f) none f s

/-- ST. -/
def formSt (f : FM) : Form := formStore f storeSizes [0, 2] true
/-- ST (R250): lanes performed already skip the store (R53). -/
def execSt (f : FM) (s : State) : Out :=
  let m := f.mod.toNat % 8
  let n := sizeOf8 m
  issue (formSt f) f.pred [] (tokenOf f) s fun e =>
    match checkLanes e.todo fun l => e.place 1 n (e.ea f n l) with
    | (ps, []) =>
      let all := (checkLanes e.L fun l => e.ea f n l).1
      let e := (e.watch all false true).upWave (e.markPerf e.todo)
      if ps.any fun p => inMask e.behind p.1 then e.defer (.st f) f (ps.map fun p => (p.1, e.heldAt 1 p.2 [leNat (e.stored f.d m p.1)])) fun _ => []
      else
      let s := ps.foldl (fun s p => s.gwrite e.wv.ctxn e.w p.1 p.2 (e.stored f.d m p.1)) e.s
      e.long (tokenOf f) (!f.tv) (fun _ => {}) s
    | (_, fs) => e.laneFault e.s 1 fs

/-! ## Private memory (R160, R252) -/

/-- R160: the address of byte `o` of the private memory of a lane of a wave. -/
def State.privVa (s : State) (wv : Wave) (l o : Nat) : Nat :=
  let t := s.teamOf wv
  let g := s.gridOf t
  g.privBase + (((t.priv.getD 0) * g.entry.waves + wv.rank) * (g.privSize / 4) + o / 4) * 128 + 4 * l + o % 4
/-- R160, for a lane of the wave at hand. -/
def Env.privVa (e : Env) (l o : Nat) : Nat := e.s.privVa e.wv l o

/-- R252: the offset of a private access, checked and translated word by word. -/
def Env.privPlace (e : Env) (f : FM) (acc : Access) (n l : Nat) : Nat ⊕ LaneFault :=
  let g := e.s.gridOf e.team
  let o : Int := (e.src constInt f.a l : Int) + f.offset * n
  let bad : LaneFault := .cause 0x43 (BitVec.ofInt 64 o)
  if e.berth || g.privSize = 0 || g.entry.waves ≤ e.wv.rank || o < 0 || (g.privSize : Int) < o + n || o.toNat % n != 0 then .inr bad
  else
    match (List.range ((n + 3) / 4)).findSome? fun k =>
        let va := e.privVa l (o.toNat + 4 * k)
        match (if acc = 0 then none else e.ctx.writeFault va (min n 4)) with
        | some x => some x
        | none => match e.s.rangeFault e.wv.ctxn va (min n 4) acc e.wv.core with
          | some f => some (.xlate f)
          | none => if e.s.rangeWaits e.wv.ctxn va (min n 4) acc e.wv.core then some .wait else none with
    | some x => .inr x
    | none => .inl o.toNat

/-- LDP. -/
def formLdp (f : FM) : Form := formLoad f [0, 1, 2, 3, 4, 5, 6] [0] false false
/-- R160, R252: private bytes of a lane; one the wave has not written is undefined. -/
def Wave.privRead (wv : Wave) (l o n free : Nat) : List Byte := (List.range n).map fun i => (mget wv.priv (privKey l (o + i))).getD (freeByte (free + i))
/-- LDP (R252): a byte the wave has not written is undefined (R160). -/
def execLdp (f : FM) (s : State) : Out :=
  let m := f.mod.toNat % 8
  let n := sizeOf8 m
  issue (formLdp f) f.pred [] (tokenOf f) s fun e =>
    match checkLanes e.L (e.privPlace f 0 n) with
    | (ps, []) =>
      if e.behind != 0 then e.defer (.ldp f) f (ps.map fun p => (p.1, [p.2])) fun l => e.slots f.d (regsOf8 m) l
      else
      let (b, s) := e.s.fresh 1024
      e.long (tokenOf f) (!f.tv) (fun l => match mget ps l with
        | some o => { regs := e.loaded f.d m l (e.wv.privRead l o n (b + 32 * l)) }
        | none => {}) s
    | (_, fs) => e.laneFault e.s 0 fs

/-- Stores private bytes of a lane of wave w; what their line holds in memory is open, since lines are written back or dropped (R160). -/
def privWrite (w l o : Nat) : List Byte → Nat → State → State
  | [], _, s => s
  | b :: bs, i, s =>
    let (n, s) := s.fresh 1
    let wv := s.wave w
    let s := s.vwrite wv.ctxn (s.privVa wv l (o + i)) [freeByte n] wv.core
    privWrite w l o bs (i + 1) (s.updWave w fun x => { x with priv := mset x.priv (privKey l (o + i)) b })

/-- STP. -/
def formStp (f : FM) : Form := formStore f [0, 2, 4, 5, 6] [0] false
/-- STP (R252). -/
def execStp (f : FM) (s : State) : Out :=
  let m := f.mod.toNat % 8
  let n := sizeOf8 m
  issue (formStp f) f.pred [] (tokenOf f) s fun e =>
    match checkLanes e.todo (e.privPlace f 1 n) with
    | (ps, []) =>
      let e := e.upWave (e.markPerf e.todo)
      if ps.any fun p => inMask e.behind p.1 then e.defer (.stp f) f (ps.map fun p => (p.1, [p.2, leNat (e.stored f.d m p.1)])) fun _ => []
      else
      let s := ps.foldl (fun s p => privWrite e.w p.1 p.2 (e.stored f.d m p.1) 0 s) e.s
      e.long (tokenOf f) (!f.tv) (fun _ => {}) s
    | (_, fs) => e.laneFault e.s 1 fs

/-! ## Local places (R245, R251, R287, R290) -/

/-- A place in local store: the team and the offset. -/
structure LPlace where
  team : Nat
  off : Nat
  deriving DecidableEq, Repr, Inhabited

/-- The local store of a team. -/
def State.loc (s : State) (t : Nat) : Local := ((mget s.teams t).getD default).loc

/-- The team of a gang rank. -/
def State.peerOf (s : State) (g rank : Nat) : Option Nat :=
  (s.gangTeams g).find? fun t => ((mget s.teams t).getD default).gangRank == rank

/-- R245: the place of a local address; `round` takes the line that holds it (R301). -/
def Env.localAt (e : Env) (a : Int) (round : Bool) : LPlace ⊕ LaneFault :=
  let x : DWord := BitVec.ofInt 64 a
  let no (c : Nat) : LPlace ⊕ LaneFault := .inr (.cause c x)
  if a < 0 then no 0x40
  else
    let n := a.toNat
    let rank := bits n 21 18
    let o := n % 2 ^ 18
    let off := if round then o / 128 * 128 else o
    let go (t : Nat) : LPlace ⊕ LaneFault :=
      if (e.s.loc t).size ≤ off then no 0x60 else if !e.s.pageReady t (off / 8192) then .inr .wait else .inl { team := t, off := off }
    if 2 ^ 23 ≤ n then no 0x64
    else if !bitAt n 22 then (if rank != 0 then no 0x64 else go e.wv.team)
    else match e.team.gang with
      | none => no 0x61
      | some g => match e.s.peerOf g rank with
        | none => no 0x62
        | some t => go t

/-- R245, R246: the place of an FM instruction's local access of `n` bytes in a lane. -/
def Env.localPlace (e : Env) (f : FM) (n l : Nat) : LPlace ⊕ LaneFault :=
  let a : Int := (e.src constInt f.a l : Int) + f.offset * n
  match e.localAt a false with
  | .inl p => if p.off % n != 0 then .inr (.cause 0x41 (BitVec.ofInt 64 a)) else .inl p
  | .inr x => .inr x

/-- Whether a place lies in a FIFO window (R289). -/
def State.inFifo (s : State) (p : LPlace) : Bool := (s.loc p.team).fifo (p.off / 8192)

/-- The address that a place's faults report: the lane's effective address. -/
def Env.localEa (e : Env) (f : FM) (n l : Nat) : DWord := BitVec.ofInt 64 ((e.src constInt f.a l : Int) + f.offset * n)

/-- R251, R287, R329: whether a wave may write a place. -/
def State.ownFault (s : State) (p : LPlace) (n : Nat) (ea : DWord) : Option LaneFault :=
  match ((s.loc p.team).tagAt (p.off / 128)).tag with
  | .filling => some (.cause 0x65 ea)
  | .draining => some (.cause 0x66 ea)
  | _ => if ((mget s.teams p.team).getD default).inPlane p.off n then some (.cause 0x74 ea) else none

/-- R329: bytes of local store as a wave reads them. -/
def State.lread (s : State) (p : LPlace) (n free : Nat) : List Byte :=
  let t := (mget s.teams p.team).getD default
  let bs := t.loc.read p.off n
  if t.slots.isEmpty then bs else mapIx (fun i b => if t.inNext (p.off + i) then freeByte (free + i) else b) 0 bs

/-- Writes bytes of local store, pinning its pages (R286). -/
def State.lwrite (s : State) (p : LPlace) (bs : List Byte) : State :=
  (s.pinRange p.team p.off bs.length).updTeam p.team fun t => { t with loc := t.loc.write p.off bs }

/-! ### FIFO windows (R289, R290) -/

/-- A FIFO operation of one lane: the window (team, page), its bytes, and what it pushes. -/
structure FifoOp where
  team : Nat
  page : Nat
  n : Nat
  push : Option (List Byte)
  deriving DecidableEq, Repr, Inhabited

/-- The contents of a FIFO. -/
def State.fifoOf (s : State) (t page : Nat) : List Byte := (mget (s.loc t).fifos page).getD []

/-- R290: the windows have room for, or hold, the bytes of every lane. -/
def State.fifoReady (s : State) (ops : List FifoOp) : Bool :=
  ops.all fun o =>
    let mine := ops.filter fun x => x.team == o.team && x.page == o.page
    let total := mine.foldl (fun a x => a + x.n) 0
    let have_ := (s.fifoOf o.team o.page).length
    match o.push with
    | some _ => decide (have_ + total ≤ 8192)
    | none => decide (total ≤ have_)

/-- One lane's push or pop: what it popped. -/
def State.fifoStep (s : State) (o : FifoOp) : List Byte × State :=
  let q := s.fifoOf o.team o.page
  let s := s.pin o.team o.page
  let set (x : List Byte) : State := s.updTeam o.team fun t => { t with loc := { t.loc with fifos := mset t.loc.fifos o.page x } }
  match o.push with
  | some bs => ([], set (q ++ bs))
  | none => (q.take o.n, set (q.drop o.n))

/-- The lanes' pushes and pops in ascending lane order. -/
def fifoRun : List (Nat × FifoOp) → State → List (Nat × List Byte) × State
  | [], s => ([], s)
  | (l, o) :: t, s =>
    let (bs, s) := s.fifoStep o
    let (r, s) := fifoRun t s
    ((l, bs) :: r, s)

/-- R290: sizes a window accepts. -/
def fifoSize (n : Nat) : Bool := n == 4 || n == 8 || n == 16

/-! ### LDL, LDLW, STL -/

/-- R251: whether a local load waits for its line: `w` for LDLW. -/
def State.loadWaits (s : State) (w : Bool) (p : LPlace) : Bool :=
  match ((s.loc p.team).tagAt (p.off / 128)).tag with
  | .filling => true
  | .full => false
  | _ => w

/-- A checked local load of a lane (R245, R251, R290). -/
def Env.loadPlace (e : Env) (f : FM) (w : Bool) (n l : Nat) : LPlace ⊕ LaneFault :=
  match e.localPlace f n l with
  | .inr x => .inr x
  | .inl p =>
    if !e.s.inFifo p then .inl p
    else if w then .inr (.cause 0x63 (e.localEa f n l))
    else if !fifoSize n then .inr (.cause 0x05 0)
    else .inl p

/-- The captured values of a parked local access: team, offset, data. -/
def parkLane (p : LPlace) (data : Nat) : List Nat := [p.team, p.off, data]

/-- R290: what the lanes at FIFO windows do. -/
def windowOps (ps : List (Nat × LPlace)) (n : Nat) (data : Nat → Option (List Byte)) : List (Nat × FifoOp) :=
  ps.map fun p => (p.1, { team := p.2.team, page := p.2.off / 8192, n := n, push := data p.1 })

/-- A local load (R250, R251): lanes whose line is FILLING (or not FULL, for LDLW) park, and lanes held behind an earlier access
(R231); the lanes at FIFO windows go together (R290), each once whatever the replays (R53). -/
def localLoad (fm : Form) (i : Instr) (w : Bool) (f : FM) (s : State) : Out :=
  let m := f.mod.toNat % 8
  let n := sizeOf8 m
  issue fm f.pred [] (tokenOf f) s fun e =>
    match checkLanes e.L (e.loadPlace f w n) with
    | (ps, []) =>
      let ps := ps.filter fun p => !e.s.inFifo p.2 || !inMask e.performed p.1
      let fl := ps.filter fun p => e.s.inFifo p.2
      let e := e.upWave fun wv => if fl.isEmpty then wv else e.markPerf (maskOf fun l => (mget fl l).isSome) wv
      let ops := windowOps fl n fun _ => none
      let pop := e.s.fifoReady (ops.map (·.2)) && fl.all fun p => !inMask e.behind p.1
      let wait := ps.filter fun p => if e.s.inFifo p.2 then !pop else e.s.loadWaits w p.2 || inMask e.behind p.1
      let s := ps.foldl (fun s p => s.pinRange p.2.team p.2.off n) e.s
      let dst (l : Nat) : List RegWrite := e.slots f.d (regsOf8 m) l
      let (pops, s) := if pop then fifoRun ops s else ([], s)
      let (b, s) := s.fresh 1024
      let now := ps.filter fun p => !wait.contains p
      let val (l : Nat) : List RegWrite := match mget pops l, mget now l with
        | some bs, _ => e.loaded f.d m l bs
        | none, some p => e.loaded f.d m l (e.s.lread p n (b + 32 * l))
        | none, none => []
      if wait.isEmpty then e.long (tokenOf f) (!f.tv) (fun l => { regs := val l }) s
      else
        let s := if now.isEmpty then s else s.launch e none false (now.flatMap fun p => val p.1) []
        e.park i (tokenOf f) (!f.tv) (wait.map fun p => (p.1, parkLane p.2 0)) dst s
    | (_, fs) => e.laneFault e.s 0 fs

/-- LDL. -/
def formLdl (f : FM) : Form := formLoad f allSizes [0, 1] false false
/-- LDL (R250, R251, R290). -/
def execLdl (f : FM) (s : State) : Out := localLoad (formLdl f) (.ldl f) false f s
/-- LDLW. -/
def formLdlw (f : FM) : Form := formLoad f allSizes [0] false false
/-- LDLW (R250, R251). -/
def execLdlw (f : FM) (s : State) : Out := localLoad (formLdlw f) (.ldlw f) true f s

/-- A checked local store of a lane. -/
def Env.storePlace (e : Env) (f : FM) (n l : Nat) : LPlace ⊕ LaneFault :=
  match e.localPlace f n l with
  | .inr x => .inr x
  | .inl p =>
    if e.s.inFifo p then (if fifoSize n then .inl p else .inr (.cause 0x05 0))
    else match e.s.ownFault p n (e.localEa f n l) with
      | some x => .inr x
      | none => .inl p

/-- STL. -/
def formStl (f : FM) : Form := formStore f storeSizes [0, 2] false
/-- R247: the lanes of a store or a read-modify-write that go now: those in turn, with no lower lane left behind that touches the same bytes
(`meet`); they take their places in ascending order. -/
def ascending {α : Type} (go : Nat → α → Bool) (meet : α → α → Bool) : List (Nat × α) → List α → List (Nat × α)
  | [], _ => []
  | x :: t, stay => if go x.1 x.2 && !stay.any (meet x.2) then x :: ascending go meet t stay else ascending go meet t (x.2 :: stay)

/-- STL (R250, R251, R290): lanes at FIFO windows push together or park together, and lanes held behind an earlier access park, with the
higher lanes that store to their bytes (R247). -/
def execStl (f : FM) (s : State) : Out :=
  let m := f.mod.toNat % 8
  let n := sizeOf8 m
  issue (formStl f) f.pred [] (tokenOf f) s fun e =>
    match checkLanes e.todo (e.storePlace f n) with
    | (ps, []) =>
      let e := e.upWave (e.markPerf e.todo)
      let fl := ps.filter fun p => e.s.inFifo p.2
      let ops := windowOps fl n fun l => some (e.stored f.d m l)
      let push := e.s.fifoReady (ops.map (·.2)) && fl.all fun p => !inMask e.behind p.1
      let now := ascending (fun l _ => !inMask e.behind l) (· == ·) (ps.filter fun p => !e.s.inFifo p.2) []
      let wait := ps.filter fun p => if e.s.inFifo p.2 then !push else !now.contains p
      let s := if push then (fifoRun ops e.s).2 else e.s
      let s := now.foldl (fun s p => s.lwrite p.2 (e.stored f.d m p.1)) s
      if wait.isEmpty then e.long (tokenOf f) (!f.tv) (fun _ => {}) s
      else e.park (.stl f) (tokenOf f) (!f.tv) (wait.map fun p => (p.1, parkLane p.2 (leNat (e.stored f.d m p.1)))) (fun _ => []) s
    | (_, fs) => e.laneFault e.s 1 fs

/-! ## Atomics (R255 to R258) -/

/-- R255: the width of an operation in bytes. -/
def atomWidth (op : Nat) : Nat := if op = 1 || op = 10 || op = 11 || op = 12 || op = 15 then 8 else 4

/-- R255: the new value and the flags. -/
def atomNew (op x b : Nat) : Nat × Flags :=
  match op with
  | 0 => ((x + b) % 2 ^ 32, 0)
  | 1 => ((x + b) % 2 ^ 64, 0)
  | 2 => (if sx 32 x ≤ sx 32 b then x else b, 0)
  | 3 => (min x b, 0)
  | 4 => (if sx 32 x ≤ sx 32 b then b else x, 0)
  | 5 => (max x b, 0)
  | 6 => (Nat.land x b, 0)
  | 7 => (Nat.lor x b, 0)
  | 8 => (Nat.xor x b, 0)
  | 9 => (b, 0)
  | 10 => (b, 0)
  | 11 => (Nat.lor x b, 0)
  | 12 => (Nat.land x b, 0)
  | 13 => (if b ≤ x then 0 else x + 1, 0)
  | 14 => fp32.finish 1 false 0 (Fv.add 1 (fp32.val x) (fp32.val b))
  | _ => (max x b, 0)

/-- What a read-modify-write stores: nothing when a comparison fails. -/
abbrev Rmw := Nat → Nat → Option Nat × Flags

/-- The registers of an operand, for the overlap rule of R247. -/
def vregs (spec : BitVec 8) (n : Nat) : List Nat := if spec.toNat < 0xE0 then rangeOf' spec.toNat n else []
where
  /-- Consecutive specifiers. -/
  rangeOf' (a n : Nat) : List Nat := (List.range n).map (a + ·)

/-- R247: D overlaps A or B, directly or through an index register. -/
def overlapD (d a b : Opd) : Bool :=
  let rs (o : Opd) := o.regs 192
  (rs d).any fun r => (rs a).contains r || (rs b).contains r

/-- The form of an atomic: operand registers `nd` of D and `nb` of B. -/
def formRmw (f : FM) (mods : List Nat) (nd nb : Nat) (glob cas : Bool) : Form :=
  let b := fmForm f mods [0, 1, 2, 3] true true true
  let d := dst 0 f.d nd
  let a := opdA f.a glob
  let bb := if cas then src 2 f.b nb (if nb = 2 then kVW else kVWonly) else src 2 f.b nb
  { b with rsv := b.rsv && (!cas || bits f.mod.toNat 3 1 == 0)
           ops := [d, a, bb]
           bad := if overlapD d a bb then [0] else [] }

/-- The lanes of a global read-modify-write in ascending order: what each read, its flags, and the state after. -/
def globalRmw (c w n : Nat) (g : Rmw) : List (Nat × Nat) → State → List (Nat × Nat × Flags) × State
  | [], s => ([], s)
  | (l, va) :: t, s =>
    let (b, s) := s.fresh 8
    let x := leNat (s.gread c w l va n b)
    let (y, fl) := g l x
    let s := match y with
      | some v => s.gwrite c w l va (leBytes n v)
      | none => s
    let (r, s) := globalRmw c w n g t s
    ((l, x, fl) :: r, s)

/-- The lanes of a local read-modify-write in ascending order. -/
def localRmw (n : Nat) (g : Rmw) : List (Nat × LPlace) → State → List (Nat × Nat × Flags) × State
  | [], s => ([], s)
  | (l, p) :: t, s =>
    let x := leNat ((s.loc p.team).read p.off n)
    let (y, fl) := g l x
    let s := match y with
      | some v => s.lwrite p (leBytes n v)
      | none => s
    let (r, s) := localRmw n g t s
    ((l, x, fl) :: r, s)

/-- The results of a read-modify-write. -/
def Env.rmwOut (e : Env) (f : FM) (n : Nat) (rs : List (Nat × Nat × Flags)) (l : Nat) : LaneOut :=
  match mget rs l with
  | some (x, fl) => { regs := if n = 8 then e.put64 f.d l x else e.put f.d 0 l x, flags := fl }
  | none => {}

/-- The operands of a read-modify-write in a lane: B, or the compared and the new value of `ACAS`. -/
def Env.rmwArgs (e : Env) (f : FM) (cas : Bool) (l : Nat) : List Nat :=
  let pair (k : Nat) : Nat := e.src64 (BitVec.ofNat 8 (f.b.toNat + k)) l
  if !cas then [if atomWidth f.mod.toNat = 8 then e.src64 f.b l else e.src constInt f.b l]
  else if f.mod.getLsbD 0 then [pair 0, pair 2]
  else [pair 0 % 2 ^ 32, pair 0 / 2 ^ 32]
/-- R255, R257: what a read-modify-write with given operands stores. -/
def rmwOf (f : FM) (cas : Bool) (a : List Nat) (x : Nat) : Option Nat × Flags :=
  if cas then (if x = a.getD 0 0 then some (a.getD 1 0) else none, 0)
  else
    let (y, fl) := atomNew f.mod.toNat x (a.getD 0 0)
    (some y, fl)
/-- The registers a read-modify-write's result goes to. -/
def Env.rmwDst (e : Env) (f : FM) (n l : Nat) : List RegWrite := if n = 8 then e.put64 f.d l (2 ^ 32) else e.put f.d 0 l 0

/-- A global read-modify-write of `n` bytes (R256, R257). -/
def rmwGlobal (fm : Form) (i : Instr) (f : FM) (n : Nat) (cas : Bool) (s : State) : Out :=
  issue fm f.pred [] (tokenOf f) s fun e =>
    match checkLanes e.L fun l => e.place 2 n (e.ea f n l) with
    | (ps, []) =>
      let e := e.watch ps true true
      if e.behind != 0 then e.defer i f (ps.map fun p => (p.1, e.heldAt 2 p.2 (e.rmwArgs f cas p.1))) (e.rmwDst f n)
      else
      let (rs, s) := globalRmw e.wv.ctxn e.w n (fun l => rmwOf f cas (e.rmwArgs f cas l)) ps e.s
      e.long (tokenOf f) (!f.tv) (e.rmwOut f n rs) s
    | (_, fs) => e.laneFault e.s 2 fs

/-- R256: a checked place of a local atomic. -/
def Env.atomPlace (e : Env) (f : FM) (n l : Nat) : LPlace ⊕ LaneFault :=
  match e.localPlace f n l with
  | .inr x => .inr x
  | .inl p =>
    if e.s.inFifo p then .inr (.cause 0x63 (e.localEa f n l))
    else match e.s.ownFault p n (e.localEa f n l) with
      | some x => .inr x
      | none => .inl p

/-- A local read-modify-write of `n` bytes (R256, R257). -/
def rmwLocal (fm : Form) (i : Instr) (f : FM) (n : Nat) (cas : Bool) (s : State) : Out :=
  issue fm f.pred [] (tokenOf f) s fun e =>
    match checkLanes e.L (e.atomPlace f n) with
    | (ps, []) =>
      if e.behind != 0 then e.defer i f (ps.map fun p => (p.1, p.2.team :: p.2.off :: e.rmwArgs f cas p.1)) (e.rmwDst f n)
      else
      let (rs, s) := localRmw n (fun l => rmwOf f cas (e.rmwArgs f cas l)) ps e.s
      e.long (tokenOf f) (!f.tv) (e.rmwOut f n rs) s
    | (_, fs) => e.laneFault e.s 2 fs

/-- ATOM and ATOML. -/
def formAtom (f : FM) (glob : Bool) : Form :=
  let n := atomWidth f.mod.toNat / 4
  formRmw f (List.range 16) n n glob false
/-- ATOM (R256). -/
def execAtom (f : FM) (s : State) : Out := rmwGlobal (formAtom f true) (.atom f) f (atomWidth f.mod.toNat) false s
/-- ATOML (R256). -/
def execAtoml (f : FM) (s : State) : Out := rmwLocal (formAtom f false) (.atoml f) f (atomWidth f.mod.toNat) false s
/-- ACAS and ACASL. -/
def formAcas (f : FM) (glob : Bool) : Form :=
  let n := if f.mod.getLsbD 0 then 2 else 1
  formRmw f (List.range 16) n (2 * n) glob true
/-- ACAS (R257). -/
def execAcas (f : FM) (s : State) : Out := rmwGlobal (formAcas f true) (.acas f) f (if f.mod.getLsbD 0 then 8 else 4) true s
/-- ACASL (R257). -/
def execAcasl (f : FM) (s : State) : Out := rmwLocal (formAcas f false) (.acasl f) f (if f.mod.getLsbD 0 then 8 else 4) true s

/-! ## FENCE, PREF, CCTL (R259 to R261) -/

/-- R50, R68: completes in the memory path, on its token alone. -/
def Env.tokenOnly (e : Env) (f : FM) : State :=
  if f.tv then e.long (tokenOf f) false (fun _ => {}) e.s else e.idle
/-- R235: a fence on its way: its token follows every older completion of the wave (log 26). -/
def Env.fenceDone (e : Env) (f : FM) : State :=
  if !f.tv || e.L = 0 then e.idle
  else e.done (e.s.updWave e.w fun wv =>
    { (wv.tokUp (tokenOf f)) with flights := wv.flights ++ [{ tok := tokenOf f, hold := 0, writes := [], flags := [], fence := true }] })

/-- FENCE. -/
def formFence (f : FM) : Form :=
  let b := fmForm f (List.range 16) [1, 2, 3] true true false
  { b with rsv := b.rsv && f.mod == 0 && f.d == 0 && f.a == 0 && f.b == 0 }
/-- FENCE (R235, R259): memory keeps one order of every access, so the fence changes no value; it completes when the earlier accesses of
its lanes have. It holds no clause, also without a token. -/
def execFence (f : FM) (s : State) : Out :=
  issue (formFence f) f.pred [] (tokenOf f) s fun e =>
    if e.behind = 0 then e.fenceDone f else e.park (.fence f) (tokenOf f) false ((lanesOf e.behind).map fun l => (l, [])) fun _ => []
/-- PREF. -/
def formPref (f : FM) : Form :=
  let b := fmForm f (List.range 16) [0, 1, 2, 3] true false true
  { b with rsv := b.rsv && bits f.mod.toNat 3 1 == 0 && f.d == 0 && f.b == 0, ops := [opdA f.a true] }
/-- PREF (R260). -/
def execPref (f : FM) (s : State) : Out :=
  issue (formPref f) f.pred [] (tokenOf f) s fun e => e.tokenOnly f
/-- CCTL. -/
def formCctl (f : FM) : Form :=
  let all := f.mod.toNat % 4 = 3
  let b := fmForm f (List.range 16) [0, 1, 2, 3] true false (!all)
  { b with rsv := b.rsv && bits f.mod.toNat 3 2 == 0 && f.d == 0 && f.b == 0 && (!all || f.a == 0)
           ops := if all then [] else [opdA f.a true] }
/-- R261: a maintenance operation needs a present translation and no permission. -/
def State.maintFault (s : State) (c va ag : Nat) : Option TFault :=
  match s.translate c va 0 ag with
  | .ok .. => none
  | .bad k lv sz => if k = 1 || k = 2 || k = 3 || k = 5 then none else some { va := va, kind := k, level := lv, size := sz }
/-- CCTL (R261). -/
def execCctl (f : FM) (s : State) : Out :=
  issue (formCctl f) f.pred [] (tokenOf f) s fun e =>
    if f.mod.toNat % 4 = 3 then e.tokenOnly f
    else
      match checkLanes e.L fun l => match e.ea f 1 l with
        | .inr x => .inr x
        | .inl va => match e.s.maintFault e.wv.ctxn va e.wv.core with
          | some x => .inr (.xlate x)
          | none => .inl va with
      | (_, []) => e.tokenOnly f
      | (_, fs) => e.laneFault e.s 0 fs

/-! ## Zero-compressed segments (R262, R263) -/

/-- STZ and LDZ. -/
def formSeg (f : FM) (st : Bool) : Form :=
  let b := fmForm f (List.range 16) (if st then [0, 2] else [0, 1]) true true true
  { b with rsv := b.rsv && bits f.mod.toNat 2 1 == 0
           ops := [if st then src 0 f.d 1 kV else dst 0 f.d 1 kV, opdA f.a true, src 2 f.b] }
/-- R262: bytes and count of elements. -/
def segElem (f : FM) : Nat × Nat := if f.mod.getLsbD 0 then (4, 32) else (2, 64)
/-- R262: the total bytes of a segment of `n` nonzero elements of `e` bytes. -/
def segBytes (n e : Nat) : Nat := 16 + 16 * ((n * e + 15) / 16)
/-- R262: a segment of elements of `e` bytes. -/
def segment (e : Nat) (els : List Nat) : List Byte :=
  let nz := els.filter (· != 0)
  let mask := (List.range els.length).foldl (fun a i => if els.getD i 0 = 0 then a else a + 2 ^ i) 0
  let t := segBytes nz.length e
  let body := leBytes 2 nz.length ++ leBytes 2 els.length ++ leBytes 4 t ++ leBytes 8 mask ++ nz.flatMap (leBytes e)
  body ++ List.replicate (t - body.length) 0
/-- R262: the elements a mask and packed values expand to. -/
def expand (e : Nat) (mask : Nat) : Nat → Nat → List Byte → List Nat
  | 0, _, _ => []
  | n + 1, i, vals =>
    if bitAt mask i then leNat (vals.take e) :: expand e mask n (i + 1) (vals.drop e) else 0 :: expand e mask n (i + 1) vals

/-- The elements of the wave's data register: zero outside L. -/
def Env.segEls (e : Env) (f : FM) : List Nat :=
  (List.range (segElem f).2).map fun i =>
    let half := (segElem f).1 = 2
    let l := if half then i / 2 else i
    let x := if inMask e.L l then (e.rv f.d.toNat l).toNat else 0
    if half then x / 65536 ^ (i % 2) % 65536 else x

/-- A segment fault: in every lane of L (R263, log 168). -/
def Env.segFault (e : Env) (c a : Nat) : State := e.fault c e.L (BitVec.ofNat 64 a)

/-- STZ (R263): one effect of the wave, in the turn of all its lanes. -/
def execStz (f : FM) (s : State) : Out :=
  issue (formSeg f true) f.pred [] (tokenOf f) s fun e =>
    if e.L = 0 || e.performed &&& e.L != 0 then e.long (tokenOf f) (!f.tv) (fun _ => {}) e.s
    else match e.ea f 16 e.l0 with
      | .inr x => e.laneFault e.s 1 [(e.l0, x)]
      | .inl a =>
        let seg := segment (segElem f).1 (e.segEls f)
        if e.src constInt f.b e.l0 < seg.length then e.segFault 0x44 a
        else if 2 ^ 57 < a + seg.length then e.laneFault e.s 1 [(e.l0, .cause 0x40 (BitVec.ofNat 64 a))]
        else match e.place 1 seg.length (.inl a) with
          | .inr x => e.laneFault e.s 1 [(e.l0, x)]
          | .inl _ =>
            let e := e.upWave (e.markPerf e.L)
            if e.behind != 0 then
              e.defer (.stz f) f ((lanesOf e.L).map fun l => (l, a :: seg.length :: leNat seg :: e.s.placesOf e.wv.ctxn a seg.length 1 e.wv.core)) fun _ => []
            else
            e.long (tokenOf f) (!f.tv) (fun _ => {}) (e.s.gwrite e.wv.ctxn e.w e.l0 a seg)

/-- LDZ (R263): its faults depend on the bytes it reads (log 125). -/
def execLdz (f : FM) (s : State) : Out :=
  issueAfter (formSeg f false) f.pred [] (tokenOf f) s fun e =>
    if e.L = 0 then e.long (tokenOf f) (!f.tv) (fun _ => {}) e.s
    else match e.place 0 16 (e.ea f 16 e.l0) with
      | .inr x => e.laneFault e.s 0 [(e.l0, x)]
      | .inl a =>
        let (b, s) := e.s.fresh 1024
        let hd := e.s.gread e.wv.ctxn e.w e.l0 a 16 b
        let num (o n : Nat) : Nat := leNat ((hd.drop o).take n)
        let (es, cnt) := segElem f
        let n := num 0 2
        let t := num 4 4
        let mask := num 8 8
        if e.src constInt f.b e.l0 < t then e.segFault 0x44 a
        else if decide (64 < n) || num 2 2 != cnt || mask / 2 ^ cnt != 0 || popN 64 mask != n || t != segBytes n es then e.segFault 0x45 a
        else if 2 ^ 57 < a + t then e.laneFault e.s 0 [(e.l0, .cause 0x40 (BitVec.ofNat 64 a))]
        else match e.s.rangeFault e.wv.ctxn (a + 16) (t - 16) 0 e.wv.core with
          | some x => e.laneFault e.s 0 [(e.l0, .xlate x)]
          | none =>
            let els := expand es mask cnt 0 (e.s.gread e.wv.ctxn e.w e.l0 (a + 16) (t - 16) (b + 16))
            e.long (tokenOf f) (!f.tv) (fun l =>
              { regs := e.put f.d 0 l (if es = 2 then els.getD (2 * l) 0 + 65536 * els.getD (2 * l + 1) 0 else els.getD l 0) }) s

/-! ## Held accesses -/

/-- R281: the global accesses of a park that were translated at issue: of each its lane, its address, its bytes and its places. -/
def Park.held (p : Park) : List (Nat × Nat × Nat × List Nat) :=
  let each (n : Nat) : List (Nat × Nat × Nat × List Nat) := p.lanes.map fun l => (l.1, l.2.headD 0, n, [l.2.getD 1 0])
  match p.instr with
  | .ld f => each (sizeOf8 (f.mod.toNat % 8))
  | .st f => each (sizeOf8 (f.mod.toNat % 8))
  | .atom f => each (atomWidth f.mod.toNat)
  | .acas f => each (if f.mod.getLsbD 0 then 8 else 4)
  | .signal _ => each 8
  | .shld f => if f.imm.getLsbD 4 then [] else each 64
  | .stz _ => p.lanes.map fun l => (l.1, l.2.headD 0, l.2.getD 1 0, l.2.drop 3)
  | _ => []
/-- The operation of a park stores to memory. -/
def Park.writes (p : Park) : Bool :=
  match p.instr with
  | .st _ | .atom _ | .acas _ | .signal _ | .stz _ | .stp _ => true
  | _ => false
/-- The operation of a park reaches private memory, whose bytes lie scattered (R160). -/
def Park.private_ (p : Park) : Bool :=
  match p.instr with
  | .ldp _ | .stp _ => true
  | _ => false
/-- R277: the address of a place that lanes of a park are to reach, in a frame that the device has retired since. -/
def Park.gone (p : Park) (s : State) (ls : List Nat) : Option Nat :=
  p.held.findSome? fun x => if ls.contains x.1 then x.2.2.2.findSome? s.placeGone else none
/-- R281: parks of a context with an access that was translated before and is still to be made, which `sel` selects. -/
def State.heldIn (s : State) (c : Nat) (sel : Park → Nat → Nat → Bool) : Bool :=
  s.waves.any fun w => w.2.ctxn == c && w.2.parks.any fun p => (p.private_ && sel p 0 (2 ^ 57)) || p.held.any fun x => sel p x.2.1 x.2.2.1

end Sys2Proof.Machine
end

