-- ==== Sys2Proof/Machine/Shape.lean ====
section
/-! DEFINITION. Shapes and tiles (R293, R352, R353): the fields of a shape register, its checks, where an element and a
scale record lie, and the tile that a box cuts out. -/
namespace Sys2Proof.Machine

/-! ## Formats (R17, R23) -/

/-- R17: the bits of an element by format code. -/
def fmtBits (fmt : Nat) : Nat := [32, 16, 16, 64, 8, 8, 8, 5, 3, 8, 8, 4, 64].getD fmt 0
/-- Whether a format code is a block format. -/
def isZb (fmt : Nat) : Bool := decide (6 ≤ fmt) && decide (fmt ≤ 8)
/-- The bytes of a block of sixteen elements. -/
def blockBytes (fmt : Nat) : Nat := 2 * fmtBits fmt
/-- The next multiple of 128. -/
def up128 (n : Nat) : Nat := (n + 127) / 128 * 128
/-- The product of a list. -/
def prod (l : List Nat) : Nat := l.foldl (· * ·) 1

/-- The bytes that `n` dense elements take from offset `off`, the scale records and the gap before them included (R293). -/
def extent (fmt off n : Nat) : Nat :=
  let b := (n * fmtBits fmt + 7) / 8
  if isZb fmt then up128 (off + b) + 2 * (n / 16) - off else b
/-- R293: the bytes of a tile of `n` elements, scale records counted. -/
def tileBytes (fmt n : Nat) : Nat := (n * fmtBits fmt + 7) / 8 + (if isZb fmt then 2 * (n / 16) else 0)

/-! ## Shapes (R352) -/

/-- R352: the fields of a shape register; `box` holds sizes. -/
def shapeOf (x : Nat) : Shape :=
  { base := bits x 63 0, scaleBase := bits x 127 64, fmt := bits x 131 128, rank := bits x 134 132
    space := bits x 136 135, oob := BitVec.ofNat 32 (bits x 191 160)
    dims := (List.range 5).map fun i => bits x (192 + 24 * i + 23) (192 + 24 * i)
    strides := (List.range 4).map fun i => bits x (312 + 40 * i + 39) (312 + 40 * i)
    box := (List.range 5).map fun i => bits x (472 + 8 * i + 7) (472 + 8 * i) + 1
    reserved := bits x 159 137 != 0 }

/-- A dimension. -/
def Shape.dim (sh : Shape) (i : Nat) : Nat := sh.dims.getD i 0
/-- The stride of a dimension from 1. -/
def Shape.stride (sh : Shape) (i : Nat) : Nat := sh.strides.getD (i - 1) 0
/-- R356, R363: the box size of a dimension as an engine command takes it, whatever the rank. -/
def Shape.boxOf (sh : Shape) (i : Nat) : Nat := sh.box.getD i 1
/-- A box size of a tile transfer; beyond the rank it takes no part (log 43). -/
def Shape.boxAt (sh : Shape) (i : Nat) : Nat := if i < sh.rank then sh.box.getD i 1 else 1
/-- The box sizes. -/
def Shape.boxes (sh : Shape) : List Nat := (List.range 5).map sh.boxAt
/-- The elements of the tensor. -/
def Shape.elems (sh : Shape) : Nat := prod ((List.range sh.rank).map sh.dim)

/-- R353: the unit that strides are multiples of. -/
def Shape.unit (sh : Shape) : Nat :=
  if sh.space = 2 then 8 else if isZb sh.fmt then blockBytes sh.fmt else max 1 (fmtBits sh.fmt / 8)

/-- R352, R353: the fields are well formed. -/
def Shape.fieldsOk (sh : Shape) : Bool :=
  !sh.reserved && decide (1 ≤ sh.rank) && decide (sh.rank ≤ 5) && sh.space != 3 && decide (sh.fmt ≤ 12) &&
    (List.range 5).all (fun i => (decide (i < sh.rank)) == (sh.dim i != 0)) &&
    (List.range 4).all (fun j =>
      let x := sh.stride (j + 1)
      if sh.rank ≤ j + 1 || sh.space == 1 then x == 0 else x % sh.unit == 0) &&
    decide (sh.base < [2 ^ 57, 2 ^ 23, 256, 0].getD sh.space 0) &&
    (if isZb sh.fmt then (sh.space == 1 || sh.scaleBase % 2 == 0 && decide (sh.scaleBase < 2 ^ 57)) else sh.scaleBase == 0)

/-- R353: the cause of a shape an instruction does not accept; `ok` says which spaces and formats it takes. -/
def Shape.cause (sh : Shape) (ok : Nat → Nat → Bool) : Option Nat :=
  if !sh.fieldsOk then some 0x67
  else if !ok sh.space sh.fmt then some 0x6B
  else if isZb sh.fmt && sh.dim 0 % 16 != 0 then some 0x69
  else none

/-! ## Places of elements (R353) -/

/-- R353: an element is in bounds. -/
def Shape.inb (sh : Shape) (c : List Int) : Bool :=
  (List.range sh.rank).all fun i => decide (0 ≤ c.getD i 0) && decide (c.getD i 0 < sh.dim i)
/-- c1 + DIM1 × (c2 + DIM2 × (…)). -/
def Shape.lin (sh : Shape) (c : List Int) : Nat :=
  (List.range' 1 (sh.rank - 1)).foldr (fun i acc => (c.getD i 0).toNat + sh.dim i * acc) 0
/-- R353: the bit address of an element, from a base. -/
def Shape.bitAddr (sh : Shape) (base : Nat) (c : List Int) : Nat :=
  let c0 := (c.getD 0 0).toNat
  if sh.space = 1 then 8 * base + (c0 + sh.dim 0 * sh.lin c) * fmtBits sh.fmt
  else 8 * (base + (List.range' 1 (sh.rank - 1)).foldl (fun a i => a + (c.getD i 0).toNat * sh.stride i) 0) + c0 * fmtBits sh.fmt
/-- R353: the address of the scale record of an element's block. -/
def Shape.scaleAddr (sh : Shape) (base : Nat) (c : List Int) : Nat :=
  let b := (c.getD 0 0).toNat / 16 + sh.dim 0 / 16 * sh.lin c
  (if sh.space = 1 then up128 (base + sh.elems * fmtBits sh.fmt / 8) else sh.scaleBase) + 2 * b

/-- The mixed-radix digits of an index: the coordinates in a box, dimension 0 fastest. -/
def digits : List Nat → Nat → List Nat
  | [], _ => []
  | b :: t, i => i % b :: digits t (i / b)
/-- The coordinates of element `i` of a box at an origin. -/
def coordAt (org : List Int) (box : List Nat) (i : Nat) : List Int :=
  List.zipWith (fun (d : Nat) (o : Int) => o + d) (digits box i) (org ++ List.replicate 5 0)

/-! ## Bits in bytes -/

/-- `n` bits from a bit address, through a reader of bytes. -/
def readBits (rd : Nat → Nat → List Byte) (b n : Nat) : Nat :=
  leNat (rd (b / 8) ((b % 8 + n + 7) / 8)) / 2 ^ (b % 8) % 2 ^ n
/-- The chunk that writes `n` bits at a bit address. -/
def bitChunk (b n x : Nat) : Chunk :=
  let k := (b % 8 + n + 7) / 8
  { addr := b / 8, data := leBytes k (x % 2 ^ n * 2 ^ (b % 8)), mask := leBytes k ((2 ^ n - 1) * 2 ^ (b % 8)) }
/-- A chunk of whole bytes. -/
def byteChunk (a : Nat) (bs : List Byte) : Chunk := { addr := a, data := bs, mask := bs.map fun _ => 0xFF }
/-- The bytes after a chunk is written over old ones. -/
def Chunk.over (c : Chunk) (old : List Byte) : List Byte :=
  (old.zip (c.data.zip c.mask)).map fun x => (x.1 &&& ~~~ x.2.2) ||| (x.2.1 &&& x.2.2)
/-- The bytes of a chunk. -/
def Chunk.len (c : Chunk) : Nat := c.data.length

/-- A piece of a tile: the bit address in the tensor, the bit place in the dense slot (from its offset), the bits. -/
structure Piece where
  there : Nat
  here : Nat
  n : Nat
  deriving DecidableEq, Repr, Inhabited

/-- R293: the in-bounds pieces of a tile whose slot starts at `off`: its elements and its scale records; `base` is the
tensor's base. -/
def Shape.tile (sh : Shape) (base off : Nat) (org : List Int) : List Piece :=
  let n := prod sh.boxes
  let w := fmtBits sh.fmt
  let els := (List.range n).filterMap fun i =>
    let c := coordAt org sh.boxes i
    if sh.inb c then some { there := sh.bitAddr base c, here := i * w, n := w } else none
  let recs := if isZb sh.fmt then (List.range (n / 16)).filterMap fun b =>
      let c := coordAt org sh.boxes (16 * b)
      if sh.inb c then
        some { there := 8 * sh.scaleAddr base c, here := 8 * (up128 (off + n * w / 8) - off + 2 * b), n := 16 }
      else none
    else []
  els ++ recs

/-- The bytes of pieces; bits that make no whole byte do not count (log 42). -/
def pieceBytes (ps : List Piece) : Nat := (ps.foldl (fun a p => a + p.n) 0) / 8

/-- R293: the rules of a tile at a slot: alignment of a ZB tile, of the box, the tile's size, the slot within LOCAL. -/
def Shape.tileCause (sh : Shape) (size off : Nat) (org : List Int) : Option Nat :=
  let n := prod sh.boxes
  if isZb sh.fmt && (sh.boxAt 0 % 16 != 0 || org.getD 0 0 % 16 != 0) then some 0x69
  else if !isZb sh.fmt && sh.boxAt 0 * fmtBits sh.fmt % 8 != 0 then some 0x68
  else if 65536 < tileBytes sh.fmt n then some 0x68
  else if size < off + extent sh.fmt off n then some 0x6A
  else none

end Sys2Proof.Machine
end

