-- ==== Sys2Proof/Machine/Copy.lean ====
section
/-! DEFINITION. Copies and reductions, opcodes 0x94 to 0x98 (R287 to R300): their forms, their meanings, and the events that
complete them; and arrival counters (R308). -/
namespace Sys2Proof.Machine

/-! ## Fields of FE -/

/-- Bits of the immediate of an FE word. -/
def feBits (f : FE) (hi lo : Nat) : Nat := bits f.imm.toNat hi lo
/-- R58: the token of an engine instruction. -/
def feTok (f : FE) : Nat := f.mod.toNat

/-- A register `k` further than a `v` or `w` specifier, in a lane. -/
def Env.regAt (e : Env) (spec : BitVec 8) (k l : Nat) : Nat := e.src constInt (spec + BitVec.ofNat 8 k) l

/-- R364, R50: a shape register; its words pending are old or new. -/
def Env.shapeReg (e : Env) (n : Nat) : Nat :=
  let x := (e.wv.sh.getD n 0).toNat
  wordsNat ((List.range 16).map fun w => readPending e.s.ctr e.wv.flights .sh (16 * n + w) 0 (BitVec.ofNat 32 (x / 2 ^ (32 * w))))

/-! ## Arrival counters (R308) -/

/-- Word `k` of the counter at an offset: expected, landed, skipped. -/
def Local.ctrWord (lo : Local) (off k : Nat) : Nat := leNat (lo.read (off + 4 * k) 4)
/-- R308: the counter is complete. -/
def Local.ctrDone (lo : Local) (off : Nat) : Bool := decide (lo.ctrWord off 0 ≤ lo.ctrWord off 1 + lo.ctrWord off 2)
/-- R308: adds to landed and skipped, saturating. -/
def Local.ctrAdd (lo : Local) (off land skip : Nat) : Local :=
  lo.write (off + 4) (leBytes 4 (min 0xFFFFFFFF (lo.ctrWord off 1 + land)) ++ leBytes 4 (min 0xFFFFFFFF (lo.ctrWord off 2 + skip)))

/-- R299: the owner number of the lines a reduction's slot holds; a copy's is even. -/
def sumOwner (group : Nat) : Nat := 2 * group + 1
/-- The line of element `i` of a reduction's slot. -/
def SumSlot.line (x : SumSlot) (i : Nat) : Nat := (x.off + i * x.width) / 128
/-- R299: writes back one hidden sum: wrapped, or saturated with OVF. -/
def SumSlot.writeBack (x : SumSlot) (lo : Local) (kv : Nat × Int) : Local :=
  let n := 8 * x.width
  let v := if x.fx then clampInt (intLo true 64) (intHi true 64) kv.2 else kv.2
  let lo := lo.write (x.off + kv.1 * x.width) (leBytes x.width (wrapNat n v))
  let k := x.line kv.1
  if v = kv.2 then lo else lo.setTag k { (lo.tagAt k) with ovf := true }
/-- R287, R299: a slot whose counter has completed turns FULL. -/
def SumSlot.close (x : SumSlot) (lo : Local) : Local :=
  let lo := x.sums.foldl x.writeBack lo
  (dedup (x.sums.map fun kv => x.line kv.1)).foldl (fun lo k => lo.setTag k { (lo.tagAt k) with tag := .full, owner := 0 }) lo
/-- R287: closes the slots of a complete counter. -/
def Local.closeSums (lo : Local) (off : Nat) : Local :=
  if !lo.ctrDone off then lo
  else
    let (mine, rest) := lo.sums.partition fun x => x.ctr == off
    mine.foldl (fun lo x => x.close lo) { lo with sums := rest }

/-- A change of the counter at an offset of a team (R308). -/
def State.onCounter (s : State) (t off : Nat) (g : Local → Local) : State :=
  (s.pinRange t off 16).updTeam t fun x => { x with loc := (g x.loc).closeSums off }

/-! ## Checks (R293, R295, R298, R300) -/

/-- R286, R287: what stops a copy at a range that it is to fill (`dst`) or read: a page that waits for a frame, a FIFO window, ownership, a
plane copy. -/
def State.rangeUse (s : State) (t off n : Nat) (dst : Bool) (ea : DWord) : Option LaneFault :=
  let lo := s.loc t
  if !s.rangeReady t off n then some .wait
  else if lo.fifoIn off n then some (.cause 0x63 ea)
  else match lo.busyLine off n with
    | some false => some (.cause 0x65 ea)
    | some true => some (.cause 0x66 ea)
    | none => if dst && ((mget s.teams t).getD default).inPlane off n then some (.cause 0x74 ea) else none

/-- A local offset of the wave's own team (R245, PEER 0). -/
def Env.ownAt (e : Env) (a : Int) : Nat ⊕ LaneFault :=
  if 0 ≤ a && a < 2 ^ 23 && bitAt a.toNat 22 then .inr (.cause 0x61 (BitVec.ofInt 64 a))
  else match e.localAt a false with
    | .inl p => .inl p.off
    | .inr x => .inr x

/-- R296, R329: a counter's offset; the count is a store, which no copy of a region takes. -/
def Env.counterAt (e : Env) (a : Nat) : Nat ⊕ LaneFault :=
  match e.ownAt a with
  | .inr x => .inr x
  | .inl o =>
    if o % 16 != 0 then .inr (.cause 0x41 (BitVec.ofNat 64 a))
    else if e.team.loc.fifoIn o 16 then .inr (.cause 0x63 (BitVec.ofNat 64 a))
    else if e.team.inPlane o 16 then .inr (.cause 0x74 (BitVec.ofNat 64 a)) else .inl o

/-- The registers a status goes to. -/
def Env.statusDst (e : Env) (d : BitVec 8) : List RegWrite := (lanesOf e.L).flatMap fun l => e.put d 0 l 0

/-- R291: a job begins: its token counts, its lines move to FILLING or DRAINING. -/
def Env.startJob (e : Env) (j : CopyJob) (t : Option Tag) (s : State) : State :=
  let (k, s) := s.newKey
  let s := if s.quiet e.w (s.wave e.w) then s else s.overwrite e.w j.dst
  let s := { s with copies := mset s.copies k j }
  let s := match t with
    | none => s
    | some tag =>
      let s := j.lines.foldl (fun (s : State) n => s.pin e.wv.team (n * 128 / 8192)) s
      s.updTeam e.wv.team fun x =>
        { x with loc := j.lines.foldl (fun lo n => lo.setTag n { (lo.tagAt n) with tag := tag, owner := 2 * k }) x.loc }
  e.done (s.updWave e.w fun wv => wv.tokUp (some j.tok))

/-- A job of an instruction before its particulars. -/
def Env.job (e : Env) (kind : CopyKind) (f : FE) : CopyJob :=
  { kind := kind, ctx := e.wv.ctxn, wave := e.w, team := e.wv.team, tok := feTok f, dst := e.statusDst f.d, chunks := [],
    vals := [], off := 0, ext := 0, lines := [], ctr := none, consume := false, group := none, cores := [], arrived := [],
    land := 0, skip := 0, bytes := 0, oob := false, conflict := false, moved := false }

/-! ## LCOPY and LCOPYO (R294 to R296) -/

/-- The bytes of an LCOPY lane. -/
def lcopySize (f : FE) : Nat := 4 * 2 ^ (feBits f 1 0)
/-- The form of LCOPY (`out` false) and LCOPYO. -/
def formLc (out : Bool) (f : FE) : Form :=
  let ctr := f.imm.getLsbD 3
  { rsv := feBits f 15 7 == 0 && (if out then !ctr && f.c == 0 else !f.imm.getLsbD 2 && (ctr || f.c == 0))
    mods := feBits f 1 0 != 3 && feBits f 6 4 != 7
    ops := [dst 0 f.d 1 kVWZ, src 1 f.a 2 kV, src 2 f.b] ++ (if !out && ctr then [src 3 f.c] else []) }

/-- R278: who translates for the copies of a wave: the Lighter of its cluster. -/
def Env.lighter (e : Env) : Nat := e.wv.agent 32
/-- R281: bytes that a copy will store to global memory, with the places its pages have now. -/
def Env.toGlobal (e : Env) (c : Chunk) : Chunk := { c with locs := e.s.placesOf e.wv.ctxn c.addr c.len 1 e.lighter }

/-- R295: a lane's checked addresses. -/
def Env.lcPlace (e : Env) (out : Bool) (f : FE) (l : Nat) : (Nat × Nat) ⊕ LaneFault :=
  let n := lcopySize f
  let ea : DWord := BitVec.ofNat 64 (e.src constInt f.b l)
  match e.placeBy e.lighter (if out then 1 else 0) n (eaOf (e.src64 f.a l) 0 n), e.ownAt (e.src constInt f.b l) with
  | .inr x, _ => .inr x
  | _, .inr x => .inr x
  | .inl g, .inl o =>
    if o % n != 0 then .inr (.cause 0x41 ea)
    else match e.s.rangeUse e.wv.team o n (!out) ea with
      | some x => .inr x
      | none => .inl (g, o)

/-- The status with nothing else to say. -/
def Env.emptyCopy (e : Env) (f : FE) : State :=
  e.long (some (feTok f)) false (fun l => { regs := e.put f.d 0 l 0x80000000 }) e.s

/-- LCOPY. -/
def formLcopy (f : FE) : Form := formLc false f
/-- LCOPY (R295): the bytes are read at issue and land at completion. -/
def execLcopy (f : FE) (s : State) : Out :=
  issueAfter (formLcopy f) f.pred [] (some (feTok f)) s fun e =>
    if e.L = 0 then e.emptyCopy f
    else
      let n := lcopySize f
      let ctr : Nat ⊕ LaneFault := if f.imm.getLsbD 3 then e.counterAt (e.src constInt f.c e.l0) else .inl 0
      match checkLanes e.L (e.lcPlace false f), ctr with
      | (_, x :: xs), _ => e.laneFault e.s 0 (x :: xs)
      | _, .inr x => e.laneFault e.s 0 [(e.l0, x)]
      | (ps, []), .inl c =>
        let (b, s) := e.s.fresh 1024
        e.startJob { (e.job .lcopy f) with
          chunks := ps.map fun p => byteChunk p.2.2 (e.s.readAs e.lighter e.wv.ctxn e.w p.1 p.2.1 n (b + 32 * p.1))
          lines := dedup (ps.map fun p => p.2.2 / 128)
          ctr := if f.imm.getLsbD 3 then some c else none
          land := n * ps.length } (some .filling) s
/-- LCOPYO. -/
def formLcopyo (f : FE) : Form := formLc true f
/-- LCOPYO (R295). -/
def execLcopyo (f : FE) (s : State) : Out :=
  issueAfter (formLcopyo f) f.pred [] (some (feTok f)) s fun e =>
    if e.L = 0 then e.emptyCopy f
    else
      let n := lcopySize f
      match checkLanes e.L (e.lcPlace true f) with
      | (_, x :: xs) => e.laneFault e.s 1 (x :: xs)
      | (ps, []) =>
        let (b, s) := e.s.fresh 1024
        e.startJob { (e.job .lcopyo f) with
          chunks := ps.map fun p => e.toGlobal (byteChunk p.2.1 (e.s.lread { team := e.wv.team, off := p.2.2 } n (b + 32 * p.1)))
          lines := dedup (ps.map fun p => p.2.2 / 128)
          consume := f.imm.getLsbD 2
          land := n * ps.length } (some .draining) s

/-! ## TCOPY, TCOPYO and TRED (R297 to R300) -/

/-- TCOPY. -/
def formTcopy (f : FE) : Form :=
  { rsv := feBits f 15 8 == 0 && f.c == 0
    mods := feBits f 7 5 != 7
    ops := [dst 0 f.d 1 kVWZ, { src 1 f.a 5 kVWonly with align := 1 }, src 2 f.b 4 kVWonly] }
/-- TCOPYO. -/
def formTcopyo (f : FE) : Form :=
  { rsv := feBits f 15 9 == 0 && feBits f 4 4 == 0 && f.c == 0
    mods := feBits f 7 5 != 7
    ops := [dst 0 f.d 1 kVWZ, { src 1 f.a 5 kVWonly with align := 1 }, src 2 f.b] }
/-- TRED. -/
def formTred (f : FE) : Form :=
  { rsv := feBits f 15 12 == 0 && feBits f 7 5 == 0 && f.a == 0
    mods := decide (feBits f 11 9 ≤ 2) && feBits f 4 4 == 1
    ops := [dst 0 f.d 1 kVWZ, src 2 f.b 4 kVWonly, src 3 f.c] }

/-- R297: what the four registers of B say: the cluster mask, the core mask, the group id, the counter and destination
offsets; none when a zero field is not zero. -/
structure TileDest where
  clusters : Nat
  cores : Nat
  group : Nat
  ctr : Nat
  off : Nat
  ok : Bool
  deriving DecidableEq, Repr, Inhabited

/-- R297: the destination registers of a lane. -/
def Env.tileDest (e : Env) (b : BitVec 8) (l : Nat) : TileDest :=
  let r (k : Nat) : Nat := e.regAt b k l
  { clusters := r 0 + 2 ^ 32 * r 1, cores := bits (r 2) 3 0, group := bits (r 2) 9 4, ctr := bits (r 2) 27 10,
    off := bits (r 3) 17 0, ok := bits (r 2) 31 28 == 0 && bits (r 3) 31 18 == 0 }

/-- R292: the cores named. -/
def TileDest.named (d : TileDest) : List Nat :=
  (List.range 64).flatMap fun c => if bitAt d.clusters c then ((List.range 4).filter (bitAt d.cores)).map (4 * c + ·) else []

/-- R297: the signed coordinates. -/
def Env.tileOrg (e : Env) (a : BitVec 8) (l : Nat) : List Int := (List.range 5).map fun k => sx 32 (e.regAt a k l)

/-- R292, R300: the teams that receive what team `k` sends: itself and those of its grid, on a named core, subscribed, not retired; a berth
team, which has no grid, sends to itself alone (log 150). -/
def State.receiversOf (s : State) (k : Nat) (cores : List Nat) (group : Option Nat) : List Nat :=
  let me := (mget s.teams k).getD default
  (s.teams.filter fun x =>
    let t := x.2
    (x.1 == k || (!t.berthTeam && !me.berthTeam && t.grid == me.grid)) && t.admitted && cores.contains t.core &&
      (match group with
       | some g => t.sub.getLsbD g
       | none => false)).map (·.1)
/-- R290, R292, R298: the checks of a destination: a slot of `ext` bytes or a counter on a FIFO window of a receiver among them (log 135). -/
def Env.destFault (e : Env) (d : TileDest) (ctr : Bool) (ext : Nat) : Option LaneFault :=
  let size := e.team.loc.size
  let fifo := (e.s.receiversOf e.wv.team d.named (some d.group)).any fun t =>
    (e.s.loc t).fifoIn d.off ext || (ctr && (e.s.loc t).fifoIn d.ctr 16)
  let foreign := (List.range 64).any fun c => bitAt d.clusters c && !(e.s.dev.mask e.team.part).getLsbD (c / 8)
  if !d.ok then some (.cause 0x67 0)
  else if foreign then some (.cause 0x6C 0)
  else if d.off % 128 != 0 then some (.cause 0x41 (BitVec.ofNat 64 d.off))
  else if ctr && d.ctr % 16 != 0 then some (.cause 0x41 (BitVec.ofNat 64 d.ctr))
  else if ctr && size ≤ d.ctr then some (.cause 0x60 (BitVec.ofNat 64 d.ctr))
  else if fifo then some (.cause 0x63 (BitVec.ofNat 64 d.off))
  else none

/-- A tile of a shape in global memory: the faults of its fields, its slot and its pages, else its pieces (R293, R298). -/
def Env.tilePieces (e : Env) (sh : Shape) (off : Nat) (org : List Int) (acc : Access) : List Piece ⊕ LaneFault :=
  match sh.cause (fun sp _ => sp == 0) with
  | some c => .inr (.cause c 0)
  | none => match sh.tileCause e.team.loc.size off org with
    | some c => .inr (.cause c 0)
    | none =>
      let ps := sh.tile sh.base off org
      match ps.findSome? fun p =>
          let va := p.there / 8
          let n := (p.there % 8 + p.n + 7) / 8
          if 2 ^ 57 < va + n then some (.cause 0x40 (BitVec.ofNat 64 va))
          else match e.placeBy e.lighter acc n (.inl va) with
            | .inr x => some x
            | .inl _ => none with
      | some x => .inr x
      | none => .inl ps

/-- TCOPY (R298): the tile is read at issue. -/
def execTcopy (f : FE) (s : State) : Out :=
  issueAfter (formTcopy f) f.pred [] (some (feTok f)) s fun e =>
    let l := e.l0
    let d := e.tileDest f.b l
    if e.L = 0 || (d.ok && d.named.isEmpty) then e.emptyCopy f
    else
      let sh := shapeOf (e.shapeReg (feBits f 3 0))
      let ctr := f.imm.getLsbD 4
      let org := e.tileOrg f.a l
      match e.destFault d ctr (extent sh.fmt d.off (prod sh.boxes)), e.tilePieces sh d.off org 0 with
      | some x, _ => e.laneFault e.s 0 [(l, x)]
      | none, .inr x => e.laneFault e.s 0 [(l, x)]
      | none, .inl ps =>
        let n := prod sh.boxes
        let tot := tileBytes sh.fmt n
        let (b, s) := e.s.fresh (8 * extent sh.fmt d.off n)
        e.startJob { (e.job .tcopy f) with
          chunks := ps.map fun p => bitChunk p.here p.n (readBits (fun a k => e.s.readAs e.lighter e.wv.ctxn e.w l a k (b + p.here)) p.there p.n)
          off := d.off, ext := extent sh.fmt d.off n, ctr := if ctr then some d.ctr else none, group := some d.group
          cores := d.named, land := tot, skip := tot - pieceBytes ps, oob := decide (pieceBytes ps < tot) } none s

/-- R298: a source range in local store: on a 128-byte boundary, within LOCAL, no line owned. -/
def Env.tileSource (e : Env) (a n : Nat) : Option LaneFault :=
  match e.ownAt a with
  | .inr x => some x
  | .inl o =>
    if o % 128 != 0 then some (.cause 0x68 0)
    else if e.team.loc.size < o + n then some (.cause 0x6A 0)
    else e.s.rangeUse e.wv.team o n false (BitVec.ofNat 64 a)

/-- TCOPYO (R298). -/
def execTcopyo (f : FE) (s : State) : Out :=
  issueAfter (formTcopyo f) f.pred [] (some (feTok f)) s fun e =>
    if e.L = 0 then e.emptyCopy f
    else
      let l := e.l0
      let o := e.src constInt f.b l
      let sh := shapeOf (e.shapeReg (feBits f 3 0))
      let n := prod sh.boxes
      match e.tilePieces sh o (e.tileOrg f.a l) 1, e.tileSource o (extent sh.fmt o n) with
      | .inr x, _ => e.laneFault e.s 1 [(l, x)]
      | .inl _, some x => e.laneFault e.s 1 [(l, x)]
      | .inl ps, none =>
        let tot := tileBytes sh.fmt n
        let (b, s) := e.s.fresh (extent sh.fmt o n)
        e.startJob { (e.job .tcopyo f) with
          chunks := ps.map fun p => e.toGlobal (bitChunk p.there p.n
            (readBits (fun a k => e.s.lread { team := e.wv.team, off := o + a } k (b + a)) p.here p.n))
          lines := linesOf o (extent sh.fmt o n), consume := f.imm.getLsbD 8
          land := tot, skip := tot - pieceBytes ps, oob := decide (pieceBytes ps < tot) } (some .draining) s

/-- R297: the bytes of a reduction's element. -/
def tredWidth (f : FE) : Nat := if feBits f 11 9 = 0 then 4 else 8

/-- TRED (R298): the source is read at issue. -/
def execTred (f : FE) (s : State) : Out :=
  issueAfter (formTred f) f.pred [] (some (feTok f)) s fun e =>
    let l := e.l0
    let d := e.tileDest f.b l
    if e.L = 0 || (d.ok && d.named.isEmpty) then e.emptyCopy f
    else
      let n := prod (shapeOf (e.shapeReg (feBits f 3 0))).box
      let w := tredWidth f
      let o := e.src constInt f.c l
      let bad : Option LaneFault :=
        if 65536 < n * w then some (.cause 0x68 0)
        else if e.team.loc.size < d.off + n * w then some (.cause 0x6A 0)
        else e.tileSource o (n * w)
      match e.destFault d true (n * w), bad with
      | some x, _ => e.laneFault e.s 0 [(l, x)]
      | none, some x => e.laneFault e.s 0 [(l, x)]
      | none, none =>
        let (b, s) := e.s.fresh (n * w)
        e.startJob { (e.job (.tred (feBits f 11 9)) f) with
          vals := (List.range n).map fun i => leNat (e.s.lread { team := e.wv.team, off := o + i * w } w (b + i * w))
          off := d.off, ext := n * w, lines := linesOf o (n * w), consume := f.imm.getLsbD 8, ctr := some d.ctr
          group := some d.group, cores := d.named, land := n * w } (some .draining) s

/-! ## Completion -/

/-- R291: the status word of a job; a count of bytes beyond 25 bits keeps its low bits (log 151). -/
def CopyJob.status (j : CopyJob) (undeliv : Bool) : Nat :=
  0x80000000 + bn j.oob * 2 ^ 30 + bn j.conflict * 2 ^ 29 + bn undeliv * 2 ^ 28 + j.bytes % 2 ^ 25

/-- Settles every wave of a team at its boundary. -/
def State.settleTeam (s : State) (t : Nat) : State := (s.liveWaves t).foldl (State.boundaryAt false) s

/-- Results land on a wave and its token goes down (R49, R40). -/
def State.landOn (s : State) (w tok : Nat) (ws : List RegWrite) : State :=
  s.updWave w fun wv => (wv.land ws).tokDown (some tok)

/-- R291: a job's status lands under its token. -/
def State.endJob (s : State) (k : Nat) (j : CopyJob) (status : Nat) : State :=
  let s := { s with copies := mdel s.copies k }
  (s.landOn j.wave j.tok (j.dst.map fun r => { r with val := BitVec.ofNat 32 status })).settleTeam j.team

/-- R287: a job's source lines return, to EMPTY or FULL. -/
def State.returnLines (s : State) (j : CopyJob) : State :=
  s.updTeam j.team fun x =>
    { x with loc := j.lines.foldl (fun lo n => lo.setTag n { (lo.tagAt n) with tag := if j.consume then .empty else .full, owner := 0 }) x.loc }

/-- Writes a chunk into local store, byte by byte, on the lines that `ok` admits. -/
def Local.chunk (lo : Local) (base : Nat) (ok : Nat → Bool) (c : Chunk) : Local :=
  let a := base + c.addr
  let new := c.over (lo.read a c.len)
  { lo with data := (List.range c.len).foldl (fun m i => if ok ((a + i) / 128) then writeCell m (a + i) (new.getD i 0) else m) lo.data }
/-- R281: stores a chunk at its places; the bits beside it keep what they hold. -/
def State.gchunk (s : State) (c w : Nat) (x : Chunk) : State := s.writeHeld c w 32 x.addr x.locs (x.over (s.readPlaces x.addr x.len x.locs))
/-- R281: a copy's stores to global memory are still to be made. -/
def CopyJob.owes (j : CopyJob) : Bool := j.kind == .lcopyo || (j.kind == .tcopyo && !j.moved)
/-- R128, R242: a store that passed its checks is still to be made in a range of a context. -/
def State.storesTo (s : State) (c va n : Nat) : Bool :=
  let meets (a k : Nat) : Bool := decide (a < va + n) && decide (va < a + k)
  s.copies.any (fun j => j.2.ctx == c && j.2.owes && j.2.chunks.any fun x => meets x.addr x.len) || s.heldIn c fun p a k => p.writes && meets a k
/-- R277: the address of a place that a copy is to store to, in a frame that the device has retired since. -/
def CopyJob.gone (s : State) (j : CopyJob) : Option Nat := j.chunks.findSome? fun c => c.locs.findSome? s.placeGone
/-- R277: a copy that reaches a retired frame ends with its context. -/
def State.copyGone (s : State) (k : Nat) (j : CopyJob) (pa : Nat) : State := (({ s with copies := mdel s.copies k }).returnLines j).frameLost j.ctx pa

/-- R308, R312: the bytes and the count of a copy whose slot overlaps its own counter are written in an open order. -/
def State.dataAndCount (s : State) (t : Nat) (ctr : Option Nat) (land skip : Nat) (data : Local → Local) : State :=
  let put (s : State) : State := s.updTeam t fun x => { x with loc := data x.loc }
  let count (s : State) : State := match ctr with
    | some c => s.onCounter t c fun lo => lo.ctrAdd c land skip
    | none => s
  let (n, s) := s.fresh 1
  if (Config.freeWord n).getLsbD 0 then put (count s) else count (put s)

/-- R445: the Lighter of a job is under test. -/
def State.lighterTested (s : State) (j : CopyJob) : Bool := s.clusterTested (((mget s.teams j.team).getD default).core / 4)
/-- LCOPY_COMPLETE (R295). -/
def execLcopyComplete (k : Nat) (s : State) : Out :=
  .next (match mget s.copies k with
    | none => s
    | some j =>
      if j.kind != .lcopy || s.lighterTested j || !(j.ctr.all fun c => s.rangeReady j.team c 16) then s
      else
        let s := s.dataAndCount j.team j.ctr j.land 0 fun lo =>
          let lo := j.chunks.foldl (fun lo c => lo.chunk 0 (fun _ => true) c) lo
          j.lines.foldl (fun lo n => lo.setTag n { (lo.tagAt n) with tag := .full, owner := 0 }) lo
        s.endJob k { j with bytes := j.land } (0x80000000 + j.land))

/-- LCOPYO_COMPLETE (R295). -/
def execLcopyoComplete (k : Nat) (s : State) : Out :=
  .next (match mget s.copies k with
    | none => s
    | some j =>
      if j.kind != .lcopyo || s.lighterTested j then s
      else if let some pa := j.gone s then s.copyGone k j pa
      else ((j.chunks.foldl (fun s c => s.gchunk j.ctx j.wave c) s).returnLines j).endJob k j (0x80000000 + j.land))

/-- TCOPYO_COMPLETE (R298): the stores are done and the source range returns. -/
def execTcopyoComplete (k : Nat) (s : State) : Out :=
  .next (match mget s.copies k with
    | none => s
    | some j =>
      if j.kind != .tcopyo || j.moved || s.lighterTested j then s
      else if let some pa := j.gone s then s.copyGone k j pa
      else
        let s := (j.chunks.foldl (fun s c => s.gchunk j.ctx j.wave c) s).returnLines j
        { s with copies := mset s.copies k { j with moved := true, bytes := j.land - j.skip } })

/-- R292: the teams that receive a tile. -/
def State.receivers (s : State) (j : CopyJob) : List Nat := s.receiversOf j.team j.cores j.group

/-- R286: whether a team may receive a job now: its turn has come, and the pages of the slot and the counter have frames. -/
def State.canArrive (s : State) (k : Nat) (j : CopyJob) (t : Nat) : Bool :=
  !s.groupBusy k j && !s.lighterTested j && (s.receivers j).contains t && !j.arrived.contains t && s.rangeReady t j.off (min j.ext ((s.loc t).size - j.off)) &&
    j.ctr.all fun c => s.rangeReady t c 16

/-- R288: the lines of a slot that a transfer may write: EMPTY or FULL, of no window, of no plane copy. -/
def Team.lineFree (t : Team) (n : Nat) : Bool :=
  let g := (t.loc.tagAt n).tag
  (g == .empty || g == .full) && !t.loc.fifoIn (128 * n) 128 && !t.inPlane (128 * n) 128 && decide (128 * n < t.loc.size)

/-- The bits of a chunk on the lines that `ok` admits. -/
def Chunk.bitsOn (c : Chunk) (base : Nat) (ok : Nat → Bool) : Nat :=
  (List.range c.len).foldl (fun a i => if ok ((base + c.addr + i) / 128) then a + popN 8 (c.mask.getD i 0).toNat else a) 0

/-- A receiver has arrived. -/
def State.arrive (s : State) (k : Nat) (j : CopyJob) (t land : Nat) (conflict : Bool) : State :=
  let j := { j with arrived := j.arrived ++ [t], served := j.served ++ [((mget s.teams t).getD default).core], bytes := j.bytes + land
                    conflict := j.conflict || conflict }
  { s with copies := mset s.copies k j }

/-- R287: an arrival begins: the lines of the slot that may be written turn FILLING. -/
def State.openSlot (s : State) (k : Nat) (j : CopyJob) (t : Nat) (free : List Nat) : State :=
  let s := (s.pinRange t j.off j.ext).updTeam t fun x =>
    { x with loc := free.foldl (fun lo n => lo.setTag n { (lo.tagAt n) with tag := .filling, owner := 2 * k }) x.loc }
  { s with copies := mset s.copies k { j with opened := mset j.opened t free } }
/-- R287, R298: the data of an arrival land on the lines it fills, which turn FULL, and the counter follows; the bits that land make whole
bytes, rounded down (log 42). -/
def State.fillSlot (s : State) (k : Nat) (j : CopyJob) (t : Nat) (free : List Nat) : State :=
  let ok (n : Nat) : Bool := free.contains n
  let land := (j.chunks.foldl (fun a c => a + c.bitsOn j.off ok) 0) / 8
  let s := s.dataAndCount t j.ctr land (j.land - land) fun lo =>
    let lo := j.chunks.foldl (fun lo c => lo.chunk j.off ok c) lo
    free.foldl (fun lo n => lo.setTag n { (lo.tagAt n) with tag := .full, owner := 0 }) lo
  s.arrive k j t land (free.length != (linesOf j.off j.ext).length)
/-- TCOPY_ARRIVAL (R287, R288, R298): the arrival begins, and in a second event the slot turns FULL. -/
def execTcopyArrival (k t : Nat) (s : State) : Out :=
  .next (match mget s.copies k, mget s.teams t with
    | some j, some tm =>
      if j.kind != .tcopy || !s.canArrive k j t then s
      else match mget j.opened t with
        | none => s.openSlot k j t ((linesOf j.off j.ext).filter tm.lineFree)
        | some free => s.fillSlot k j t free
    | _, _ => s)

/-- R299: the slot of a reduction's group at an offset. -/
def Local.sumSlot (lo : Local) (g off w : Nat) (fx : Bool) : Option SumSlot :=
  lo.sums.find? fun x => x.group == g && x.off == off && x.width == w && x.fx == fx

/-- R287, R299: a line that a contribution may enter: free, or FILLING for the same slot; a line that a slot of the same group but another
offset, width or type fills is skipped as in use (log 152). -/
def Team.sumLine (t : Team) (x : SumSlot) (n : Nat) : Bool :=
  let g := t.loc.tagAt n
  t.lineFree n || (g.tag == .filling && g.owner == sumOwner x.group && x.sums.any fun kv => x.line kv.1 == n)

/-- R299: a contribution enters the lines that may take it. -/
def SumSlot.add (x : SumSlot) (lo : Local) (ok : Nat → Bool) (vals : List Nat) : SumSlot :=
  let w := x.width
  { x with sums := (List.range vals.length).foldl (fun m i =>
      if ok (x.line i) then
        let old := (mget m i).getD (sx (8 * w) (leNat (lo.read (x.off + i * w) w)))
        mset m i (old + sx (8 * w) (vals.getD i 0))
      else m) x.sums }

/-- TRED_ARRIVAL (R287, R288, R299). -/
def execTredArrival (k t : Nat) (s : State) : Out :=
  .next (match mget s.copies k, mget s.teams t with
    | some j, some tm =>
      match j.kind with
      | .tred ty =>
        if !s.canArrive k j t then s
        else
          let w := if ty = 0 then 4 else 8
          let g := j.group.getD 0
          let ctr := j.ctr.getD 0
          let x := (tm.loc.sumSlot g j.off w (ty == 2)).getD { group := g, off := j.off, width := w, fx := ty == 2, ctr := ctr, sums := [] }
          let ls := linesOf j.off j.ext
          let free := ls.filter (tm.sumLine x)
          let ok (n : Nat) : Bool := free.contains n
          let land := w * ((List.range j.vals.length).filter fun i => ok (x.line i)).length
          let y := { (x.add tm.loc ok j.vals) with ctr := ctr }
          let s := s.pinRange t j.off j.ext
          let s := s.updTeam t fun z =>
            let lo := free.foldl (fun lo n => lo.setTag n { (lo.tagAt n) with tag := .filling, owner := sumOwner g }) z.loc
            { z with loc := { lo with sums := (lo.sums.filter fun a => !(a.group == g && a.off == j.off && a.width == w && a.fx == y.fx)) ++ [y] } }
          let s := s.onCounter t ctr fun lo => lo.ctrAdd ctr land (j.land - land)
          s.arrive k j t land (free.length != ls.length)
      | _ => s
    | _, _ => s)

/-- R291, R292: a tile transfer may be acknowledged. -/
def State.canAck (s : State) (k : Nat) (j : CopyJob) : Bool :=
  match j.kind with
  | .tcopy => !s.groupBusy k j && (s.receivers j).all j.arrived.contains
  | .tred _ => !s.groupBusy k j && (s.receivers j).all j.arrived.contains
  | .tcopyo => j.moved
  | _ => false

/-- R291: a named core that is retired or had no subscribed team. -/
def State.undelivered (s : State) (j : CopyJob) : Bool :=
  let me := (mget s.teams j.team).getD default
  j.cores.any fun c => !s.dev.coreIn me.part c || !j.served.contains c

/-- TILE_TRANSFER_ACKNOWLEDGED (R291). -/
def execTileTransferAcknowledged (k : Nat) (s : State) : Out :=
  .next (match mget s.copies k with
    | none => s
    | some j =>
      if !s.canAck k j then s
      else
        let u := s.undelivered j
        let s := match j.kind with
          | .tred _ => s.returnLines j
          | _ => s
        s.endJob k j (j.status u))

end Sys2Proof.Machine
end

