-- ==== Sys2Proof/Machine/Sync.lean ====
section
/-! DEFINITION. Tags, arrival counters, futures, barriers and ELECT (R301 to R312): opcodes 0x91 to 0x93, 0x99 to 0x9D and
0xB0 to 0xB2. -/
namespace Sys2Proof.Machine

/-! ## TAG and TAGQ (R301) -/

/-- R301: the line a lane names, window misuse checked. -/
def Env.tagPlace (e : Env) (f : FM) (l : Nat) : LPlace ⊕ LaneFault :=
  match e.localAt ((e.src constInt f.a l : Int) + f.offset * 128) true with
  | .inr x => .inr x
  | .inl p => if e.s.inFifo p then .inr (.cause 0x63 (e.localEa f 128 l)) else .inl p

/-- R301: TAG also needs a line that no engine owns. -/
def Env.tagSet (e : Env) (f : FM) (l : Nat) : LPlace ⊕ LaneFault :=
  match e.tagPlace f l with
  | .inr x => .inr x
  | .inl p => match ((e.s.loc p.team).tagAt (p.off / 128)).tag with
    | .filling => .inr (.cause 0x65 (e.localEa f 128 l))
    | .draining => .inr (.cause 0x66 (e.localEa f 128 l))
    | _ => .inl p

/-- TAG. -/
def formTag (f : FM) : Form :=
  let b := fmForm f [0, 2, 4, 6] [0] false false true
  { b with rsv := b.rsv && !f.mod.getLsbD 3 && f.d == 0 && f.b == 0, ops := [opdA f.a false] }
/-- The lanes' tags. -/
def tagRun (f : FM) (ps : List (Nat × LPlace)) (s : State) : State :=
  let t : Tag := if f.mod.getLsbD 1 then .full else .empty
  ps.foldl (fun (s : State) p =>
    (s.pin p.2.team (p.2.off / 8192)).updTeam p.2.team fun x =>
      let k := p.2.off / 128
      { x with loc := x.loc.setTag k { tag := t, ovf := (x.loc.tagAt k).ovf && !f.mod.getLsbD 2, owner := 0 } }) s
/-- R231: a local access that is held behind earlier ones captures its places and an operand. -/
def Env.deferAt (e : Env) (i : Instr) (f : FM) (ps : List (Nat × LPlace)) (x : Nat → Nat) (n : Nat) (d : BitVec 8) : State :=
  e.defer i f (ps.map fun p => (p.1, parkLane p.2 (x p.1))) (e.slots d n)
/-- TAG (R301). -/
def execTag (f : FM) (s : State) : Out :=
  issue (formTag f) f.pred [] (tokenOf f) s fun e =>
    match checkLanes e.todo (e.tagSet f) with
    | (ps, []) =>
      let e := e.upWave (e.markPerf e.todo)
      if ps.any fun p => inMask e.behind p.1 then e.deferAt (.tag f) f ps (fun _ => 0) 0 0
      else e.long (tokenOf f) (!f.tv) (fun _ => {}) (tagRun f ps e.s)
    | (_, fs) => e.laneFault e.s 1 fs

/-- R287: a tag's code. -/
def Tag.code : Tag → Nat
  | .empty => 0 | .filling => 1 | .full => 2 | .draining => 3

/-- TAGQ. -/
def formTagq (f : FM) : Form :=
  let b := fmForm f (List.range 16) [0] false false true
  { b with rsv := b.rsv && f.mod == 0 && f.b == 0, ops := [dst 0 f.d 1 kVWZ, opdA f.a false] }
/-- R301: what TAGQ reads of a line. -/
def State.tagWord (s : State) (p : LPlace) : Nat :=
  let t := (s.loc p.team).tagAt (p.off / 128)
  t.tag.code + 4 * bn t.ovf
/-- R286: pins the page of each lane. -/
def pinPlaces (ps : List (Nat × LPlace)) (s : State) : State := ps.foldl (fun (s : State) p => s.pin p.2.team (p.2.off / 8192)) s
/-- TAGQ (R301). -/
def execTagq (f : FM) (s : State) : Out :=
  issue (formTagq f) f.pred [] (tokenOf f) s fun e =>
    match checkLanes e.L (e.tagPlace f) with
    | (ps, []) =>
      if e.behind != 0 then e.deferAt (.tagq f) f ps (fun _ => 0) 1 f.d
      else
      e.long (tokenOf f) (!f.tv) (fun l => match mget ps l with
        | some p => { regs := e.put f.d 0 l (e.s.tagWord p) }
        | none => {}) (pinPlaces ps e.s)
    | (_, fs) => e.laneFault e.s 0 fs

/-! ## Arrival counters (R309, R312) -/

/-- ACINIT. -/
def formAcinit (f : FM) : Form :=
  let b := fmForm f (List.range 16) [0] false false true
  { b with rsv := b.rsv && f.mod == 0 && f.d == 0, ops := [opdA f.a false, src 2 f.b] }
/-- The lanes' counters, with what each expects. -/
def acinitRun (x : Nat → Nat) (ps : List (Nat × LPlace)) (s : State) : State :=
  ps.foldl (fun (s : State) p => s.onCounter p.2.team p.2.off fun lo => lo.write p.2.off (leBytes 4 (x p.1) ++ leBytes 8 0)) s
/-- ACINIT (R309). -/
def execAcinit (f : FM) (s : State) : Out :=
  issue (formAcinit f) f.pred [] (tokenOf f) s fun e =>
    match checkLanes e.todo (e.atomPlace f 16) with
    | (ps, []) =>
      let e := e.upWave (e.markPerf e.todo)
      let x := e.src constInt f.b
      if ps.any fun p => inMask e.behind p.1 then e.deferAt (.acinit f) f ps x 0 0
      else e.long (tokenOf f) (!f.tv) (fun _ => {}) (acinitRun x ps e.s)
    | (_, fs) => e.laneFault e.s 1 fs

/-- ACADD. -/
def formAcadd (f : FM) : Form :=
  let b := fmForm f (List.range 16) [0] false false true
  { b with rsv := b.rsv && bits f.mod.toNat 3 1 == 0, ops := [dst 0 f.d 1 kVWZ, opdA f.a false, src 2 f.b] }
/-- The lanes' additions `x` in ascending order, to skipped bytes when `skip`: each lane's sum after its own. -/
def acaddRun (skip : Bool) (x : Nat → Nat) : List (Nat × LPlace) → State → List (Nat × Nat) × State
  | [], s => ([], s)
  | (l, p) :: t, s =>
    let s := s.onCounter p.team p.off fun lo => lo.ctrAdd p.off (if skip then 0 else x l) (if skip then x l else 0)
    let lo := s.loc p.team
    let v := min 0xFFFFFFFF (lo.ctrWord p.off 1 + lo.ctrWord p.off 2)
    let (r, s) := acaddRun skip x t s
    ((l, v) :: r, s)
/-- ACADD (R309). -/
def execAcadd (f : FM) (s : State) : Out :=
  issue (formAcadd f) f.pred [] (tokenOf f) s fun e =>
    match checkLanes e.L (e.atomPlace f 16) with
    | (ps, []) =>
      let x := e.src constInt f.b
      if e.behind != 0 then e.deferAt (.acadd f) f ps x 1 f.d
      else
      let (rs, s) := acaddRun (f.mod.getLsbD 0) x ps e.s
      e.long (tokenOf f) (!f.tv) (fun l => { regs := e.put f.d 0 l ((mget rs l).getD 0) }) s
    | (_, fs) => e.laneFault e.s 1 fs

/-- R312: the place of a counter that ACWAIT reads: its line may be FILLING or DRAINING. -/
def Env.waitPlace (e : Env) (f : FM) (l : Nat) : LPlace ⊕ LaneFault :=
  match e.localPlace f 16 l with
  | .inr x => .inr x
  | .inl p => if e.s.inFifo p then .inr (.cause 0x63 (e.localEa f 16 l)) else .inl p

/-- R50: lanes whose condition holds take their results, the others park. -/
def Env.someWait (e : Env) (i : Instr) (f : FM) (n : Nat) (now : List (Nat × List Nat)) (wait : List (Nat × LPlace)) (s : State) :
    State :=
  if wait.isEmpty then
    e.long (tokenOf f) (!f.tv) (fun l => match mget now l with
      | some ws => { regs := e.putWords f.d n l ws }
      | none => {}) s
  else
    let s := if now.isEmpty then s else s.launch e none false (now.flatMap fun p => e.putWords f.d n p.1 p.2) []
    e.park i (tokenOf f) (!f.tv) (wait.map fun p => (p.1, parkLane p.2 0)) (e.slots f.d n) s

/-- ACWAIT. -/
def formAcwait (f : FM) : Form :=
  let b := fmForm f (List.range 16) [0] false false true
  { b with rsv := b.rsv && f.mod == 0 && f.b == 0, ops := [dst 0 f.d 1 kVWZ, opdA f.a false] }
/-- ACWAIT (R309). -/
def execAcwait (f : FM) (s : State) : Out :=
  issue (formAcwait f) f.pred [] (tokenOf f) s fun e =>
    match checkLanes e.L (e.waitPlace f) with
    | (ps, []) =>
      let s := pinPlaces ps e.s
      let (now, wait) := ps.partition fun p => (e.s.loc p.2.team).ctrDone p.2.off && !inMask e.behind p.1
      e.someWait (.acwait f) f 1 (now.map fun p => (p.1, [(e.s.loc p.2.team).ctrWord p.2.off 1])) wait s
    | (_, fs) => e.laneFault e.s 0 fs

/-! ## Futures (R310 to R312) -/

/-- R310: the state word and the zero word of a future, as one number. -/
def State.futureState (s : State) (p : LPlace) : Nat := leNat ((s.loc p.team).read (p.off + 8) 8)
/-- R310: a future is FULL. -/
def State.futureFull (s : State) (p : LPlace) : Bool := s.futureState p == 1
/-- R312: a checked future of a lane. -/
def Env.futurePlace (e : Env) (f : FM) (l : Nat) : LPlace ⊕ LaneFault :=
  match e.atomPlace f 16 l with
  | .inr x => .inr x
  | .inl p => if 1 < e.s.futureState p then .inr (.cause 0x6F (e.localEa f 16 l)) else .inl p
/-- R311: takes the value of a FULL future. -/
def State.futureTake (s : State) (p : LPlace) : Nat × State :=
  (leNat ((s.loc p.team).read p.off 8), s.lwrite { p with off := p.off + 8 } (leBytes 4 0))

/-- FPUT. -/
def formFput (f : FM) : Form :=
  let b := fmForm f (List.range 16) [0] false false true
  { b with rsv := b.rsv && bits f.mod.toNat 3 1 == 0, ops := [dst 0 f.d 1 kVWZ, opdA f.a false, src 2 f.b 2] }
/-- The lanes' puts in ascending order: the lanes that found their future FULL. -/
def fputRun (e : Env) (f : FM) : List (Nat × LPlace) → State → List Nat × State
  | [], s => ([], s)
  | (l, p) :: t, s =>
    if s.futureFull p then
      let (r, s) := fputRun e f t s
      (l :: r, s)
    else fputRun e f t (s.lwrite p (leBytes 8 (e.src64 f.b l) ++ leBytes 4 1))
/-- FPUT (R311). -/
def execFput (f : FM) (s : State) : Out :=
  issueAfter (formFput f) f.pred [] (tokenOf f) s fun e =>
    match checkLanes e.L (e.futurePlace f) with
    | (ps, []) =>
      let (full, s) := fputRun e f ps e.s
      let s := match full with
        | [] => s
        | l :: _ =>
          if f.mod.getLsbD 0 then
            s.updWave e.w (·.after { cause := 0x6E, lanes := maskOf full.contains, addr := e.localEa f 16 l,
                                     info := BitVec.ofNat 32 e.cl.idx, after := true })
          else s
      e.long (tokenOf f) (!f.tv) (fun l => { regs := e.put f.d 0 l (if full.contains l then 0x10000000 else 0) }) s
    | (_, fs) => e.laneFault e.s 1 fs

/-- FGET. -/
def formFget (f : FM) : Form :=
  let b := fmForm f (List.range 16) [0] false false true
  { b with rsv := b.rsv && f.mod == 0 && f.b == 0, ops := [dst 0 f.d 2 kV, opdA f.a false] }
/-- R311: a lane parked on a future before this park. -/
def State.futureQueued (s : State) (before : Nat) (p : LPlace) : Bool :=
  s.waves.any fun w => w.2.parks.any fun k => decide (k.seq < before) && (match k.instr with
    | .fget _ => k.lanes.any fun l => l.2 == parkLane p 0
    | _ => false)
/-- The lanes' takes in ascending order: what they took, and those that wait. -/
def fgetRun (before : Nat) (behind : LaneMask) : List (Nat × LPlace) → State → List (Nat × List Nat) × List (Nat × LPlace) × State
  | [], s => ([], [], s)
  | (l, p) :: t, s =>
    if s.futureFull p && !s.futureQueued before p && !inMask behind l then
      let (v, s) := s.futureTake p
      let (a, b, s) := fgetRun before behind t s
      ((l, [v % 2 ^ 32, v / 2 ^ 32]) :: a, b, s)
    else
      let (a, b, s) := fgetRun before behind t s
      (a, (l, p) :: b, s)
/-- FGET (R311). -/
def execFget (f : FM) (s : State) : Out :=
  issue (formFget f) f.pred [] (tokenOf f) s fun e =>
    match checkLanes e.L (e.futurePlace f) with
    | (ps, []) =>
      let (now, wait, s) := fgetRun e.s.key e.behind ps e.s
      e.someWait (.fget f) f 2 now wait s
    | (_, fs) => e.laneFault e.s 2 fs

/-- FTRY. -/
def formFtry (f : FM) : Form :=
  let b := fmForm f (List.range 16) [0] false false true
  { b with rsv := b.rsv && !f.mod.getLsbD 3 && f.b == 0, ops := [dst 0 f.d 2 kV, opdA f.a false]
           wr := pReg (f.mod.toNat % 8) }
/-- The lanes' tries in ascending order: what each took. -/
def ftryRun : List (Nat × LPlace) → State → List (Nat × Nat) × State
  | [], s => ([], s)
  | (l, p) :: t, s =>
    if s.futureFull p then
      let (v, s) := s.futureTake p
      let (r, s) := ftryRun t s
      ((l, v) :: r, s)
    else ftryRun t s
/-- FTRY (R311). -/
def execFtry (f : FM) (s : State) : Out :=
  issueAfter (formFtry f) f.pred [] (tokenOf f) s fun e =>
    match checkLanes e.L (e.futurePlace f) with
    | (ps, []) =>
      let (rs, s) := ftryRun ps e.s
      e.long (tokenOf f) (!f.tv) (fun l => match mget rs l with
        | some v => { regs := e.put64 f.d l v ++ putP (f.mod.toNat % 8) l true }
        | none => { regs := putP (f.mod.toNat % 8) l false }) s
    | (_, fs) => e.laneFault e.s 2 fs

/-! ## BAR, BARG, ELECT (R303 to R307) -/

/-- BAR and BARG: `n` barriers. -/
def formBarN (n : Nat) (f : FI) : Form :=
  { rsv := f.mod == 0 && f.d == 0 && f.a == 0 && decide (f.imm.toNat < n), mods := always f.pred }
/-- BAR. -/
def formBar (f : FI) : Form := formBarN 16 f
/-- BARG. -/
def formBarg (f : FI) : Form := formBarN 4 f
/-- BAR (R303, R305). -/
def execBar (f : FI) (s : State) : Out :=
  issue (formBar f) f.pred [] none s fun e =>
    if e.L = 0 then e.idle
    else if e.berth then e.fault 0x2D e.L
    else (e.upClause fun c => { c with ends := some (.bar f.imm.toNat) }).idle
/-- BARG (R303, R305, R306). -/
def execBarg (f : FI) (s : State) : Out :=
  issue (formBarg f) f.pred [] none s fun e =>
    if e.L = 0 then e.idle
    else if e.berth then e.fault 0x2D e.L
    else if e.team.gang.isNone then e.fault 0x6D e.L
    else (e.upClause fun c => { c with ends := some (.barg f.imm.toNat) }).idle

/-- ELECT. -/
def formElect (f : F3) : Form :=
  { rsv := f.clear { d := true, mod := 15 }, ops := [dst 0 f.d 1 kVWZ], wr := pReg (f.mod.toNat % 8) }
/-- ELECT (R307). -/
def execElect (f : F3) (s : State) : Out :=
  issue (formElect f) f.pred f.marked none s fun e =>
    let elig := !f.mod.getLsbD 3 || (e.s.liveWaves e.wv.team).all fun k => decide (e.wv.rank ≤ (e.s.wave k).rank)
    let pd := f.mod.toNat % 8
    e.short fun l =>
      if elig then { regs := e.put f.d 0 l e.l0 ++ putP pd l (l == e.l0) }
      else { regs := e.put f.d 0 l 0xFFFFFFFF ++ putP pd l false }

end Sys2Proof.Machine
end

