-- ==== Sys2Proof/Machine/Plane.lean ====
section
/-! DEFINITION. The plane instructions, opcodes 0xB3 to 0xB9 (R313 to R335). -/
namespace Sys2Proof.Machine

/-- A region an instruction reaches: slot k of a team, or global region g. -/
inductive PRef where
  | slot (team k : Nat)
  | glob (g : Nat)
  deriving DecidableEq, Repr, Inhabited

/-- The region at a reference. -/
def State.regionAt (s : State) (c : Nat) : PRef → Option Region
  | .slot t k => mget ((mget s.teams t).getD default).slots k
  | .glob g => mget (s.ctx c).regions g
/-- Writes the region at a reference. -/
def State.setRegion (s : State) (c : Nat) (p : PRef) (r : Region) : State :=
  match p with
  | .slot t k => s.updTeam t fun x => { x with slots := mset x.slots k r }
  | .glob g => s.updCtx c fun x => { x with regions := mset x.regions g r }

end Sys2Proof.Machine
namespace Sys2Proof
/-- R331: whether a plane word names a global region. -/
def FM.glob (f : FM) : Bool := f.mod.getLsbD 3
end Sys2Proof
namespace Sys2Proof.Machine

/-- A lane's cell: the region and the index. -/
structure PCell where
  ref : PRef
  i : Nat
  deriving DecidableEq, Repr, Inhabited

/-- R331: the selector of a lane. -/
def Env.selector (e : Env) (f : FM) (l : Nat) : Int := (e.src constInt f.a l : Int) + f.offset

/-- R331, R335: the region and the cell of a lane, or its fault. -/
def Env.cell (e : Env) (f : FM) (l : Nat) : PCell ⊕ LaneFault :=
  let x := e.selector f l
  let no (c : Nat) : PCell ⊕ LaneFault := .inr (.cause c (BitVec.ofInt 64 x))
  let at_ (p : PRef) (i : Int) (c : Nat) : PCell ⊕ LaneFault :=
    match e.s.regionAt e.wv.ctxn p with
    | none => no c
    | some r => if i < 0 || (r.decl.cells : Int) ≤ i then no 0x77 else .inl { ref := p, i := i.toNat }
  let k := f.b.toNat
  if f.glob then at_ (.glob k) x 0x72
  else if (mget e.team.slots k).isNone then no 0x70
  else if x < 0 || 2 ^ 23 ≤ x then no 0x78
  else
    let n := x.toNat
    let rank := bits n 21 18
    let i : Int := (n % 2 ^ 18 : Nat)
    if !bitAt n 22 then (if rank != 0 then no 0x78 else at_ (.slot e.wv.team k) i 0x70)
    else match e.team.gang with
      | none => no 0x78
      | some g =>
        if ((mget e.s.gangs g).getD default).teams.length ≤ rank then no 0x78
        else match e.s.peerOf g rank with
          | none => no 0x73
          | some t => at_ (.slot t k) i 0x73

/-- R318, R128: a declaration's fault, for lanes that refer to the region. -/
def Env.declareLost (e : Env) (ls : LaneMask) (f : TFault) (acc : Access) : State :=
  if f.kind = kindCode then e.fault 0x42 ls (BitVec.ofNat 64 f.va) else e.laneFault e.s acc ((lanesOf ls).map fun l => (l, .xlate f))
/-- R318, R319: the first reference declares global region g: the instruction goes on with it, or faults. -/
def Env.declareG (e : Env) (g : Nat) (k : Env → State) : State :=
  let c := e.wv.ctxn
  if e.L = 0 then k e
  else if e.s.awayFrom c then e.fault 0x73 e.L
  else if (mget e.ctx.regions g).isSome then k e
  else if e.ctx.desc.planecnt ≤ g then e.fault 0x72 e.L
  else match e.s.declareFault c g with
    | some x => e.declareLost e.L x.1 x.2
    | none => match e.s.declare c g with
      | none => e.fault 0x72 e.L
      | some r => k { e with s := e.s.addRegion c g r }
/-- The region a plane instruction names, declared when it is global. -/
def Env.declared (e : Env) (f : FM) (k : Env → State) : State :=
  if f.glob then e.declareG f.b.toNat k else k e

/-- The form of a plane instruction with a cell selector. -/
def formCell (f : FM) (mods : List Nat) (d : Opd) : Form :=
  let b := fmForm f mods [0] false false true
  { b with ops := [d, src 1 f.a], bad := if !f.glob && decide (16 ≤ f.b.toNat) then [2] else [] }

/-! ## PST and PSTP (R314, R320, R332) -/

/-- R313: whether a cell takes PST data of a type (0 b32, 1 b64, 2 f32, 3 bf16). -/
def PlaneDecl.takes (d : PlaneDecl) (ty : Nat) : Bool :=
  match d.rule with
  | 0 => if d.fmt = 12 then decide (ty ≤ 3) else if d.fmt = 0 then ty == 0 else decide (ty ≤ 1)
  | 1 => ty == 0
  | _ => if d.fmt = 0 then ty == 0 else ty == 1

/-- R314: a contribution's value: what converts, whether it saturated, whether it was a NaN. -/
def PlaneDecl.convert (d : PlaneDecl) (ty x : Nat) : Int × Bool × Bool :=
  if ty = 2 then toFx d.fxscale (fp32.val x)
  else if ty = 3 then toFx d.fxscale (bf16.val (x % 65536))
  else if d.rule = 0 then (sx (if ty = 0 then 32 else 64) x, false, false)
  else (((x % 2 ^ (if ty = 0 then 32 else 64) : Nat) : Int), false, false)

/-- R320: the writer of a lane and its slot q. -/
def Env.writer (e : Env) (f : FM) (l : Nat) : (Nat × Nat) × Nat :=
  if f.glob then
    let id := e.s.logicalId e.wv l
    ((e.s.launchOf e.wv, id), id % 65536)
  else
    let q := 1024 * e.team.gangRank + 32 * e.wv.rank + l
    ((0, q), q)

/-- R332: one lane's contribution, with whether it collides. -/
def State.contribute (s : State) (c : Nat) (p : PCell) (w : (Nat × Nat) × Nat) (v : Int × Bool × Bool) (prio : Nat) : State × Bool :=
  match s.regionAt c p.ref with
  | none => (s, false)
  | some r =>
    let (r, hit) := r.contribute { cell := p.i, writer := w.1, key := prio * 65536 + (0xFFFF - w.2), val := v.1 }
    (s.setRegion c p.ref { r with ovf := r.ovf || v.2.1, inv := r.inv || v.2.2 }, hit)

/-- The lanes' contributions in ascending order: the lanes that collide. -/
def contribRun (e : Env) (f : FM) (v : PCell → Nat → Int × Bool × Bool) (prio : Nat → Nat) :
    List (Nat × PCell) → State → List (Nat × PCell) × State
  | [], s => ([], s)
  | (l, p) :: t, s =>
    let (s, hit) := s.contribute e.wv.ctxn p (e.writer f l) (v p l) (prio l)
    let (r, s) := contribRun e f v prio t s
    (if hit then (l, p) :: r else r, s)

/-- The address of a cell in a copy. -/
def Region.cellAt (r : Region) (base i : Nat) : Nat := base + i * r.decl.cell

/-- R332, R335: a lane's checked cell of the next copy. -/
def Env.storeCell (e : Env) (f : FM) (takes : PlaneDecl → Bool) (l : Nat) : PCell ⊕ LaneFault :=
  match e.cell f l with
  | .inr x => .inr x
  | .inl p => match e.s.regionAt e.wv.ctxn p.ref with
    | none => .inr (.cause 0x70 0)
    | some r =>
      if !takes r.decl then .inr (.cause 0x75 (BitVec.ofInt 64 (e.selector f l)))
      else if !f.glob then .inl p
      else match e.s.rangeFault e.wv.ctxn (r.cellAt r.next p.i) r.decl.cell 1 e.wv.core with
        | some x => .inr (.xlate x)
        | none => .inl p

/-- R325: the XINFO of a collision. -/
def collisionInfo (f : FM) (sel : Int) : Word :=
  let n := if f.glob then 0 else sel.toNat
  BitVec.ofNat 32 (f.b.toNat + bn f.glob * 256 + bits n 21 18 * 512 + bn (bitAt n 22) * 8192)

/-- PST and PSTP. -/
def plainStore (fm : Form) (f : FM) (takes : PlaneDecl → Bool) (v : Env → PCell → Nat → Int × Bool × Bool) (prio : Env → Nat → Nat)
    (s : State) : Out :=
  issue fm f.pred [] (tokenOf f) s fun e => e.declared f fun e =>
    match checkLanes e.L (e.storeCell f takes) with
    | (ps, []) =>
      let (hits, s) := contribRun e f (v e) (prio e) ps e.s
      let s := match hits with
        | [] => s
        | (l, p) :: _ => s.updWave e.w (·.after
          { cause := 0x79, lanes := maskOf fun k => hits.any fun h => h.1 == k, addr := BitVec.ofNat 64 p.i,
            info := collisionInfo f (e.selector f l), after := true })
      e.long (tokenOf f) (!f.tv) (fun _ => {}) s
    | (_, fs) => e.laneFault e.s 1 fs

/-- PST. -/
def formPst (f : FM) : Form :=
  formCell f [0, 1, 2, 3, 8, 9, 10, 11] (src 0 f.d (if f.mod.toNat % 8 = 1 then 2 else 1))
/-- The data of a PST lane. -/
def Env.pstData (e : Env) (f : FM) (l : Nat) : Nat :=
  match f.mod.toNat % 8 with
  | 0 => e.src constInt f.d l
  | 1 => e.src64 f.d l
  | 2 => e.src constF32 f.d l
  | _ => e.src (constFmt bf16) f.d l
/-- PST (R332). -/
def execPst (f : FM) (s : State) : Out :=
  let ty := f.mod.toNat % 8
  plainStore (formPst f) f (·.takes ty)
    (fun e p l => ((e.s.regionAt e.wv.ctxn p.ref).getD default).decl.convert ty (e.pstData f l)) (fun _ _ => 0) s
/-- PSTP. -/
def formPstp (f : FM) : Form :=
  let b := formCell f [0, 8] (src 0 f.d 2 kVW)
  { b with rsv := b.rsv && f.mod.toNat % 8 == 0 }
/-- PSTP (R332). -/
def execPstp (f : FM) (s : State) : Out :=
  plainStore (formPstp f) f (·.rule == 1) (fun e _ l => (((e.src64 f.d l % 2 ^ 32 : Nat) : Int), false, false))
    (fun e l => e.src64 f.d l / 2 ^ 32 % 65536) s

/-! ## PLD and PLDX (R333) -/

/-- The bytes of a cell of the present copy, read by an agent. -/
def State.cellBytes (s : State) (c ag : Nat) (p : PCell) : List Byte :=
  match s.regionAt c p.ref with
  | none => []
  | some r =>
    let a := r.cellAt r.present p.i
    match p.ref with
    | .slot t _ => (s.loc t).read a r.decl.cell
    | .glob _ => s.vread c a r.decl.cell ag

/-- R333: a lane's checked cell of the present copy: `conv` asks for an FX64 cell; a pair needs an even register. -/
def Env.loadCell (e : Env) (f : FM) (conv whole : Bool) (l : Nat) : PCell ⊕ LaneFault :=
  match e.cell f l with
  | .inr x => .inr x
  | .inl p => match e.s.regionAt e.wv.ctxn p.ref with
    | none => .inr (.cause 0x70 0)
    | some r =>
      let pair := r.decl.cell == 8 && (whole || (!conv && r.decl.rule != 1))
      if conv && !(r.decl.rule == 0 && r.decl.fmt == 12) then .inr (.cause 0x76 (BitVec.ofInt 64 (e.selector f l)))
      else if pair && !(dst 0 f.d 2 kVW).ok e.wv.alloc then .inr (.cause 0x20 0)
      else if pair && (dst 0 f.d 2 kVW).indexed && (e.wv.index l (f.d.toNat - 0xE0) true).isNone then
        .inr (.cause (0x25 + (f.d.toNat - 0xE0)) 0)
      else if !f.glob then .inl p
      else match e.s.rangeFault e.wv.ctxn (r.cellAt r.present p.i) r.decl.cell 0 e.wv.core with
        | some x => .inr (.xlate x)
        | none => .inl p

/-- PLD. Whether a raw cell has 8 bytes is not known at decode: the register rule (R52) counts D alone, and D + 1 only when it is written
(log 49). -/
def formPld (f : FM) : Form :=
  formCell f [0, 1, 2, 8, 9, 10] (dst 0 f.d (if f.mod.toNat % 8 = 2 then 2 else 1) kVW)
/-- R333: what PLD delivers of a cell. -/
def Env.pldOut (e : Env) (f : FM) (l : Nat) (p : PCell) : LaneOut :=
  let d := ((e.s.regionAt e.wv.ctxn p.ref).getD default).decl
  let x := leNat (e.s.cellBytes e.wv.ctxn e.wv.core p)
  match f.mod.toNat % 8 with
  | 0 => { regs := if d.cell = 8 && d.rule != 1 then e.put64 f.d l x else e.put f.d 0 l (x % 2 ^ 32) }
  | 1 =>
    let (r, g) := fp32.pack 1 false 0 (ofFx d.fxscale (sx 64 x))
    { regs := e.put f.d 0 l r, flags := g }
  | _ =>
    let (r, g) := fp64.pack 1 false 0 (ofFx d.fxscale (sx 64 x))
    { regs := e.put64 f.d l r, flags := g }
/-- PLD (R333). -/
def execPld (f : FM) (s : State) : Out :=
  issue (formPld f) f.pred [] (tokenOf f) s fun e => e.declared f fun e =>
    match checkLanes e.L (e.loadCell f (f.mod.toNat % 8 != 0) false) with
    | (ps, []) => e.long (tokenOf f) (!f.tv) (fun l => match mget ps l with
      | some p => e.pldOut f l p
      | none => {}) e.s
    | (_, fs) => e.laneFault e.s 0 fs

/-- PLDX: as for PLD, the register rule counts D alone (log 49). -/
def formPldx (f : FM) : Form :=
  { formCell f (List.range 16) (dst 0 f.d 1 kVW) with wr := pReg (f.mod.toNat % 8) }
/-- PLDX (R333): the raw cell, and W in pd. -/
def execPldx (f : FM) (s : State) : Out :=
  issue (formPldx f) f.pred [] (tokenOf f) s fun e => e.declared f fun e =>
    match checkLanes e.L (e.loadCell f false true) with
    | (ps, []) => e.long (tokenOf f) (!f.tv) (fun l => match mget ps l with
      | some p =>
        let r := (e.s.regionAt e.wv.ctxn p.ref).getD default
        let x := leNat (e.s.cellBytes e.wv.ctxn e.wv.core p)
        { regs := (if r.decl.cell = 8 then e.put64 f.d l x else e.put f.d 0 l x) ++ putP (f.mod.toNat % 8) l (r.wPresent.contains p.i) }
      | none => {}) e.s
    | (_, fs) => e.laneFault e.s 0 fs

/-! ## PSTEP, PQRY, PBIND (R315, R316, R327, R334) -/

/-- PSTEP. -/
def formPstep (f : FM) : Form :=
  { rsv := f.mod == 0 && f.d == 0 && f.a == 0 && f.scope == 0 && f.order == 0 && f.wk == 0 && !f.tv && f.off == 0
    mods := always f.pred, bad := if 16 ≤ f.b.toNat then [2] else [] }
/-- PSTEP (R327). -/
def execPstep (f : FM) (s : State) : Out :=
  issue (formPstep f) f.pred [] none s fun e =>
    if e.L = 0 then e.idle
    else if e.berth then e.fault 0x2D e.L
    else if (mget e.team.slots f.b.toNat).isNone then e.fault 0x70 e.L
    else (e.upClause fun c => { c with ends := some (.pstep f.b.toNat) }).idle

/-- PQRY. -/
def formPqry (f : FM) : Form :=
  let b := fmForm f (List.range 16) [0] false false false
  { b with rsv := b.rsv && bits f.mod.toNat 2 1 == 0 && f.a == 0, ops := [dst 0 f.d 4 kV]
           bad := if !f.glob && decide (16 ≤ f.b.toNat) then [2] else [] }
/-- PQRY (R334): one read for the whole instruction; a replay does not clear again. -/
def execPqry (f : FM) (s : State) : Out :=
  issue (formPqry f) f.pred [] (tokenOf f) s fun e => e.declared f fun e =>
    let p : PRef := if f.glob then .glob f.b.toNat else .slot e.wv.team f.b.toNat
    if e.L = 0 || e.performed &&& e.L != 0 then e.long (tokenOf f) (!f.tv) (fun _ => {}) e.s
    else match e.s.regionAt e.wv.ctxn p with
      | none => e.fault (if f.glob then 0x72 else 0x70) e.L
      | some r =>
        let clr := f.mod.getLsbD 0
        let e := if clr then e.upWave (e.markPerf e.L) else e
        let s := if clr then e.s.setRegion e.wv.ctxn p { r with ovf := false, inv := false, coll := false } else e.s
        let ws := [r.steps.toNat % 2 ^ 32, r.steps.toNat / 2 ^ 32, bn r.ovf + 2 * bn r.inv + 4 * bn r.coll + 8 * bn r.presentB, r.decl.cells]
        e.long (tokenOf f) (!f.tv) (fun l => { regs := (List.range 4).flatMap fun k => e.put f.d k l (ws.getD k 0) }) s

/-- PBIND: D is a raw field. -/
def formPbind (f : FM) : Form :=
  let b := fmForm f (List.range 16) [0] false false false
  let u := f.d.getLsbD 7
  { b with rsv := b.rsv && f.mod == 0 && bits f.d.toNat 6 4 == 0 && (!u || f.a == 0)
           ops := if u then [] else [src 1 f.a 2 kV]
           bad := if 16 ≤ f.b.toNat then [2] else [] }

/-- The declaration a team's entry gives a region (R125, R315). -/
def State.planeOf (s : State) (t : Team) (d : Nat) : Option PlaneDecl :=
  let g := s.gridOf t
  if g.entry.plnn ≤ d then none
  else match (s.ctx g.ctx).objs.find? fun o => o.addr == g.code with
    | some o => o.planes[g.entry.pln0 + d]?
    | none => none

/-- R315: the copies meet the conditions. -/
def Team.bindOk (t : Team) (d : PlaneDecl) (a b : Nat) : Bool :=
  let n := d.bytes
  let free (x : Nat) : Bool := x % 128 == 0 && decide (x + n ≤ t.loc.size) && !t.loc.fifoIn x n && (t.loc.busyLine x n).isNone && !t.inPlane x n
  free a && free b && !(decide (a < b + n) && decide (b < a + n))

/-- R315, R324: the bind. -/
def Team.bind (t : Team) (k d : Nat) (decl : PlaneDecl) (a b : Nat) : Team :=
  let n := decl.bytes
  { t with slots := mset t.slots k (Region.fresh decl d a b)
           loc := { t.loc with data := if decl.carry then moveCells t.loc.data a b n else clearCells t.loc.data b n } }

/-- R329: after an unbind the next copy's bytes are undefined. -/
def Team.unbind (t : Team) (k free : Nat) : Team :=
  match mget t.slots k with
  | none => t
  | some r =>
    { t with slots := mdel t.slots k
             loc := t.loc.write r.next ((List.range r.decl.bytes).map fun i => freeByte (free + i)) }

/-- R316: a gang peer holds another declaration in the slot. -/
def State.bindClash (s : State) (t : Team) (k d : Nat) : Bool :=
  match t.gang with
  | none => false
  | some g => (s.gangTeams g).any fun x => match mget ((mget s.teams x).getD default).slots k with
    | some r => r.index != d
    | none => false

/-- PBIND (R315, R316, R334). -/
def execPbind (f : FM) (s : State) : Out :=
  issue (formPbind f) f.pred [] (tokenOf f) s fun e =>
    let k := f.b.toNat
    let d := f.d.toNat % 16
    let t := e.wv.team
    if e.L = 0 || e.performed &&& e.L != 0 then e.long (tokenOf f) (!f.tv) (fun _ => {}) e.s
    else if e.berth then e.fault 0x70 e.L
    else if f.d.getLsbD 7 then
      match mget e.team.slots k with
      | none => e.fault 0x70 e.L
      | some r =>
        let e := e.upWave (e.markPerf e.L)
        let (b, s) := e.s.fresh r.decl.bytes
        let s := s.updTeam t (·.unbind k b)
        let s := match e.team.gang with
          | some g => ((s.gangTeams g).take 1).foldl (fun s x => State.syncStep x s k) s
          | none => s
        e.long (tokenOf f) (!f.tv) (fun _ => {}) s
    else match e.s.planeOf e.team d with
      | none => e.fault 0x70 e.L
      | some decl =>
        let x := e.src64 f.a e.l0
        if (mget e.team.slots k).isSome || !e.team.bindOk decl (x % 2 ^ 32) (x / 2 ^ 32) then e.fault 0x70 e.L
        else if e.s.bindClash e.team k d then e.fault 0x71 e.L
        else
          let e := e.upWave (e.markPerf e.L)
          e.long (tokenOf f) (!f.tv) (fun _ => {}) (e.s.updTeam t fun y => y.bind k d decl (x % 2 ^ 32) (x / 2 ^ 32))

end Sys2Proof.Machine
end

