-- ==== Sys2Proof/Machine/Wake.lean ====
section
/-! DEFINITION. Wakes and the states of a queue between them (R110 to R112). -/
namespace Sys2Proof.Machine

/-- R106, R279: whether an agent waits for the host's answer, or for a pilot to take it (R114). -/
def State.awaits (s : State) (a : FaultAgent) : Bool :=
  s.page.faults.any (fun f => f.agents.contains a) || s.host.events.any fun e => match e.act with
    | .answer _ _ b => b == a
    | _ => false
/-- An agent no longer waits: its access is given up. -/
def State.giveUp (s : State) (a : FaultAgent) : State :=
  { s with
    page := { s.page with faults := s.page.faults.map fun f => { f with agents := f.agents.filter (· != a) } }
    host := { s.host with events := s.host.events.filter fun e => match e.act with
      | .answer _ _ b => b != a
      | _ => true } }
/-- R279: the command processor waits on a fault; it is island 0x99 (R281, R477). -/
def State.cpWait (s : State) (c : Nat) (f : TFault) (acc : Access) (a : FaultAgent) : State := (s.raiseFault c f acc 0xFF 0x99 a).2

/-- R84, R107: the EVENT record of a status of a queue's packet. -/
def State.statusEvent (s : State) (c code detail index launch : Nat) : State :=
  s.event c (if code = 8 then 0xC0 else detail % 256)
    { xinfo := statusWord code detail + index % 2 ^ 32 * 2 ^ 32, launch := launch }

/-- R277: a context that reaches a frame which the device has retired goes to FAULTED. -/
def State.reached (s : State) (c : Nat) (f : TFault) : State :=
  match s.goneFrame c f with
  | some pa => s.frameLost c pa
  | none => s
/-- R112: a queue goes to FAULTED; its fault status may stand in a retired frame (R277). -/
def State.loseQueue (s : State) (q code detail index : Nat) : State :=
  let s := s.faultQueue q code detail index
  match s.agentFault (s.queue q).ctx ((s.queue q).ctl + 0x20) 8 1 with
  | some f => s.reached (s.queue q).ctx f
  | none => s
/-- R106: a read of the control block or of a slot failed: the queue goes to FAULTED. -/
def State.queueFail (s : State) (q cause : Nat) : State :=
  let x := s.queue q
  (s.loseQueue q 7 cause x.decode).statusEvent x.ctx 7 cause x.decode 0

/-- R103: the faults of a control block: of the read of WRITE, and of the writes of the device's words, each with its access. -/
def State.blockFault (s : State) (c ctl : Nat) : Option (TFault × Access) :=
  ((s.rangeFault c ctl 8 0).map fun f => (f, 0)).orElse fun _ => (s.agentFault c (ctl + 8) 32 1).map fun f => (f, 1)
/-- The faults of a queue's control block. -/
def State.ctlFault (s : State) (q : Nat) : Option (TFault × Access) := s.blockFault (s.queue q).ctx (s.queue q).ctl
/-- R106, R279, R277: a fault of the control block or of a slot: it waits for the host, or the queue fails, with its context at a retired
frame. -/
def State.queueFault (s : State) (q : Nat) (f : TFault × Access) : State :=
  if resolvable f.1.kind then s.cpWait (s.queue q).ctx f.1 f.2 (.queue q)
  else
    let s := s.reached (s.queue q).ctx f.1
    if (s.queue q).st == .faulted then s else s.queueFail q f.1.cause

/-- A 64-bit word of a packet by its byte offset. -/
def Pkt.word (p : Pkt) (off : Nat) : Nat := p.words.getD (off / 8) 0
/-- R104: a packet's kind. -/
def Pkt.kind (p : Pkt) : Nat := p.word 0 % 256

/-- R112: an uncompleted packet that holds back the decode of later ones: WAIT, FENCE, ENERGY, or BARRIER; or one whose
decode goes on, or that will send the queue to FAULTED. -/
def Pkt.holds (p : Pkt) : Bool :=
  let h := p.words.getD 0 0
  p.opening || (p.done.map (·.1)).any (fun c => c == 7 || c == 8) || bitAt h 14 || [6, 10, 11].contains (h % 256)
/-- R112: a decode of the queue is held back. -/
def Queue.heldBack (q : Queue) : Bool := q.pkts.any fun p => p.2.holds

/-- The WAIT a queue is held at. -/
def Queue.waiting (q : Queue) : Option (Nat × Pkt) := q.pkts.find? fun p => p.2.kind == 0x06 && !p.2.opening && p.2.done.isNone
/-- R114: an event enters the event queue. -/
def State.post (s : State) (kind : Nat) (q : Option Nat) (a : PilotAct) : State :=
  { s with host := { s.host with events := s.host.events ++ [{ kind := kind, queue := q, act := a }] } }
/-- R108: a queue held at a WAIT reads its signal again. -/
def State.postReread (s : State) (kind q : Nat) : State := if (s.queue q).waiting.isSome then s.post kind (some q) (.row (.waitReread q)) else s
/-- R119: the Pilot complex runs. -/
def State.pilots (s : State) : Bool := s.dev.pilotDown.isNone

/-- R110: clears a queue's bit of the wake latch. -/
def State.unlatch (s : State) (q : Nat) : State := { s with host := { s.host with latch := s.host.latch.filter (· != q) } }

/-- R112: a MAPPED-IDLE queue whose latch bit is set re-reads WRITE. -/
def State.rereadWrite (s : State) (q : Nat) : State :=
  let x := s.queue q
  if !s.host.latch.contains q || s.awaits (.queue q) || !s.pilots then s
  else match s.ctlFault q with
    | some f => s.queueFault q f
    | none =>
      let w := s.svnum x.ctx x.ctl 8
      (s.unlatch q).updQueue q fun y => { y with write := w, st := if y.decode < w then .mappedActive else .mappedIdle, idleAt := s.now }

/-- R112: the state of a queue after a wake, a decode or a completion. -/
def State.settleQueue (s : State) (q : Nat) : State :=
  let x := s.queue q
  match x.st with
  | .idleUnmapped => if s.host.latch.contains q then s.updQueue q fun y => { y with st := .runnableUnmapped } else s
  | .mappedActive =>
    if x.write ≤ x.decode && !x.heldBack then (s.updQueue q fun y => { y with st := .mappedIdle, idleAt := s.now }).rereadWrite q else s
  | .mappedIdle => s.rereadWrite q
  | _ => s

/-- R110, R114: sets a queue's bit of the wake latch; an event brings what the bit makes of the queue. -/
def State.wakeQueue (s : State) (q : Nat) : State :=
  match mget s.queues q with
  | none => s
  | some x =>
    if x.st == .destroyed then s
    else
      (if s.host.latch.contains q then s else { s with host := { s.host with latch := s.host.latch ++ [q] } }).post 0 (some q) (.wake q)

/-- R422: the host port is open to traffic. -/
def State.hostUp (s : State) : Bool :=
  let st := (s.ports.getD 0 default).st
  st == .up || st == .degraded
/-- R422: no access of the host waits for its port. -/
def State.hostOpen (s : State) : Bool := s.hostUp && s.host.waiting.isEmpty
/-- R415, R422: an access of the host reaches BAR 0, or device memory, while the host port is open; while it retrains, and behind others that
waited, it waits. -/
def State.hostWrite (s : State) (a : HostAct) (f : State → State) : State :=
  if s.hostOpen then (f s).tick
  else if s.hostUp || (s.ports.getD 0 default).st == .retraining then { s with host := { s.host with waiting := s.host.waiting ++ [a] } }
  else s

/-- WAKE_REGISTER_WRITE (R110). -/
def execWakeRegisterWrite (q : Nat) (s : State) : Host.Outcome State Fault Refusal := .next (s.hostWrite (.wake q) (·.wakeQueue q))

end Sys2Proof.Machine
end

