-- ==== Sys2Proof/Machine/System.lean ====
section
/-! DEFINITION. System instructions, opcodes 0xE0 to 0xE7: special registers (R82, R159, R428 to R432), software traps and
the return (R433, R434), clocks and energy (R435, R441), measurement (R90 to R93) and signals (R120 to R122). -/
namespace Sys2Proof.Machine

/-! ## Special registers (R431, R432) -/

/-- R289: the FIFOMAP of a team is written: pages turn into empty windows, or into zero pages with every tag EMPTY. -/
def Local.setFifomap (lo : Local) (x : Word) : Local :=
  let moved := (List.range 32).filter fun k => lo.fifomap.getLsbD k != x.getLsbD k
  let wipe (lo : Local) (k : Nat) : Local :=
    { lo with data := clearCells lo.data (8192 * k) 8192, tags := lo.tags.filter fun t => t.1 / 64 != k
              pages := mdel lo.pages k, fifos := mdel lo.fifos k }
  { moved.foldl wipe lo with fifomap := x }
/-- R289: FIFO frames for the windows of a FIFOMAP value, beside those of the other teams on the core. -/
def State.fifoRoom (s : State) (t : Nat) (x : Word) : Bool :=
  let tm := (mget s.teams t).getD default
  let others := s.teams.foldl (fun a y => if y.1 != t && y.2.core == tm.core && y.2.onCore then a + y.2.loc.windows false else a) 0
  x &&& ~~~ tm.loc.fifomap == 0 || decide (others + ({ tm.loc with fifomap := x }).windows false ≤ 8 * s.octantsIn tm.core 2)
/-- R289: a write to FIFOMAP; while a frame it needs is not free, it waits behind the earlier ones. -/
def State.writeFifomap (s : State) (t : Nat) (x : Word) : State :=
  let now := ((mget s.teams t).getD default).loc.fifoPend.isEmpty && s.fifoRoom t x
  s.updTeam t fun y => { y with loc := if now then y.loc.setFifomap x else { y.loc with fifoPend := y.loc.fifoPend ++ [x] } }
/-- R289: a set bit for a page at or beyond P. -/
def Local.fifomapBad (lo : Local) (x : Word) : Bool := (List.range 32).any fun k => x.getLsbD k && decide (lo.size / 8192 ≤ k)

/-- R81, R82: the unit counts and identity registers 0x0100 to 0x010E. -/
def Env.idReg (e : Env) (n : Nat) : Nat :=
  let d := e.s.dev
  let p := e.team.part
  let mask (lo : Nat) : Nat := (List.range 32).foldl (fun a i => if d.clusterIn p (lo + i) then a + 2 ^ i else a) 0
  match n with
  | 0 => Config.archver.toNat
  | 1 => Config.stepping.toNat
  | 2 => e.wv.ctxn
  | 3 => p + (d.mask p).toNat * 256
  | 4 => mask 0
  | 5 => mask 32
  | 6 => (d.cores p).length
  | 7 => (d.mxes p).length
  | 8 => (List.range 8).foldl (fun a i => if d.retiredHbm.contains i then a else a + 2 ^ i) 0
  | 9 => bn d.paired + 2 * d.index + 4 * bn e.ctx.desc.pairctx
  | 10 => e.s.seedOf e.wv % 2 ^ 32
  | 11 => e.s.seedOf e.wv / 2 ^ 32
  | 12 => e.s.launchOf e.wv % 2 ^ 32
  | 13 => e.s.launchOf e.wv / 2 ^ 32
  | _ => e.ctx.count % 2 ^ 32

/-- The entry a wave runs: its grid's, or its berth's stage's. -/
def Env.entry (e : Env) : Entry :=
  match e.wv.berth with
  | some b => (((e.s.flow b.flow).stage b.delivered).getD default).entry
  | none => e.s.entryOf e.team

/-- R159: the group registers 0x0110 to 0x0113. -/
def Env.groupReg (e : Env) (n : Nat) : Nat :=
  match n with
  | 0 => e.wv.core + e.wv.quad * 256 + e.wv.core / 4 * 65536
  | 1 => (e.s.liveWaves e.wv.team).length + e.entry.waves * 256 + (match e.team.gang with
    | some g => ((mget e.s.gangs g).getD default).teams.length
    | none => 0) * 65536
  | 2 => e.wv.mfreads.toNat
  | _ => match e.team.priv with
    | some p => p
    | none => 0xFFFF

/-- R283, R289, R292: the local-store registers 0x0120 to 0x0123. -/
def Env.localReg (e : Env) (n : Nat) : Nat :=
  let t := e.team
  match n with
  | 0 => (List.range 8).foldl (fun a o => a + (e.s.dev.octantModes t.core).getD o 0 * 4 ^ o) 0
  | 1 => (t.loc.fifoPend.getLast?.getD t.loc.fifomap).toNat
  | 2 => t.sub.toNat % 2 ^ 32
  | _ => t.sub.toNat / 2 ^ 32

/-- R428: a trap register as a lane reads it. -/
def Env.trapReg (e : Env) (n l : Nat) : Nat :=
  let x := e.wv.x
  let base := e.ctx.desc.trapbase.toNat
  match n with
  | 0 => x.xpc.toNat % 2 ^ 32
  | 1 => x.xpc.toNat / 2 ^ 32
  | 2 => x.cause.toNat
  | 3 => x.addr.toNat % 2 ^ 32
  | 4 => x.addr.toNat / 2 ^ 32
  | 5 => x.lanes.toNat
  | 6 => x.info.toNat
  | 7 => x.resume.toNat
  | 8 => base % 2 ^ 32
  | 9 => base / 2 ^ 32
  | 10 => (e.wv.lane l).xlpc.toNat % 2 ^ 32
  | _ => (e.wv.lane l).xlpc.toNat / 2 ^ 32

/-- R429: a debug register. -/
def DbgRegs.reg (d : DbgRegs) (n : Nat) : Nat :=
  let w := (d.watch.getD ((n - 4) / 2) 0).toNat
  match n with
  | 0 => d.ctl.toNat
  | 1 => d.brkl.toNat
  | 2 => d.brkh.toNat
  | _ => if n % 2 = 0 then w % 2 ^ 32 else w / 2 ^ 32

/-- R432: a special register as lane l reads it; none is not defined. -/
def Env.sreg (e : Env) (n l : Nat) : Option Nat :=
  let ln := e.wv.lane l
  if n = 0x10 then some ln.lsr.toNat
  else if n = 0x11 then some ln.srcnt.toNat
  else if 0x20 ≤ n && n ≤ 0x23 then some (ln.idx (n - 0x20)).toNat
  else if 0x30 ≤ n && n ≤ 0x3B && n != 0x33 then some (e.wv.dbg.reg (n - 0x30))
  else if 0x40 ≤ n && n ≤ 0x4B then some (e.trapReg (n - 0x40) l)
  else if 0x100 ≤ n && n ≤ 0x10E then some (e.idReg (n - 0x100))
  else if 0x110 ≤ n && n ≤ 0x113 then some (e.groupReg (n - 0x110))
  else if 0x120 ≤ n && n ≤ 0x123 then some (e.localReg (n - 0x120))
  else none

/-- The index register a register number is. -/
def idxOf (f : FI) : List RegId :=
  let n := f.imm.toNat % 65536
  if 0x20 ≤ n && n ≤ 0x23 then [.i (n - 0x20)] else []

/-- SRD. -/
def formSrd (f : FI) : Form :=
  { rsv := f.mod == 0 && f.a == 0 && f.imm.toNat / 65536 == 0, ops := [dst 0 f.d 1 kVW], rd := idxOf f }
/-- SRD (R431). -/
def execSrd (f : FI) (s : State) : Out :=
  issue (formSrd f) f.pred [] none s fun e =>
    let n := f.imm.toNat % 65536
    if (e.sreg n 0).isNone && e.L != 0 then e.fault 0x2C e.L
    else e.short fun l => { regs := e.put f.d 0 l ((e.sreg n l).getD 0) }

/-- The low half of a double word replaced, kept to a mask. -/
def lowHalf (x : DWord) (v mask : Nat) : DWord := BitVec.ofNat 64 (x.toNat / 2 ^ 32 * 2 ^ 32 + Nat.land v mask)
/-- The high half of a double word replaced, kept to a mask. -/
def highHalf (x : DWord) (v mask : Nat) : DWord := BitVec.ofNat 64 (x.toNat % 2 ^ 32 + Nat.land v mask * 2 ^ 32)

/-- R429: writes a debug register. -/
def DbgRegs.setReg (d : DbgRegs) (n v : Nat) : DbgRegs :=
  match n with
  | 0 => { d with ctl := BitVec.ofNat 32 (v % 64) }
  | 1 => { d with brkl := BitVec.ofNat 32 v }
  | 2 => { d with brkh := BitVec.ofNat 32 v }
  | _ => { d with watch := updAt d.watch ((n - 4) / 2) fun x =>
      if n % 2 = 0 then lowHalf x v 0xFFFFFF83 else highHalf x v 0x1FFFFFF }

/-- R428: writes a wave's trap register. -/
def XRegs.setReg (x : XRegs) (n v : Nat) : XRegs :=
  match n with
  | 0 => { x with xpc := lowHalf x.xpc v 0xFFFFFFFF }
  | 1 => { x with xpc := highHalf x.xpc v 0x1FFFFFF }
  | 2 => { x with cause := BitVec.ofNat 32 (v % 256) }
  | 3 => { x with addr := lowHalf x.addr v 0xFFFFFFFF }
  | 4 => { x with addr := highHalf x.addr v 0xFFFFFFFF }
  | 5 => { x with lanes := BitVec.ofNat 32 v }
  | 6 => { x with info := BitVec.ofNat 32 v }
  | _ => { x with resume := BitVec.ofNat 32 (v % 2) }

/-- R32: the bits of `LSR` that exist. -/
def lsrMask : Nat := 0x71F

/-- SWR. -/
def formSwr (f : FI) : Form :=
  { rsv := f.mod == 0 && f.d == 0 && f.imm.toNat / 65536 == 0, ops := [src 1 f.a], wr := idxOf f }
/-- SWR (R431, R432). -/
def execSwr (f : FI) (s : State) : Out :=
  issue (formSwr f) f.pred [] none s fun e =>
    let n := f.imm.toNat % 65536
    let v (l : Nat) : Nat := e.src constInt f.a l
    let x := v e.l0
    let no : State := e.fault 0x2C e.L
    if e.L = 0 then e.idle
    else if n = 0x10 then
      let bad := e.L &&& maskOf fun l => bits (v l) 10 8 == 0 || bits (v l) 10 8 == 7
      if bad != 0 then e.fault 0x05 bad
      else (e.upWave fun wv => wv.updLanes e.L fun l ln => { ln with lsr := BitVec.ofNat 32 (Nat.land (v l) lsrMask) }).idle
    else if 0x20 ≤ n && n ≤ 0x23 then
      (e.upWave fun wv => wv.updLanes e.L fun l ln => ln.setIdx (n - 0x20) (BitVec.ofNat 32 (v l))).idle
    else if 0x30 ≤ n && n ≤ 0x3B && n != 0x33 then
      (e.upWave fun wv => { wv with dbg := wv.dbg.setReg (n - 0x30) x }).idle
    else if 0x40 ≤ n && n ≤ 0x47 then
      if e.wv.trapped then (e.upWave fun wv => { wv with x := wv.x.setReg (n - 0x40) x }).idle else no
    else if n = 0x4A || n = 0x4B then
      if !e.wv.trapped || e.L &&& ~~~ e.wv.x.s != 0 then no
      else (e.upWave fun wv => wv.updLanes e.L fun l ln =>
        { ln with xlpc := if n = 0x4A then lowHalf ln.xlpc (v l) 0xFFFFFFFF else highHalf ln.xlpc (v l) 0xFFFFFFFF }).idle
    else if n = 0x121 then
      let w := BitVec.ofNat 32 x
      if e.team.loc.fifomapBad w then e.fault 0x60 e.L
      else e.done (e.s.writeFifomap e.wv.team w)
    else if n = 0x122 then e.done (e.s.updTeam e.wv.team fun t => { t with sub := lowHalf t.sub x 0xFFFFFFFF })
    else if n = 0x123 then e.done (e.s.updTeam e.wv.team fun t => { t with sub := highHalf t.sub x 0xFFFFFFFF })
    else no

/-- FIFOMAP_WRITE (R289): a write to a team's FIFOMAP that waited for a frame takes effect. -/
def execFifomapWrite (t : Nat) (x : Word) (s : State) : Out :=
  .next (match mget s.teams t with
    | none => s
    | some tm => match tm.loc.fifoPend with
      | [] => s
      | y :: rest =>
        if x != y || !tm.onCore || !s.fifoRoom t y then s
        else (s.updTeam t fun z => { z with loc := { (z.loc.setFifomap y) with fifoPend := rest } }).tick)

/-! ## TRAP and TRET (R433, R434) -/

/-- TRAP. -/
def formTrap (f : FI) : Form := { rsv := f.mod == 0 && f.d == 0 && f.a == 0 && decide (f.imm.toNat < 32) }
/-- R430: the cause of software trap n. -/
def trapCause (n : Nat) : Nat := if n < 16 then 0x10 + n else 0x20 + n
/-- TRAP (R433). -/
def execTrap (f : FI) (s : State) : Out :=
  issue (formTrap f) f.pred [] none s fun e =>
    if e.L = 0 then e.idle
    else (e.upWave (·.after { cause := trapCause f.imm.toNat, lanes := e.L, addr := 0, info := BitVec.ofNat 32 e.cl.idx, after := true })).idle

/-- TRET. -/
def formTret (f : F3) : Form := { rsv := f.clear { mod := 3 }, mods := always f.pred && f.mod.toNat % 4 != 3 }
/-- TRET (R434). -/
def execTret (f : F3) (s : State) : Out :=
  issue (formTret f) f.pred [] none s fun e =>
    if !e.wv.trapped then (if e.L = 0 then e.idle else e.fault 0x0A e.L) else (e.upWave (·.tret (f.mod.toNat % 4))).idle

/-! ## CLOCK and ECNT (R435, R441) -/

/-- CLOCK. -/
def formClock (f : F3) : Form := { rsv := f.clear { d := true, mod := 1 }, ops := [dst 0 f.d 2 kV] }
/-- CLOCK (R435): a core's count that is below what the lane has read, on another core, reads as that value. -/
def execClock (f : F3) (s : State) : Out :=
  issue (formClock f) f.pred f.marked none s fun e =>
    if f.mod.getLsbD 0 then
      let x (l : Nat) : Nat := max (e.s.clk e.wv.core) (e.wv.lane l).clkSeen
      (e.upWave (·.updLanes e.L fun l ln => { ln with clkSeen := x l })).short fun l => { regs := e.put64 f.d l (x l) }
    else e.short fun l => { regs := e.put64 f.d l (e.s.now % 2 ^ 64) }

/-- R8: the clusters of cache-die quadrant q. -/
def quadrantClusters (q : Nat) : List Nat := (List.range 64).filter fun c => c % 8 / 2 == q % 4 && c / 16 == q / 4
/-- R439: the clusters of an island; HBM and service islands have none. -/
def islandClusters (n : Nat) : List Nat :=
  if n < 64 then [n] else if n < 128 then [n - 64] else if n < 0x90 then quadrantClusters (n - 0x80) else []
/-- R441: the value of a counter; that of the preceding 100 ms is never below what a lane of L has read (log 149). -/
def Env.energy (e : Env) (n : Nat) : Nat :=
  if n = 0x100 then e.ctx.energy
  else if n = 0x101 then (lanesOf e.L).foldl (fun m l => max m (e.wv.lane l).e100) (e.ctx.spent e.s.dev.time)
  else if (islandClusters n).any (fun c => (e.s.dev.mask e.team.part).getLsbD (c / 8)) then e.s.energy.islands.getD n 0
  else 2 ^ 64 - 1
/-- ECNT. -/
def formEcnt (f : FI) : Form :=
  let n := f.imm.toNat % 65536
  { rsv := f.mod == 0 && f.a == 0 && f.imm.toNat / 65536 == 0, mods := decide (n < 0xA0) || n == 0x100 || n == 0x101
    ops := [dst 0 f.d 2 kVW] }
/-- ECNT (R441). -/
def execEcnt (f : FI) (s : State) : Out :=
  issue (formEcnt f) f.pred [] none s fun e =>
    let n := f.imm.toNat % 65536
    let x := e.energy n % 2 ^ 64
    (if n = 0x101 then e.upWave (·.updLanes e.L fun _ ln => { ln with e100 := x }) else e).short fun l => { regs := e.put64 f.d l x }

/-! ## MEASURE (R90 to R93) -/

/-- MEASURE. -/
def formMeasure (f : FE) : Form :=
  { rsv := f.c == 0 && f.imm.toNat / 2 == 0, ops := [dst 0 f.d 1 kVWZ, src 1 f.a 2 kVW, src 2 f.b] }

/-- R84: the queue whose packet began a launch: of a grid, through its ancestors. -/
def State.gridQueue (s : State) : Nat → Nat → Nat
  | 0, _ => 0
  | n + 1, g =>
    match mget s.grids g with
    | none => 0
    | some x => match x.origin with
      | .packet q _ => q
      | .node q _ _ => q
      | .child _ => s.gridQueue n (x.parent.getD 0)
/-- R84: the queue of a wave's launch. -/
def State.queueOf (s : State) (wv : Wave) : Nat :=
  let t := s.teamOf wv
  if t.berthTeam then (s.flow t.grid).queue else s.gridQueue 17 t.grid

/-- MEASURE (R91). -/
def execMeasure (f : FE) (s : State) : Out :=
  issueAfter (formMeasure f) f.pred [] (some f.mod.toNat) s fun e =>
    let tok := f.mod.toNat
    let c := e.wv.ctxn
    if e.L = 0 then e.long (some tok) false (fun _ => {}) e.s
    else if !e.ctx.desc.meas then e.long (some tok) false (fun l => { regs := e.put f.d 0 l 0x10000000 }) e.s
    else
      let a := e.src64 f.a e.l0
      let n := e.src constInt f.b e.l0
      if 2 ^ 57 < a + n then e.fault 0x40 e.L (BitVec.ofNat 64 a)
      else match e.s.rangeFault c a n 0 with
        | some x => e.laneFault e.s 0 ((lanesOf e.L).map fun l => (l, .xlate x))
        | none =>
          if !e.s.inDevice c a n then e.fault 0xA1 e.L
          else
            let ds := (lanesOf e.L).flatMap fun l => e.put f.d 0 l 0
            let s := if e.s.quiet e.w e.wv then e.s else e.s.overwrite e.w ds
            let s := s.record1 c { type := if f.imm.getLsbD 0 then 4 else 3, subject := e.s.launchOf e.wv, addr := a, len := n,
                                   aux := e.s.queueOf e.wv + 0x10000, digest := treeHash (e.s.svbytes c a n)
                                   waiter := .flight e.w tok ds }
            e.done (s.updWave e.w fun wv => wv.tokUp (some tok))

/-! ## SIGNAL (R120 to R122) -/

/-- SIGNAL. -/
def formSignal (f : FM) : Form :=
  let wake := f.mod.getLsbD 2
  let b := fmForm f [0, 1, 2, 4, 5, 6] [0, 2] true true true
  { b with rsv := b.rsv && !f.mod.getLsbD 3 && (wake || f.b == 0)
           ops := [src 0 f.d 2, src 1 f.a 2 kVW] ++ (if wake then [src 2 f.b] else []) }

/-- R121: the lanes whose queue operand names no queue of the context. -/
def Env.badQueue (e : Env) (f : FM) : LaneMask :=
  e.L &&& maskOf fun l =>
    let q := e.src constInt f.b l
    decide (4096 ≤ q) || (match mget e.s.queues q with
      | none => true
      | some x => x.st == .destroyed || x.ctx != e.wv.ctxn)

/-- R121: one lane's update of a signal by `x`, at the places of its word, and the wake of a queue. -/
def State.signalHeld (s : State) (w : Nat) (f : FM) (l va : Nat) (locs : List Nat) (x q : Nat) : State :=
  let op := f.mod.toNat % 4
  let c := (s.wave w).ctxn
  let (b, s) := s.fresh 8
  let old := leNat (s.readHeld c w l va 8 b locs)
  let v := if op = 0 then x else if op = 1 then old + x else old + 2 ^ 64 - x
  let s := s.writeHeld c w l va locs (leBytes 8 v)
  if f.mod.getLsbD 2 then s.wakeQueue q else s
/-- R121: what a lane of SIGNAL captures: its address, its place, its value, its queue. -/
def Env.signalOps (e : Env) (f : FM) (acc : Access) (va l : Nat) : List Nat := e.heldAt acc va [e.src64 f.d l, e.src constInt f.b l]
/-- R121: one lane's update. -/
def Env.signalLane (e : Env) (f : FM) (s : State) (acc : Access) (l va : Nat) : State :=
  s.signalHeld e.w f l va [e.s.physOf e.wv.ctxn va acc e.wv.core] (e.src64 f.d l) (e.src constInt f.b l)

/-- SIGNAL (R121): the lanes below the first that faults are performed and skipped by a replay. -/
def execSignal (f : FM) (s : State) : Out :=
  issue (formSignal f) f.pred [] (tokenOf f) s fun e =>
    let bad := if f.mod.getLsbD 2 then e.badQueue f else 0
    if bad != 0 then e.fault 0xA0 bad
    else
      let acc : Access := if f.mod.toNat % 4 = 0 then 1 else 2
      let (ps, fs) := checkLanes e.todo fun l => e.place acc 8 (e.ea f 8 l)
      let go := match fs with
        | [] => ps
        | x :: _ => ps.filter fun p => decide (p.1 < x.1)
      if e.behind != 0 && !fs.isEmpty then e.hold
      else
      let e := e.upWave (e.markPerf (maskOf fun l => go.any fun p => p.1 == l))
      if go.any fun p => inMask e.behind p.1 then e.defer (.signal f) f (go.map fun p => (p.1, e.signalOps f acc p.2 p.1)) fun _ => []
      else
      let s := go.foldl (fun s p => e.signalLane f s acc p.1 p.2) e.s
      if fs.isEmpty then e.long (tokenOf f) (!f.tv) (fun _ => {}) s else e.laneFault s acc fs

end Sys2Proof.Machine
end

