-- ==== Sys2Proof/Machine/Mxe.lean ====
section
/-! DEFINITION. The cluster matrix engine (R350 to R365): shape registers, commands and their checks at issue, what a command
computes, and the events that start and complete one. -/
namespace Sys2Proof.Machine

/-! ## Engines and windows (R350, R351) -/

/-- The MXE of a cluster: powered, without windows, until something says otherwise. -/
def State.mxe (s : State) (c : Nat) : Mxe := (mget s.mxes c).getD { powered := true, turn := 0, windows := [] }
/-- Changes the MXE of a cluster. -/
def State.updMxe (s : State) (c : Nat) (g : Mxe → Mxe) : State := { s with mxes := mset s.mxes c (g (s.mxe c)) }
/-- R351: an element of a window. -/
def Window.get (w : Window) (r c : Nat) : Nat := ((mget w.acc (128 * r + c)).getD 0).toNat
/-- Writes an element of a window; +0 is unlisted. -/
def Window.put (w : Window) (r c x : Nat) : Window :=
  let k := 128 * r + c
  { w with acc := if x % 2 ^ 32 = 0 then mdel w.acc k else mset w.acc k (BitVec.ofNat 32 x) }
/-- R351: the kind of a row: INT32, else FP32. -/
def Window.isInt (w : Window) (r : Nat) : Bool := w.ints.contains r
/-- Sets the kind of a row. -/
def Window.setKind (w : Window) (r : Nat) (int : Bool) : Window :=
  { w with ints := if int then (if w.ints.contains r then w.ints else r :: w.ints) else w.ints.filter (· != r) }
/-- R351: an element as a kind reads it; under the other kind it is undefined (`free`). -/
def Window.read (w : Window) (int : Bool) (free r c : Nat) : Nat :=
  if w.isInt r == int then w.get r c else (Config.freeWord (free + 128 * r + c)).toNat

/-! ## SHLD, SHSET, SHGET, MXQRY, MXWAIT (R364) -/

/-- The writes of the sixteen words of a shape register. -/
def shWrites (n : Nat) (bs : List Byte) : List RegWrite :=
  (List.range 16).map fun w => { file := .sh, reg := 16 * n + w, lane := 0, val := BitVec.ofNat 32 (leNat ((bs.drop (4 * w)).take 4)) }

/-- SHLD. -/
def formShld (f : FE) : Form :=
  { rsv := feBits f 15 5 == 0 && f.d == 0 && f.b == 0 && f.c == 0
    ops := [if f.imm.getLsbD 4 then src 1 f.a else src 1 f.a 2 kVW], wr := [.sh (feBits f 3 0)] }
/-- R364: the local source of SHLD. -/
def Env.shPlace (e : Env) (f : FE) : LPlace ⊕ LaneFault :=
  let a := e.src constInt f.a e.l0
  match e.localAt a false with
  | .inr x => .inr x
  | .inl p =>
    if p.off % 64 != 0 then .inr (.cause 0x41 (BitVec.ofNat 64 a))
    else if e.s.inFifo p then .inr (.cause 0x63 (BitVec.ofNat 64 a))
    else .inl p
/-- SHLD (R364): a local load waits for a FILLING line (R251). -/
def execShld (f : FE) (s : State) : Out :=
  issue (formShld f) f.pred [] (some (feTok f)) s fun e =>
    let n := feBits f 3 0
    let tok := some (feTok f)
    if e.L = 0 then e.long tok false (fun _ => {}) e.s
    else if f.imm.getLsbD 4 then
      match e.shPlace f with
      | .inr x => e.laneFault e.s 0 [(e.l0, x)]
      | .inl p =>
        let s := e.s.pin p.team (p.off / 8192)
        if e.s.loadWaits false p || inMask e.behind e.l0 then e.park (.shld f) tok false [(e.l0, parkLane p 0)] (fun _ => shWrites n []) s
        else
          let (b, s) := s.fresh 64
          e.done (s.launch e tok false (shWrites n (e.s.lread p 64 b)) [])
    else match e.place 0 64 (eaOf (e.src64 f.a e.l0) 0 64) with
      | .inr x => e.laneFault e.s 0 [(e.l0, x)]
      | .inl va =>
        if inMask e.behind e.l0 then e.park (.shld f) tok false [(e.l0, e.heldAt 0 va [])] fun _ => shWrites n []
        else
        let (b, s) := e.s.fresh 64
        e.done (s.launch e tok false (shWrites n (e.s.gread e.wv.ctxn e.w e.l0 va 64 b)) [])

/-- SHSET. -/
def formShset (f : FE) : Form :=
  { rsv := feBits f 15 8 == 0 && f.d == 0 && f.b == 0 && f.c == 0, ops := [src 1 f.a], wr := [.sh (feBits f 3 0)] }
/-- SHSET (R364). -/
def execShset (f : FE) (s : State) : Out :=
  issue (formShset f) f.pred [] (some (feTok f)) s fun e =>
    let w : RegWrite := { file := .sh, reg := 16 * feBits f 3 0 + feBits f 7 4, lane := 0, val := BitVec.ofNat 32 (e.src constInt f.a e.l0) }
    e.done (e.s.launch e (some (feTok f)) false [w] [])
/-- SHGET. -/
def formShget (f : FE) : Form :=
  { rsv := feBits f 15 8 == 0 && f.a == 0 && f.b == 0 && f.c == 0, ops := [dst 0 f.d 1 kVWZ], rd := [.sh (feBits f 3 0)] }
/-- SHGET (R364). -/
def execShget (f : FE) (s : State) : Out :=
  issue (formShget f) f.pred [] (some (feTok f)) s fun e =>
    e.long (some (feTok f)) false (fun l => { regs := e.put f.d 0 l (e.shapeReg (feBits f 3 0) / 2 ^ (32 * feBits f 7 4) % 2 ^ 32) }) e.s

/-- MXQRY. -/
def formMxqry (f : FE) : Form :=
  { rsv := feBits f 15 3 == 0 && f.a == 0 && f.b == 0 && f.c == 0, mods := decide (feBits f 2 0 ≤ 5), ops := [dst 0 f.d 1 kVWZ] }
/-- MXQRY (R364); before any command has stopped, what it would say of one is undefined. -/
def execMxqry (f : FE) (s : State) : Out :=
  issue (formMxqry f) f.pred [] (some (feTok f)) s fun e =>
    let (b, s) := e.s.fresh 1
    let sel := feBits f 2 0
    let none_ := (Config.freeWord b).toNat
    let x : Nat := match sel with
      | 0 => (e.s.cmds.filter fun k => k.2.wave == e.w).length
      | 5 => bn ((mget (e.s.mxe (e.wv.core / 4)).windows e.wv.team).isSome || (mget e.s.mxSaved e.wv.team).isSome)
      | _ => match e.wv.mxStop with
        | none => none_
        | some st =>
          let v (i : Nat) : Nat := st.vec.getD i 0
          if sel = 1 then v 0 + 65536 * v 1 else if sel = 2 then v 2 + 65536 * v 3 else if sel = 3 then v 4 else st.status.toNat
    e.long (some (feTok f)) false (fun l => { regs := e.put f.d 0 l x }) s

/-- R364: the word MXWAIT delivers. -/
def MxDone.word (d : MxDone) : Nat :=
  match d.cause with
  | none => 0x80000000
  | some c => 0xC0000000 + c % 256
/-- The reports of a wave's commands issued before a number, the earliest first. -/
def State.mxReports (s : State) (w before : Nat) : Map MxDone := s.mxDone.filter fun d => d.2.wave == w && decide (d.1 < before)
/-- R364: what those commands have left to report: their flags and the cause of the earliest that stopped. -/
def State.mxReport (s : State) (w before : Nat) : MxDone :=
  let ds := s.mxReports w before
  { wave := w, flags := ds.foldl (fun a d => a ||| d.2.flags) 0, cause := ds.findSome? fun d => d.2.cause }
/-- Their reports are delivered. -/
def State.mxClear (s : State) (w before : Nat) : State :=
  { s with mxDone := s.mxDone.filter fun d => !(d.2.wave == w && decide (d.1 < before)) }
/-- MXWAIT. -/
def formMxwait (f : FE) : Form :=
  { rsv := f.imm == 0 && f.a == 0 && f.b == 0 && f.c == 0, ops := [dst 0 f.d 1 kVWZ] }
/-- MXWAIT (R364). -/
def execMxwait (f : FE) (s : State) : Out :=
  issue (formMxwait f) f.pred [] (some (feTok f)) s fun e =>
    let tok := some (feTok f)
    if e.L = 0 then e.long tok false (fun _ => {}) e.s
    else if e.s.cmds.any fun k => k.2.wave == e.w then
      e.park (.mxwait f) tok false ((lanesOf e.L).map fun l => (l, [e.s.key])) (e.slots f.d 1)
    else
      let d := e.s.mxReport e.w e.s.key
      e.long tok false (fun l => { regs := e.put f.d 0 l d.word, flags := d.flags }) (e.s.mxClear e.w e.s.key)

/-! ## Operands of commands (R353, R355) -/

/-- R353: a shape as an operand: a local one resolved to its team and offset. -/
def Env.resolve (e : Env) (sh : Shape) : Shape ⊕ LaneFault :=
  if sh.space != 1 then .inl sh
  else match e.localAt sh.base false with
    | .inl p => .inl { sh with base := p.off, scaleBase := p.team }
    | .inr (.cause 0x60 _) => .inr (.cause 0x6A 0)
    | .inr x => .inr x

/-- R353: the cell index of the last in-bounds element of a plane operand. -/
def Shape.lastCell (sh : Shape) : Nat := sh.bitAddr 0 ((List.range 5).map fun i => ((sh.dim i - 1 : Nat) : Int)) / 64

/-- R353, R355: the extent and the region of a resolved operand; `used` are the bytes of a local one that no FIFO window may meet. -/
def Env.operandFault (e : Env) (sh : Shape) (used : List (Nat × Nat)) : Option LaneFault :=
  if sh.space = 1 then
    if (e.s.loc sh.scaleBase).size < sh.base + extent sh.fmt sh.base sh.elems then some (.cause 0x6A 0)
    else if !e.s.rangeReady sh.scaleBase sh.base (extent sh.fmt sh.base sh.elems) then some .wait
    else (used.find? fun p => (e.s.loc sh.scaleBase).fifoIn p.1 p.2).map fun p => .cause 0x63 (BitVec.ofNat 64 p.1)
  else if sh.space = 2 then
    match mget e.ctx.regions sh.base with
    | none => some (.cause 0x72 0)
    | some r =>
      if !(r.decl.rule == 0 && r.decl.fmt == 12) then some (.cause 0x6B 0)
      else if r.decl.cells ≤ sh.lastCell then some (.cause 0x6A 0)
      else (e.s.rangeFault e.wv.ctxn r.present (8 * (sh.lastCell + 1)) 0 e.lighter).map .xlate
  else none

/-- The bytes of a local operand tensor. -/
def Shape.whole (sh : Shape) : List (Nat × Nat) := [(sh.base, extent sh.fmt sh.base sh.elems)]
/-- The lines of a local operand, with its team. -/
def Shape.lines (sh : Shape) : List (Nat × Nat) :=
  if sh.space = 1 then (linesOf sh.base (extent sh.fmt sh.base sh.elems)).map fun n => (sh.scaleBase, n) else []

/-- R355: a line that an operand may not take: FILLING, or DRAINING for another agent. -/
def Env.lineFault (e : Env) (own : Bool) (x : Nat × Nat) : Option LaneFault :=
  let mine := own && e.s.cmds.any fun k => k.2.team == e.wv.team && k.2.lines.any fun l => l.1 == x.1 && l.2.1 == x.2
  match ((e.s.loc x.1).tagAt x.2).tag with
  | .filling => some (.cause 0x65 (BitVec.ofNat 64 (128 * x.2)))
  | .draining => if mine then none else some (.cause 0x66 (BitVec.ofNat 64 (128 * x.2)))
  | _ => none

/-- R318: the region of a plane operand is declared, when it can be. -/
def declareShape (c : Nat) (s : State) (sh : Shape) : State :=
  if sh.space = 2 && decide (sh.base < (s.ctx c).desc.planecnt) && (mget (s.ctx c).regions sh.base).isNone then
    match s.declare c sh.base with
    | some r => s.addRegion c sh.base r
    | none => s
  else s
/-- R318: a command's reference declares a plane region. -/
def Env.declareFor (e : Env) (shs : List Shape) (k : Env → State) : State :=
  let c := e.wv.ctxn
  if e.s.awayFrom c && shs.any (·.space == 2) then e.fault 0x73 (maskOf (· == e.l0))
  else match shs.find? fun sh => sh.space == 2 && decide (sh.base < e.ctx.desc.planecnt) && (mget e.ctx.regions sh.base).isNone &&
      (e.s.declareFault c sh.base).isSome with
  | some sh => match e.s.declareFault c sh.base with
    | some x => e.declareLost (maskOf (· == e.l0)) x.1 x.2
    | none => k e
  | none => k { e with s := shs.foldl (declareShape c) e.s }

/-- R351: a team takes a window when it holds none and one is free: the saved one, or one of +0 elements. -/
def State.claimWindow (s : State) (c t : Nat) : State :=
  let m := s.mxe c
  if (mget m.windows t).isSome || decide (4 ≤ m.windows.length) then s
  else
    { s.updMxe c fun m => { m with windows := mset m.windows t ((mget s.mxSaved t).getD { acc := [], ints := [] }) } with mxSaved := mdel s.mxSaved t }

/-- R354, R355: a checked command is queued: its lines move, its token counts. -/
def Env.command (e : Env) (i : Instr) (f : FE) (shapes : List Shape) (block : List Word) (start : List Nat)
    (lines : List (Nat × Nat × Bool)) (outs : List (Nat × Nat)) : State :=
  match (lines.findSome? fun x => e.lineFault true (x.1, x.2.1)), outs.findSome? (e.lineFault false) with
  | some x, _ => e.laneFault e.s 0 [(e.l0, x)]
  | none, some x => e.laneFault e.s 0 [(e.l0, x)]
  | none, none =>
    let ds := e.statusDst f.d
    let (k, s) := (e.s.claimWindow (e.wv.core / 4) e.wv.team).newKey
    let s := if s.quiet e.w e.wv then s else s.overwrite e.w ds
    let tagTo (t : Tag) (s : State) (x : Nat × Nat) : State :=
      (s.pin x.1 (x.2 / 64)).updTeam x.1 fun y => { y with loc := y.loc.setTag x.2 { (y.loc.tagAt x.2) with tag := t, owner := 2 * k } }
    let s := (lines.map fun x => (x.1, x.2.1)).foldl (tagTo .draining) s
    let s := outs.foldl (tagTo .filling) s
    let cmd : MxCmd :=
      { instr := i, ctx := e.wv.ctxn, wave := e.w, team := e.wv.team, cluster := e.wv.core / 4, tok := feTok f, dst := ds,
        shapes := shapes, block := block, start := start, id := e.s.logicalId e.wv e.l0, seed := e.s.seedOf e.wv,
        lines := lines, outLines := outs, st := .queued, since := 0, flags := 0 }
    e.done ({ s with cmds := mset s.cmds k cmd }.updWave e.w fun wv => wv.tokUp (some (feTok f)))

/-! ## MXGEMM and MXCONV (R356 to R359) -/

/-- The form of MXGEMM and MXCONV. -/
def formMx (f : FE) : Form :=
  { rsv := f.b == 0 && feBits f 15 15 == 0 && (f.imm.getLsbD 12 || feBits f 14 13 == 0)
    ops := [dst 0 f.d 1 kVWZ, { src 1 f.a 16 kVWonly with align := 8 }, { src 3 f.c 3 { kVWonly with z := true } with align := 4 }]
    bad := if 0xC0 ≤ f.a.toNat && f.a.toNat % 16 != 0 then [1] else []
    rd := [.sh (feBits f 3 0), .sh (feBits f 7 4)] }

/-- R357: one loop level. -/
structure MxLevel where
  count : Nat
  xdim : Nat
  ydim : Nat
  dacc : Int
  dx : Int
  dy : Int
  deriving DecidableEq, Repr, Inhabited

/-- R357: the five levels of a command block, level 0 first. -/
def mxLevels (cb : List Word) : List MxLevel :=
  (List.range 5).map fun j =>
    let a := (cb.getD (4 + 2 * j) 0).toNat
    let b := (cb.getD (5 + 2 * j) 0).toNat
    { count := max 1 (bits a 15 0), xdim := bits a 18 16, ydim := bits a 21 19, dacc := sx 10 (bits a 31 22),
      dx := sx 16 (bits b 15 0), dy := sx 16 (bits b 31 16) }
/-- A word of a command block. -/
def cbWord (cb : List Word) (i : Nat) : Nat := (cb.getD i 0).toNat
/-- R357: the first accumulator row. -/
def mxBase (cb : List Word) : Nat := bits (cbWord cb 14) 11 0

/-- R356: M, K, N of a command's tiles and whether they agree; K of X and of Y. -/
structure MxTile where
  m : Nat
  k : Nat
  n : Nat
  ok : Bool
  deriving DecidableEq, Repr, Inhabited

/-- R356: the tile sizes from the boxes. -/
def mxTile (f : FE) (x y : Shape) : MxTile :=
  let tx := f.imm.getLsbD 8
  let ty := f.imm.getLsbD 9
  let (m, kx) := if tx then (x.boxOf 0, x.boxOf 1) else (x.boxOf 1, x.boxOf 0)
  let (n, ky) := if ty then (y.boxOf 1, y.boxOf 0) else (y.boxOf 0, y.boxOf 1)
  let lim := if f.imm.getLsbD 12 then 64 else 128
  { m := m, k := kx, n := n
    ok := kx == ky && decide (m ≤ lim) && decide (n ≤ lim) && [2, 3, 4].all fun i => x.box.getD i 1 == 1 && y.box.getD i 1 == 1 }

/-- R357: the rows that the iterations touch, lowest and highest. -/
def mxRows (cb : List Word) (m : Nat) : Int × Int :=
  let ls := mxLevels cb
  let ext (l : MxLevel) : Int := l.dacc * ((l.count : Int) - 1)
  (ls.foldl (fun a l => a + min 0 (ext l)) (mxBase cb), ls.foldl (fun a l => a + max 0 (ext l)) ((mxBase cb : Int) + m - 1))

/-- R357: the cause a command block gives. -/
def mxBlockCause (conv : Bool) (cb : List Word) (m : Nat) : Option Nat :=
  let w := cbWord cb 14
  let (lo, hi) := mxRows cb m
  if (mxLevels cb).any (fun l => decide (5 ≤ l.xdim) || decide (5 ≤ l.ydim)) || bits w 31 16 != 0 ||
      (conv && (bitAt w 13 || bits (cbWord cb 15) 7 0 == 0 || bits (cbWord cb 15) 31 8 != 0)) then some 0x67
  else if bits w 15 14 = 3 then some 0x05
  else if lo < 0 || 1023 < hi then some 0x92
  else none

/-- R356: what X and Y accept: a space and a format. -/
def mxAccept (sp fmt : Nat) : Bool := (sp == 1 || sp == 2) && [0, 1, 2, 4, 5, 6, 7, 8, 9, 10].contains fmt
/-- Whether a format is INT8 or UINT8. -/
def isInt8 (fmt : Nat) : Bool := fmt == 9 || fmt == 10

/-- MXGEMM (`conv` false) and MXCONV at issue. -/
def mxIssue (conv : Bool) (i : Instr) (f : FE) (s : State) : Out :=
  issueAfter (formMx f) f.pred [] (some (feTok f)) s fun e =>
    if e.L = 0 then e.long (some (feTok f)) false (fun _ => {}) e.s
    else
      let l := e.l0
      let x := shapeOf (e.shapeReg (feBits f 3 0))
      let y := shapeOf (e.shapeReg (feBits f 7 4))
      let cb := (List.range 16).map fun j => BitVec.ofNat 32 (e.regAt f.a j l)
      let t := mxTile f x y
      let no (c : Nat) : State := e.laneFault e.s 0 [(l, .cause c 0)]
      match x.cause mxAccept, y.cause mxAccept with
      | some c, _ => no c
      | none, some c => no c
      | none, none =>
        if isInt8 x.fmt != isInt8 y.fmt then no 0x6B
        else if !t.ok then no 0x68
        else match mxBlockCause conv cb t.m with
          | some c => no c
          | none => e.declareFor [x, y] fun e => match e.resolve x, e.resolve y with
            | .inr z, _ => e.laneFault e.s 0 [(l, z)]
            | .inl _, .inr z => e.laneFault e.s 0 [(l, z)]
            | .inl x, .inl y =>
              match e.operandFault x x.whole, e.operandFault y y.whole with
              | some z, _ => e.laneFault e.s 0 [(l, z)]
              | none, some z => e.laneFault e.s 0 [(l, z)]
              | none, none =>
                let v (k : Nat) : Nat := if f.c = 0xE8 then 0 else e.regAt f.c k l
                e.command i f [x, y] cb [v 0 % 65536, v 0 / 65536, v 1 % 65536, v 1 / 65536, v 2]
                  (x.lines.map (fun p => (p.1, p.2, f.imm.getLsbD 10)) ++ y.lines.map fun p => (p.1, p.2, f.imm.getLsbD 11)) []

/-- MXGEMM. -/
def formMxgemm (f : FE) : Form := formMx f
/-- MXGEMM (R356). -/
def execMxgemm (f : FE) (s : State) : Out := mxIssue false (.mxgemm f) f s
/-- MXCONV. -/
def formMxconv (f : FE) : Form := formMx f
/-- MXCONV (R356). -/
def execMxconv (f : FE) (s : State) : Out := mxIssue true (.mxconv f) f s

/-- The bytes a shape's space holds at an address. -/
def State.shapeBytes (s : State) (c w free : Nat) (sh : Shape) (a n : Nat) : List Byte :=
  if sh.space = 1 then s.lread { team := sh.scaleBase, off := a } n free else s.gread c w 32 a n free
/-- The bits of an in-bounds element. -/
def State.elemBits (s : State) (c w free : Nat) (sh : Shape) (co : List Int) : Nat :=
  readBits (s.shapeBytes c w free sh) (sh.bitAddr sh.base co) (fmtBits sh.fmt)
/-- R353, R355: the value of an operand element, with the NX of a plane cell whose conversion to FP32 is inexact (R38). -/
def State.elemVal (s : State) (c w free : Nat) (sh : Shape) (co : List Int) : Fv × Flags :=
  if !sh.inb co then (fp32.val sh.oob.toNat, 0)
  else if sh.space = 2 then
    match mget (s.ctx c).regions sh.base with
    | none => (.fin false 0 0, 0)
    | some r =>
      let n := leNat (s.vread c (r.cellAt r.present (sh.bitAddr 0 co / 64)) 8 ((s.wave w).agent 32))
      let (x, g) := fp32.pack 1 false 0 (ofFx r.decl.fxscale (sx 64 n))
      (fp32.val x, g)
  else
    let x := s.elemBits c w free sh co
    if isZb sh.fmt then
      (zbVal (zbK sh.fmt) (leNat (s.shapeBytes c w free sh (sh.scaleAddr sh.base co) 2)) ((co.getD 0 0).toNat % 16) x, 0)
    else ((fmtOf sh.fmt).val x, 0)
/-- The value of an INT8 or UINT8 element; an out-of-bounds one with a fill other than +0 is not stated, nor is a plane cell, which R355
converts to FP32 (log 44). -/
def State.elemInt (s : State) (c w free : Nat) (sh : Shape) (co : List Int) : Int :=
  if sh.inb co && sh.space = 2 then extInt (sh.fmt == 9) 8 (Config.freeWord (free + 131072 + sh.bitAddr 0 co / 64 % 131072)).toNat
  else if sh.inb co then extInt (sh.fmt == 9) 8 (s.elemBits c w free sh co)
  else if sh.oob = 0 then 0
  else extInt (sh.fmt == 9) 8 (Config.freeWord free).toNat

/-- R357: every iteration vector in loop order, level 4 outermost; each lists level 0 first. -/
def mxVectors (cb : List Word) : List (List Nat) :=
  let cs := (mxLevels cb).map (·.count)
  (List.range (prod cs)).map (digits cs)
/-- A vector lies before the start vector. -/
def vecBefore (v start : List Nat) : Bool :=
  let n := (List.range 5).foldl (fun (acc : Option Bool) j =>
    let k := 4 - j
    match acc with
    | some b => some b
    | none => if v.getD k 0 = start.getD k 0 then none else some (decide (v.getD k 0 < start.getD k 0))) none
  n.getD false
/-- R360: the least iteration vector that does not lie before a vector, level 0 first; none past the last. -/
def ceilVec : List Nat → List Nat → Option (List Nat)
  | [], _ => some []
  | c :: cs, ds =>
    let t := ds.tail
    let fits := (cs.zip t).all fun p => decide (p.2 < p.1)
    if fits && decide (ds.headD 0 < c) then some (ds.headD 0 :: t)
    else if cs.isEmpty then none
    else (ceilVec cs (if fits then (t.headD 0 + 1) :: t.tail else t)).map (0 :: ·)
/-- The vector just past one, in loop order. -/
def bumpVec (v : List Nat) : List Nat := (v.headD 0 + 1) :: v.tail
/-- R360: the iteration a command is to make next. -/
def MxCmd.next (k : MxCmd) : Option (List Nat) := ceilVec ((mxLevels k.block).map (·.count)) k.start

/-- R358: an origin moved by an iteration vector along the dimensions the levels name. -/
def mxOrigin (o0 o1 : Int) (ls : List MxLevel) (dim : MxLevel → Nat) (step : MxLevel → Int) (v : List Nat) : List Int :=
  (ls.zip v).foldl (fun o p => updAt o (dim p.1) fun x => x + (p.2 : Int) * step p.1) [o0, o1, 0, 0, 0]
/-- A point one further along a dimension, `k` times. -/
def along (o : List Int) (d : Nat) (k : Int) : List Int := updAt o d (· + k)

/-- R359: the products of one element, group by group. -/
def mxSum : List (List (Fv × Fv)) → Nat → Nat × Flags
  | [], e => (e, 0)
  | g :: t, e =>
    let ps := g.map fun p => Fv.mul p.1 p.2
    let ev := fp32.val e
    let (x, fl) := sumTerms (ps.any (fun p => p.2 != 0) || snans [ev] != 0) (ev :: ps.map (·.1))
    let (y, fm) := mxSum t x
    (y, fl ||| fm)

/-- R358: the constant a masked element takes. -/
def maskConst (cb : List Word) : Nat := [0xFF800000, 0, 0xFF7FFFFF, 0].getD (bits (cbWord cb 14) 15 14) 0

/-- R357: the first accumulator row of an iteration. -/
def mxRow (cb : List Word) (v : List Nat) : Int := ((mxLevels cb).zip v).foldl (fun a p => a + (p.2 : Int) * p.1.dacc) (mxBase cb)
/-- R358: the origins of X and of Y at an iteration. -/
def mxXo (cb : List Word) (v : List Nat) : List Int := mxOrigin (sx 32 (cbWord cb 0)) (sx 32 (cbWord cb 1)) (mxLevels cb) (·.xdim) (·.dx) v
/-- The origin of Y. -/
def mxYo (cb : List Word) (v : List Nat) : List Int := mxOrigin (sx 32 (cbWord cb 2)) (sx 32 (cbWord cb 3)) (mxLevels cb) (·.ydim) (·.dy) v
/-- R358: the coordinates of X(m, k). -/
def mxXAt (f : FE) (conv : Bool) (cb : List Word) (v : List Nat) (m kk : Nat) : List Int :=
  let tx := f.imm.getLsbD 8
  let sigma : Int := if conv then bits (cbWord cb 15) 7 0 else 1
  along (along (mxXo cb v) (if tx then 0 else 1) (sigma * m)) (if tx then 1 else 0) kk
/-- R358: the coordinates of Y(k, n). -/
def mxYAt (f : FE) (cb : List Word) (v : List Nat) (kk n : Nat) : List Int :=
  let ty := f.imm.getLsbD 9
  along (along (mxYo cb v) (if ty then 1 else 0) n) (if ty then 0 else 1) kk

/-- R358, R359: one iteration of MXGEMM or MXCONV on a window, with its flags. -/
def mxIterate (s : State) (k : MxCmd) (f : FE) (conv : Bool) (free : Nat) (v : List Nat) (w : Window) : Window × Flags :=
  let x := k.shapes.getD 0 default
  let y := k.shapes.getD 1 default
  let t := mxTile f x y
  let cb := k.block
  let xo := mxXo cb v
  let yo := mxYo cb v
  let r0 := mxRow cb v
  let tx := f.imm.getLsbD 8
  let ty := f.imm.getLsbD 9
  let xAt := mxXAt f conv cb v
  let yAt := mxYAt f cb v
  let seen := if bitAt (cbWord cb 14) 12 then ((mxVectors cb).takeWhile fun u => vecBefore u v).map (mxRow cb) else []
  let int := isInt8 x.fmt
  let clr := bitAt (cbWord cb 14) 12
  let tri := !conv && bitAt (cbWord cb 14) 13
  let masked (m n : Nat) : Bool :=
    tri && decide (xo.getD (if tx then 0 else 1) 0 + m + sx 32 (cbWord cb 15) < yo.getD (if ty then 1 else 0) 0 + n)
  let g := if decide (16 ≤ fmtBits x.fmt) || decide (16 ≤ fmtBits y.fmt) then 16 else 32
  let row (acc : Window × Flags) (m : Nat) : Window × Flags :=
    let r := (r0 + m).toNat
    let first := clr && !seen.any fun q => decide (q ≤ r0 + m) && decide (r0 + m < q + t.m)
    let xs := (List.range t.k).map fun kk => xAt m kk
    let outs := (List.range t.n).map fun n =>
      let e := if first then 0 else acc.1.read int free r n
      if masked m n then (maskConst cb, (0 : Flags))
      else if int then
        let ps := (xs.zip (List.range t.k)).map fun p =>
          s.elemInt k.ctx k.wave free x p.1 * s.elemInt k.ctx k.wave free y (yAt p.2 n)
        (fitInt false true 32 (ps.foldl (· + ·) (sx 32 e)), 0)
      else
        let ps := (xs.zip (List.range t.k)).map fun p =>
          (s.elemVal k.ctx k.wave free x p.1, s.elemVal k.ctx k.wave free y (yAt p.2 n))
        let (z, fl) := mxSum (runs g (t.k / g + 1) (ps.map fun p => (p.1.1, p.2.1))) e
        (z, ps.foldl (fun a p => a ||| p.1.2 ||| p.2.2) fl)
    let w := (outs.zip (List.range t.n)).foldl (fun (w : Window) p => w.put r p.2 p.1.1) acc.1
    (w.setKind r int, outs.foldl (fun a p => a ||| p.2) acc.2)
  (List.range t.m).foldl row (w, 0)

/-! ## MXELT (R362) -/

/-- MXELT. -/
def formMxelt (f : FE) : Form :=
  { rsv := f.c == 0 && feBits f 15 9 == 0, mods := decide (feBits f 8 5 ≤ 4)
    ops := [dst 0 f.d 1 kVWZ, src 1 f.a, src 2 f.b], rd := if f.imm.getLsbD 4 then [.sh (feBits f 3 0)] else [] }
/-- MXELT (R362). -/
def execMxelt (f : FE) (s : State) : Out :=
  issueAfter (formMxelt f) f.pred [] (some (feTok f)) s fun e =>
    if e.L = 0 then e.long (some (feTok f)) false (fun _ => {}) e.s
    else
      let l := e.l0
      let a := e.src constInt f.a l
      let block := [BitVec.ofNat 32 a, BitVec.ofNat 32 (e.src constF32 f.b l)]
      let no (c : Nat) : State := e.laneFault e.s 0 [(l, .cause c 0)]
      let sh := shapeOf (e.shapeReg (feBits f 3 0))
      if bits a 31 26 != 0 then no 0x67
      else if 1023 < bits a 11 0 + bits a 18 12 then no 0x93
      else if !f.imm.getLsbD 4 then e.command (.mxelt f) f [] block [] [] []
      else match sh.cause fun sp fmt => decide (sp ≤ 1) && decide (fmt ≤ 2) with
        | some c => no c
        | none =>
          if sh.rank != 1 then no 0x67
          else match e.resolve sh with
            | .inr z => e.laneFault e.s 0 [(l, z)]
            | .inl sh =>
              let pages : Option LaneFault :=
                if sh.space = 0 then (e.s.rangeFault e.wv.ctxn sh.base (extent sh.fmt sh.base (min (sh.dim 0) 128)) 0 e.lighter).map .xlate
                else e.operandFault sh sh.whole
              match pages with
              | some z => e.laneFault e.s 0 [(l, z)]
              | none => e.command (.mxelt f) f [sh] block [] (sh.lines.map fun p => (p.1, p.2, false)) []

/-- R362: the activation. -/
def mxAct (act x : Nat) : Nat × Flags :=
  match act with
  | 1 => fp32.minmax true false x 0
  | 2 => sfuSigm x 0x168
  | 3 => sfuTanh x 0x167
  | 4 =>
    let (g, fl) := sfuSigm x 0x168
    let (y, fm) := fp32.finish 1 false 0 (Fv.mul (fp32.val x) (fp32.val g))
    (y, fl ||| fm)
  | _ => (x, 0)
/-- R362: one element. -/
def mxElt (act sc : Nat) (bias : Fv) (e : Nat) : Nat × Flags :=
  let (y, fl) := fp32.finish 1 false 0 (Fv.fma 1 (fp32.val e) (fp32.val sc) bias)
  let (z, fm) := mxAct act y
  (z, fl ||| fm)
/-- R362: MXELT on a window. -/
def mxEltRun (s : State) (k : MxCmd) (f : FE) (free : Nat) (w : Window) : Window × Flags :=
  let a := cbWord k.block 0
  let cols := bits a 25 19 + 1
  let bias (n : Nat) : Fv := match k.shapes with
    | [] => .fin false 0 0
    | sh :: _ => (s.elemVal k.ctx k.wave free sh [(n : Int)]).1
  (List.range (bits a 18 12 + 1)).foldl (fun acc i =>
    let r := bits a 11 0 + i
    let outs := (List.range cols).map fun n =>
      let e := acc.1.get r n
      let (e, g) := if acc.1.isInt r then fp32.pack 1 false 0 (ofIntFv (sx 32 e)) else (e, 0)
      let (y, fl) := mxElt (feBits f 8 5) (cbWord k.block 1) (bias n) e
      (y, fl ||| g)
    let w := (outs.zip (List.range cols)).foldl (fun (w : Window) p => w.put r p.2 p.1.1) acc.1
    (w.setKind r false, outs.foldl (fun x p => x ||| p.2) acc.2)) (w, 0)

/-! ## MXLDA and MXSTA (R363) -/

/-- MXLDA. -/
def formMxlda (f : FE) : Form :=
  { rsv := f.b == 0 && f.c == 0 && feBits f 15 8 == 0, mods := feBits f 7 5 != 7
    ops := [dst 0 f.d 1 kVWZ, src 1 f.a 8 kVWonly], rd := [.sh (feBits f 3 0)] }
/-- MXSTA. -/
def formMxsta (f : FE) : Form :=
  { rsv := f.b == 0 && f.c == 0 && feBits f 15 12 == 0 && feBits f 4 4 == 0
    mods := feBits f 7 5 != 7 && (feBits f 10 8 == 1 || feBits f 10 8 == 6)
    ops := [dst 0 f.d 1 kVWZ, src 1 f.a 8 kVWonly], rd := [.sh (feBits f 3 0)] }

/-- The coordinates of a transfer block. -/
def tOrg (tb : List Word) : List Int := (List.range 5).map fun i => sx 32 (cbWord tb i)
/-- R363: the checks of a transfer. -/
def transferCause (sh : Shape) (tb : List Word) : Option Nat :=
  if bits (cbWord tb 5) 31 12 != 0 || cbWord tb 7 != 0 then some 0x67
  else if 128 < sh.boxOf 0 || 1024 < sh.boxOf 1 || [2, 3, 4].any (fun i => sh.box.getD i 1 != 1) then some 0x68
  else if isZb sh.fmt && (sh.boxOf 0 % 16 != 0 || (tOrg tb).getD 0 0 % 16 != 0) then some 0x69
  else if 1024 < bits (cbWord tb 5) 11 0 + sh.boxOf 1 then some 0x93
  else none
/-- R363: the coordinates of element (r, c) of a transfer. -/
def tAt (tb : List Word) (r c : Nat) : List Int := along (along (tOrg tb) 0 c) 1 r
/-- R363: the bytes of the in-bounds pieces of a transfer: address and count. -/
def tPieces (sh : Shape) (tb : List Word) : List (Nat × Nat) :=
  (List.range (sh.boxOf 0 * sh.boxOf 1)).flatMap fun i =>
    let co := tAt tb (i / sh.boxOf 0) (i % sh.boxOf 0)
    if !sh.inb co then []
    else
      let b := sh.bitAddr sh.base co
      (b / 8, (b % 8 + fmtBits sh.fmt + 7) / 8) :: (if isZb sh.fmt && i % 16 == 0 then [(sh.scaleAddr sh.base co, 2)] else [])
/-- R363, R365: the page faults of a transfer in global memory. -/
def Env.transferPages (e : Env) (sh : Shape) (tb : List Word) (acc : Access) : Option LaneFault :=
  if sh.space != 0 then none
  else (tPieces sh tb).findSome? fun p =>
    if 2 ^ 57 < p.1 + p.2 then some (.cause 0x40 (BitVec.ofNat 64 p.1))
    else match e.placeBy e.lighter acc p.2 (.inl p.1) with
      | .inr x => some x
      | .inl _ => none

/-- R363: the accumulator rows a command writes, and whether they become INT32. -/
def MxCmd.writes (k : MxCmd) : List Nat × Bool :=
  let product (f : FE) : List Nat × Bool :=
    let x := k.shapes.getD 0 default
    let t := mxTile f x (k.shapes.getD 1 default)
    (((mxVectors k.block).filter fun v => !vecBefore v k.start).flatMap fun v => (List.range t.m).map fun (m : Nat) => (mxRow k.block v + (m : Int)).toNat, isInt8 x.fmt)
  match k.instr with
  | .mxgemm f => product f
  | .mxconv f => product f
  | .mxelt _ => let a := cbWord k.block 0; ((List.range (bits a 18 12 + 1)).map (bits a 11 0 + ·), false)
  | .mxlda _ => ((List.range ((k.shapes.getD 0 default).boxOf 1)).map (bits (cbWord k.block 5) 11 0 + ·), false)
  | _ => ([], false)
/-- R351, R363: whether a row of a team's window is INT32 once the commands the team has issued are done (a stop of one cancels the
later ones, so a command that acts finds its rows so). -/
def State.rowKind (s : State) (core t r : Nat) : Bool :=
  let now := ((mget (s.mxe (core / 4)).windows t).orElse fun _ => mget s.mxSaved t).any (·.isInt r)
  (s.cmds.filter fun k => k.2.team == t).foldl (fun a k => if k.2.writes.1.contains r then k.2.writes.2 else a) now

/-- MXLDA (`sta` false) and MXSTA at issue. -/
def transferIssue (sta : Bool) (i : Instr) (f : FE) (s : State) : Out :=
  issueAfter (if sta then formMxsta f else formMxlda f) f.pred [] (some (feTok f)) s fun e =>
    if e.L = 0 then e.long (some (feTok f)) false (fun _ => {}) e.s
    else
      let l := e.l0
      let tb := (List.range 8).map fun j => BitVec.ofNat 32 (e.regAt f.a j l)
      let sh := shapeOf (e.shapeReg (feBits f 3 0))
      let accept (sp fmt : Nat) : Bool := decide (sp ≤ 1) && (decide (fmt ≤ 2) || (sta && decide (4 ≤ fmt) && decide (fmt ≤ 10)))
      let no (c : Nat) : State := e.laneFault e.s 0 [(l, .cause c 0)]
      match sh.cause accept with
      | some c => no c
      | none => match transferCause sh tb with
        | some c => no c
        | none => match e.resolve sh with
          | .inr z => e.laneFault e.s 0 [(l, z)]
          | .inl sh => match e.operandFault sh (if sta then tPieces sh tb else sh.whole), e.transferPages sh tb (if sta then 1 else 0) with
            | some z, _ => e.laneFault e.s 0 [(l, z)]
            | none, some z => e.laneFault e.s (if sta then 1 else 0) [(l, z)]
            | none, none =>
              if sta then
                let outs := if sh.space = 1 then dedup ((tPieces sh tb).flatMap fun p => (linesOf p.1 p.2).map fun n => (sh.scaleBase, n)) else []
                let rows := (List.range (sh.boxOf 1)).map (bits (cbWord tb 5) 11 0 + ·)
                if rows.any fun r => e.s.rowKind e.wv.core e.wv.team r != isInt8 sh.fmt then no 0x6B
                else if sh.space == 1 && (tPieces sh tb).any fun p => ((mget e.s.teams sh.scaleBase).getD default).inPlane p.1 p.2 then no 0x74
                else e.command i f [sh] tb [] [] outs
              else e.command i f [sh] tb [] (sh.lines.map fun p => (p.1, p.2, f.imm.getLsbD 4)) []

/-- MXLDA (R363). -/
def execMxlda (f : FE) (s : State) : Out := transferIssue false (.mxlda f) f s
/-- MXSTA (R363). -/
def execMxsta (f : FE) (s : State) : Out := transferIssue true (.mxsta f) f s

/-- R363: MXLDA on a window: FP32 elements as they are, FP16 and BF16 ones converted (R38: a NaN gives the canonical NaN, NV if
signalling). -/
def mxLoad (s : State) (k : MxCmd) (free : Nat) (w : Window) : Window × Flags :=
  let sh := k.shapes.getD 0 default
  let row := bits (cbWord k.block 5) 11 0
  let (w, g) := (List.range (sh.boxOf 0 * sh.boxOf 1)).foldl (fun (w : Window × Flags) i =>
    let r := i / sh.boxOf 0
    let c := i % sh.boxOf 0
    let co := tAt k.block r c
    let (y, g) := if !sh.inb co then (sh.oob.toNat, 0)
      else if sh.fmt = 0 then (s.elemBits k.ctx k.wave free sh co, 0)
      else fp32.pack 1 false 0 ((fmtOf sh.fmt).val (s.elemBits k.ctx k.wave free sh co))
    (w.1.put (row + r) c y, w.2 ||| g)) (w, 0)
  ((List.range (sh.boxOf 1)).foldl (fun (w : Window) r => w.setKind (row + r) false) w, g)

/-- R363: the SR word of element (r, c). -/
def MxCmd.srWord (k : MxCmd) (r c : Nat) : Nat := srHash k.seed k.id ((cbWord k.block 6 + 128 * r + c) % 2 ^ 32)

/-- R363: what MXSTA stores: chunks at addresses of the shape's space, and the flags. -/
def mxStore (k : MxCmd) (f : FE) (free : Nat) (w : Window) : List Chunk × Flags :=
  let sh := k.shapes.getD 0 default
  let row := bits (cbWord k.block 5) 11 0
  let mode := feBits f 10 8
  let sat := f.imm.getLsbD 11
  let cols := sh.boxOf 0
  if isZb sh.fmt then
    let kk := zbK sh.fmt
    let n := 16 * (kk + 1)
    (List.range (sh.boxOf 1 * (cols / 16))).foldl (fun acc i =>
      let r := i / (cols / 16)
      let b := i % (cols / 16)
      let co := tAt k.block r (16 * b)
      if !sh.inb co then acc
      else
        let xs := (List.range 16).map fun j => fp32.val (w.read false free (row + r) (16 * b + j))
        let (rec_, st, g) := zbPack kk mode (fun j => k.srWord r (16 * b + j)) xs
        (acc.1 ++ [bitChunk (sh.bitAddr sh.base co) n st, byteChunk (sh.scaleAddr sh.base co) (leBytes 2 rec_)], acc.2 ||| g)) ([], 0)
  else
    (List.range (sh.boxOf 1 * cols)).foldl (fun acc i =>
      let r := i / cols
      let c := i % cols
      let co := tAt k.block r c
      if !sh.inb co then acc
      else
        let (x, g) := if isInt8 sh.fmt then (fitInt sat (sh.fmt == 9) 8 (sx 32 (w.read true free (row + r) c)), 0)
          else (fmtOf sh.fmt).pack mode sat (k.srWord r c) (fp32.val (w.read false free (row + r) c))
        (acc.1 ++ [bitChunk (sh.bitAddr sh.base co) (fmtBits sh.fmt) x], acc.2 ||| g)) ([], 0)

/-! ## Start and completion (R354, R355, R360, R361) -/

/-- The FE word of a command. -/
def MxCmd.fe (k : MxCmd) : FE :=
  match k.instr with
  | .mxgemm f => f | .mxconv f => f | .mxelt f => f | .mxlda f => f | .mxsta f => f | _ => default
/-- Whether a command is MXGEMM or MXCONV. -/
def MxCmd.product (k : MxCmd) : Bool :=
  match k.instr with
  | .mxgemm _ => true | .mxconv _ => true | _ => false
/-- A quad-mode product. -/
def MxCmd.quad (k : MxCmd) : Bool := k.product && k.fe.imm.getLsbD 12
/-- The sub-array of a quad-mode product. -/
def MxCmd.sub (k : MxCmd) : Nat := feBits k.fe 14 13
/-- The rows of a product. -/
def MxCmd.rows (k : MxCmd) : Int × Int := mxRows k.block (mxTile k.fe (k.shapes.getD 0 default) (k.shapes.getD 1 default)).m

/-- R354: a later command of a team may run beside an earlier one. -/
def MxCmd.beside (k j : MxCmd) : Bool :=
  k.quad && j.quad && j.st == .running && k.sub != j.sub && (decide (k.rows.2 < j.rows.1) || decide (j.rows.2 < k.rows.1))
/-- R350: two commands of a cluster use one array. -/
def MxCmd.sameArray (k j : MxCmd) : Bool := k.product && j.product && (!k.quad || !j.quad || k.sub == j.sub)

/-- R351, R354: a queued command is ready to start. -/
def State.mayStart (s : State) (n : Nat) (k : MxCmd) : Bool :=
  let m := s.mxe k.cluster
  k.st == .queued && m.powered && !(s.ctx k.ctx).preempting && ((mget s.teams k.team).getD default).onCore &&
    ((mget m.windows k.team).isSome || decide (m.windows.length < 4)) &&
    s.cmds.all (fun j => !(decide (j.1 < n) && j.2.team == k.team) || k.beside j.2) &&
    s.cmds.all fun j => !(j.2.cluster == k.cluster && j.2.st == .running) || !k.sameArray j.2

/-- R354: how far off a team's turn is: the teams of a cluster are taken in round robin. -/
def Mxe.rank (m : Mxe) (t : Nat) : Nat := if m.turn < t then t - m.turn else 2 ^ 64 + t
/-- R351, R354, R445: a queued command may start: its MXE is not under test, it is ready, and its team's turn comes before that of any other with a ready command. -/
def State.canStart (s : State) (n : Nat) (k : MxCmd) : Bool :=
  let m := s.mxe k.cluster
  s.mayStart n k && !s.mxeTested k.cluster && s.cmds.all fun j => !(j.2.cluster == k.cluster && s.mayStart j.1 j.2) || decide (m.rank k.team ≤ m.rank j.2.team)

/-- MXE_COMMAND_START (R351, R354). -/
def execMxeCommandStart (n : Nat) (s : State) : Out :=
  .next (match mget s.cmds n with
    | none => s
    | some k =>
      if !s.canStart n k then s
      else
        let s := (s.claimWindow k.cluster k.team).updMxe k.cluster fun m => { m with turn := k.team }
        { s with cmds := mset s.cmds n { k with st := .running, since := s.now } })

/-- R355: a command's lines return: shared ones with the last command that holds them. -/
def State.returnCmdLines (s : State) (n : Nat) (k : MxCmd) : State :=
  let s := k.outLines.foldl (fun (s : State) x => s.updTeam x.1 fun t =>
    { t with loc := t.loc.setTag x.2 { (t.loc.tagAt x.2) with tag := .full, owner := 0 } }) s
  (dedup k.lines).foldl (fun (s : State) x =>
    match s.cmds.find? fun j => j.1 != n && j.2.team == k.team && j.2.lines.any fun y => y.1 == x.1 && y.2.1 == x.2.1 with
    | some j => { s with cmds := mupd s.cmds j.1 fun c =>
        { c with lines := c.lines.map fun y => if y.1 = x.1 && y.2.1 = x.2.1 then (y.1, y.2.1, y.2.2 || x.2.2) else y } }
    | none =>
      let consume := k.lines.any fun y => y.1 == x.1 && y.2.1 == x.2.1 && y.2.2
      s.updTeam x.1 fun t => { t with loc := t.loc.setTag x.2.1 { (t.loc.tagAt x.2.1) with tag := if consume then .empty else .full, owner := 0 } }) s

/-- R361: a command ends with a status. -/
def State.endCmd (s : State) (n : Nat) (k : MxCmd) (status : Nat) (fl : Flags) : State :=
  let s := s.returnCmdLines n k
  let cause := if bitAt status 30 then some (status % 256) else none
  let s := { s with cmds := mdel s.cmds n, mxDone := mset s.mxDone n { wave := k.wave, flags := fl, cause := cause } }
  (s.landOn k.wave k.tok (k.dst.map fun r => { r with val := BitVec.ofNat 32 status })).settleTeam k.team

/-- R360: a command stops on a final fault before an iteration, with the vector it has reached; the team's later queued commands are
cancelled. -/
def State.stopCmd (s : State) (n : Nat) (k : MxCmd) (cause : Nat) : State :=
  let st := 0xC0000000 + cause % 256
  let v := if k.product then k.next.getD k.start else []
  let s := s.updWave k.wave fun wv => { wv with mxStop := some { vec := v ++ List.replicate (5 - v.length) 0, status := BitVec.ofNat 32 st } }
  let later := mkeys s.cmds fun j => j.team == k.team && j.st == .queued
  let s := s.endCmd n k st k.flags
  later.foldl (fun s j => if j ≤ n then s else match mget s.cmds j with
    | some c => s.endCmd j c 0xA0000000 0
    | none => s) s

/-- R355, R360: the first translation fault in the cells of a plane operand that an iteration reads, at the coordinates given. -/
def State.planeFault (s : State) (c ag : Nat) (sh : Shape) (cos : List (List Int)) : Option (TFault × Access) :=
  if sh.space != 2 then none
  else match mget (s.ctx c).regions sh.base with
    | some r => (cos.filter sh.inb).findSome? fun co => (s.rangeFault c (r.cellAt r.present (sh.bitAddr 0 co / 64)) 8 0 ag).map fun x => (x, 0)
    | none => none
/-- R355, R360: the first translation fault of what a running command does next: an iteration of a product, the whole of another. -/
def State.cmdFault (s : State) (k : MxCmd) : Option (TFault × Access) :=
  let product (conv : Bool) : Option (TFault × Access) :=
    let f := k.fe
    let x := k.shapes.getD 0 default
    let y := k.shapes.getD 1 default
    let t := mxTile f x y
    match k.next with
    | none => none
    | some v =>
      (s.planeFault k.ctx (256 + k.cluster) x ((List.range (t.m * t.k)).map fun i => mxXAt f conv k.block v (i / t.k) (i % t.k))).orElse fun _ =>
        s.planeFault k.ctx (256 + k.cluster) y ((List.range (t.k * t.n)).map fun i => mxYAt f k.block v (i / t.n) (i % t.n))
  let pieces (acc : Access) (ps : Shape → List (Nat × Nat)) : Option (TFault × Access) :=
    k.shapes.findSome? fun sh =>
      if sh.space != 0 then none
      else (ps sh).findSome? fun p => (s.agentFault k.ctx p.1 p.2 acc (256 + k.cluster)).map fun x => (x, acc)
  match k.instr with
  | .mxgemm _ => product false
  | .mxconv _ => product true
  | .mxelt _ => pieces 0 fun sh => [(sh.base, extent sh.fmt sh.base (min (sh.dim 0) 128))]
  | .mxsta _ => pieces 1 fun sh => tPieces sh k.block
  | _ => pieces 0 fun sh => tPieces sh k.block

/-- What a command does next to its window and memory, with its flags: an iteration of a product, the whole of another. -/
def State.runCmd (s : State) (k : MxCmd) (w : Window) : Window × Flags × State :=
  let (free, s) := s.fresh 262144
  let product (f : FE) (conv : Bool) : Window × Flags × State := match k.next with
    | none => (w, 0, s)
    | some v => let (w, g) := mxIterate s k f conv free v w; (w, g, s)
  match k.instr with
  | .mxgemm f => product f false
  | .mxconv f => product f true
  | .mxelt f => let (w, g) := mxEltRun s k f free w; (w, g, s)
  | .mxlda _ => let (w, g) := mxLoad s k free w; (w, g, s)
  | .mxsta f =>
    let (cs, g) := mxStore k f free w
    let sh := k.shapes.getD 0 default
    let put (s : State) (c : Chunk) : State :=
      if sh.space = 1 then s.updTeam sh.scaleBase fun t => { t with loc := t.loc.chunk 0 (fun _ => true) c }
      else s.gchunk k.ctx k.wave { c with locs := s.placesOf k.ctx c.addr c.len 1 (256 + k.cluster) }
    (w, g, cs.foldl put s)
  | _ => (w, 0, s)

/-- R360: a command after what it did next: a product stands before its next iteration. -/
def MxCmd.moved (k : MxCmd) (now : Nat) (g : Flags) : MxCmd :=
  { k with start := (if k.product then bumpVec (k.next.getD k.start) else k.start), flags := k.flags ||| g, since := now }
/-- R360: a command has more iterations to make. -/
def MxCmd.more (k : MxCmd) : Bool := k.product && k.next.isSome

/-- MXE_COMMAND_COMPLETE (R360, R361): the command makes its next iteration, and completes with the last; before each a resolvable
translation fault makes it wait, and a final one stops it. -/
def execMxeCommandComplete (n : Nat) (s : State) : Out :=
  .next (match mget s.cmds n with
    | none => s
    | some k =>
      if k.st != .running || s.mxeTested k.cluster || s.page.faults.any (fun r => r.agents.contains (.cmd n)) then s
      else match s.cmdFault k with
        | some (x, acc) =>
          if resolvable x.kind then (s.raiseFault k.ctx x acc 0xFF (0x40 + k.cluster) (.cmd n)).2
          else match s.goneFrame k.ctx x (256 + k.cluster) with
            | some pa => s.frameLost k.ctx pa
            | none => s.stopCmd n k x.cause
        | none =>
          let (w, g, s) := s.runCmd k ((mget (s.mxe k.cluster).windows k.team).getD default)
          let s := (s.updMxe k.cluster fun m => { m with windows := mset m.windows k.team w }).addBusy (0x40 + k.cluster) k.ctx (Config.arrayClocks s.ctr)
          let k := k.moved s.now g
          if k.more then { s with cmds := mset s.cmds n k } else s.endCmd n k 0x80000000 k.flags)

/-- ENGINE_WATCHDOG (R430, R360): a running command made no progress for 100 ms. -/
def execEngineWatchdog (n : Nat) (s : State) : Out :=
  .next (match mget s.cmds n with
    | none => s
    | some k => if k.st != .running || s.now < k.since + 100000000 then s else s.stopCmd n k 0x9F)

/-- MXE_ISLAND_POWER_UP (R16). -/
def execMxeIslandPowerUp (c : Nat) (s : State) : Out :=
  .next (if c < 64 then s.updMxe c fun m => { m with powered := true } else s)
/-- MXE_ISLAND_POWER_DOWN (R16): not while a command of the cluster runs; the accumulator windows keep their contents (log 164). -/
def execMxeIslandPowerDown (c : Nat) (s : State) : Out :=
  .next (if decide (64 ≤ c) || s.cmds.any (fun k => k.2.cluster == c && k.2.st == .running) then s
    else s.updMxe c fun m => { m with powered := false })

end Sys2Proof.Machine
end

