-- ==== Sys2Proof/Machine/Ray.lean ====
section
/-! DEFINITION. Scenes, bin keys, and traversal in exact arithmetic (R369 to R378): FP32 values as integers times 2^-149,
distances as exact ratios. -/
namespace Sys2Proof.Machine

/-! ## Exact values -/

/-- A finite FP32 value as an integer times 2^-149. -/
def f32Int (w : Word) : Option Int :=
  match fp32.val w.toNat with
  | .fin neg m e => some (scaleTo neg m e (-149))
  | _ => none
/-- Finite FP32 values. -/
def f32Ints (ws : List Word) : Option (List Int) := ws.mapM f32Int
/-- The integer of a value known to be finite. -/
def f32I (w : Word) : Int := (f32Int w).getD 0
/-- 2^149. -/
def one149 : Nat := 2 ^ 149

/-- The ratio n / d (d nonzero) rounded once into a format. -/
def FpFmt.ratio (f : FpFmt) (mode : Mode) (n d : Int) : Nat :=
  let a := n.natAbs
  let b := d.natAbs
  if a = 0 || b = 0 then 0
  else
    let k := f.fb + 4 + Nat.log2 b - Nat.log2 a
    let x := a * 2 ^ k
    (f.round mode false 0 (decide (n < 0) != decide (d < 0)) (x / b * 2 + bn (x % b != 0)) (-(k : Int) - 1)).1

/-- A sum of products, scaled by 2^-298, rounded once to FP32 with RNE. -/
def round298 (x : Int) : Word := BitVec.ofNat 32 (fp32.ratio 1 x ((one149 * one149 : Nat) : Int))
/-- A difference, scaled by 2^-149, rounded to FP32 with RNE. -/
def round149 (x : Int) : Word := BitVec.ofNat 32 (fp32.ratio 1 x (one149 : Int))

/-- The order of two distances. -/
def Dist.lt (a b : Dist) : Bool :=
  if a.den = 0 then (if b.den = 0 then decide (a.num < b.num) else decide (a.num < 0))
  else if b.den = 0 then decide (0 < b.num)
  else decide (a.num * b.den < b.num * a.den)
/-- The larger distance. -/
def Dist.max (a b : Dist) : Dist := if a.lt b then b else a
/-- The smaller distance. -/
def Dist.min (a b : Dist) : Dist := if b.lt a then b else a
/-- An FP32 value other than a NaN as a distance. -/
def Dist.of (w : Word) : Dist :=
  match fp32.val w.toNat with
  | .fin neg m e => { num := scaleTo neg m e (-149), den := one149 }
  | .inf neg => { num := if neg then -1 else 1, den := 0 }
  | .nan _ => { num := 1, den := 0 }
/-- A ratio with a nonzero divisor. -/
def Dist.ratio (n d : Int) : Dist := if d < 0 then { num := -n, den := d.natAbs } else { num := n, den := d.natAbs }

/-- R375: the slab rule on one axis: the interval narrowed, none when the ray misses. -/
def slab (iv : Option (Dist × Dist)) (ax : (Int × Int) × (Int × Int)) : Option (Dist × Dist) :=
  match iv with
  | none => none
  | some (near, far) =>
    let (lo, hi) := ax.1
    let (o, d) := ax.2
    if d = 0 then (if o < lo || hi < o then none else some (near, far))
    else
      let a := Dist.ratio ((if d < 0 then hi else lo) - o) d
      let b := Dist.ratio ((if d < 0 then lo else hi) - o) d
      some (near.max a, far.min b)

/-- R375: a box against a ray in [tmin, tbest]: the entry distance, none on a miss. -/
def boxHit (lo hi o d : List Int) (tmin tbest : Dist) : Option Dist :=
  match ((lo.zip hi).zip (o.zip d)).foldl slab (some ({ num := -1, den := 0 }, { num := 1, den := 0 })) with
  | none => none
  | some (near, far) => if far.lt near || tbest.lt near || far.lt tmin then none else some (near.max tmin)

/-! ## Scenes (R369) -/

/-- R369: a scene descriptor. -/
structure Scene where
  root : Nat
  entry : Nat
  gmin : List Word
  gcell : List Word
  miss : Nat
  hg : Nat
  deriving DecidableEq, Repr, Inhabited

/-- The outcome of reading a scene descriptor. -/
inductive SceneRead where
  | ok (sc : Scene)
  | xlate (f : TFault)
  | bad (cause : Nat)
  deriving DecidableEq, Repr, Inhabited

/-- A 32-bit word of a list of bytes. -/
def wordAt (bs : List Byte) (off : Nat) : Word := BitVec.ofNat 32 (leNat ((bs.drop off).take 4))
/-- Whether an FP32 value is finite and above zero. -/
def posFinite (w : Word) : Bool :=
  match f32Int w with
  | some x => decide (0 < x)
  | none => false

/-- R369, R386: reads and checks the descriptor at an address. -/
def State.scene (s : State) (c va ag : Nat) : SceneRead :=
  if va % 64 != 0 then .bad 0x87
  else match s.rangeFault c va 64 0 ag with
    | some f => .xlate f
    | none =>
      let b := s.readAs ag c 0 32 va 64 s.ctr
      let w0 := leNat (b.take 8)
      let w4 := (wordAt b 32).toNat
      let gmin := [wordAt b 8, wordAt b 12, wordAt b 16]
      let gcell := [wordAt b 20, wordAt b 24, wordAt b 28]
      let miss := bits w4 11 0
      let hg := bits w4 27 16
      if bits w0 63 57 != 0 || bits w0 11 6 != 0 || bits w4 15 12 != 0 || bits w4 31 28 != 0 || (b.drop 36).any (· != 0) then .bad 0x88
      else if (f32Ints gmin).isNone || !gcell.all posFinite then .bad 0x89
      else if (s.ctx c).desc.stagecnt ≤ miss || (s.ctx c).desc.stagecnt ≤ hg then .bad 0x8A
      else .ok { root := bits w0 56 12 * 0x1000, entry := bits w0 5 0, gmin := gmin, gcell := gcell, miss := miss, hg := hg }

/-! ## Bin keys (R370) -/

/-- A cell coordinate: the origin, the grid corner, the cell size, the largest coordinate. -/
def cellCoord (o g c : Word) (top : Nat) : Nat :=
  match fp32.val o.toNat with
  | .nan _ => 0
  | .inf neg => if neg then 0 else top
  | .fin .. =>
    let q := (f32I o - f32I g) / f32I c
    if q < 0 then 0 else min top q.toNat

/-- R370: the Morton code of a cell. -/
def morton (x y z : Nat) : Nat :=
  ((List.range 4).map fun i => (bn (bitAt x i) + 2 * bn (bitAt y i) + 4 * bn (bitAt z i)) * 8 ^ i).sum +
    4096 * bn (bitAt x 4) + 8192 * bn (bitAt y 4)

/-- R370: a direction component's magnitude, an infinite one above all; a NaN counts as +0. -/
def dirMag (w : Word) : Nat :=
  match fp32.val w.toNat with
  | .fin .. => (f32I w).natAbs
  | .inf _ => 2 ^ 300
  | .nan _ => 0
/-- R370: a component below zero. -/
def dirNeg (w : Word) : Bool :=
  match fp32.val w.toNat with
  | .fin neg m _ => neg && m != 0
  | .inf neg => neg
  | .nan _ => false
/-- R370, R376: the axis of the largest magnitude, the lowest on ties. -/
def majorAxis (x y z : Nat) : Nat := if y ≤ x && z ≤ x then 0 else if z ≤ y then 1 else 2

/-- Word `i` of a record. -/
def Record.w (r : Record) (i : Nat) : Word := r.words.getD i 0

/-- R370: the key of a ray for a stage, before the hidden override. -/
def Record.rayKey (r : Record) (sc : Scene) (stage : Nat) : Nat :=
  let d := [r.w 4, r.w 5, r.w 6]
  let m := d.map dirMag
  let kz := majorAxis (m.getD 0 0) (m.getD 1 0) (m.getD 2 0)
  let big := m.getD kz 0
  let second := max (m.getD ((kz + 1) % 3) 0) (m.getD ((kz + 2) % 3) 0)
  let oct := 4 * bn (dirNeg (r.w 4)) + 2 * bn (dirNeg (r.w 5)) + bn (dirNeg (r.w 6))
  let fine := 2 * kz + bn (decide (big ≤ 2 * second))
  let cc (i top : Nat) : Nat := cellCoord (r.w i) (sc.gmin.getD i 0) (sc.gcell.getD i 0) top
  let ov := bits (r.w 16).toNat 31 16
  let cell := if bitAt ov 15 then bits ov 13 0 else morton (cc 0 31) (cc 1 31) (cc 2 15)
  stage % 4096 * 2 ^ 20 + (if bitAt ov 14 then 0 else oct * 2 ^ 17 + fine * 2 ^ 14) + cell

/-! ## Traversal steps (R371 to R377) -/

/-- R381: mode bits of a ray. -/
def Record.occ (r : Record) : Bool := r.mode.getLsbD 0
/-- A hidden word. -/
def Record.h (r : Record) (i : Nat) : Word := r.hidden.getD i 0
/-- R367: whether a hit is committed. -/
def Record.hasHit (r : Record) : Bool := (r.h 4).getLsbD 0
/-- R375: tbest: tmax at the start of the traversal, then the time of the last commit. -/
def Record.tbest (r : Record) : Word := (r.trav.map (·.tbest)).getD (r.w 7)
/-- Writes words of a list from an index. -/
def setWords (l : List Word) (i : Nat) (ws : List Word) : List Word := l.take i ++ ws ++ l.drop (i + ws.length)

/-- R377: the order of two times with ids: t < tbest, or equal with the lower pair. -/
def Record.beats (r : Record) (t prim inst : Word) : Bool :=
  let a := Dist.of t
  let b := Dist.of r.tbest
  a.lt b || (!b.lt a && decide (inst.toNat * 2 ^ 32 + prim.toNat < (r.h 2).toNat * 2 ^ 32 + (r.h 1).toNat))
/-- R377: tmin ≤ t ≤ tbest. -/
def Record.inRange (r : Record) (t : Word) : Bool :=
  let a := Dist.of t
  !(fp32.val t.toNat).isNan && !a.lt (Dist.of (r.w 3)) && !(Dist.of r.tbest).lt a
/-- R377: commits a hit. -/
def Record.commit (r : Record) (t prim inst attr : Word) (front : Bool) (stage : Nat) : Record :=
  { r with hidden := setWords r.hidden 0 [t, prim, inst, attr, BitVec.ofNat 32 (1 + 2 * bn front)]
           trav := r.trav.map fun x => { x with hitStage := stage, tbest := t, stack := if r.occ then [] else x.stack } }

/-- The outcome of one traversal step. -/
inductive Visit where
  | go (r : Record)
  | cand (r : Record)
  | bad (cause : Nat)
  | wait (f : TFault)
  deriving DecidableEq, Repr, Inhabited

/-- R374, R371: reads a unit of a treelet. -/
def State.readUnit (s : State) (c ag treelet unit : Nat) : List Byte ⊕ Visit :=
  if 64 ≤ unit then .inr (.bad 0x8C)
  else
    let va := treelet + 64 * unit
    match s.translate c va 0 ag with
    | .bad k lv sz => .inr (.wait { va := va, kind := k, level := lv, size := sz })
    | .ok sys pa p => if bitAt p.leaf.toNat 11 then .inl (s.pread sys pa 64) else .inr (.bad 0x8E)

/-- Byte `i` of a unit as a number. -/
def byteAt (b : List Byte) (i : Nat) : Nat := (b.getD i 0).toNat
/-- Pushes stack entries. -/
def Record.push (r : Record) (es : List StackEnt) : Record := { r with trav := r.trav.map fun x => { x with stack := es ++ x.stack } }

/-- R372, R375: the children of a node from number `i`: the hit ones in popping order; none when the unit is malformed. -/
def nodeKids (b : List Byte) (org : List Int) (ent : StackEnt) (o d : List Int) (tmin tbest : Dist) :
    Nat → Nat → Nat → Nat → Option (List StackEnt)
  | 0, _, _, _ => some []
  | n + 1, i, ri, rl =>
    let q (k : Nat) : Nat := byteAt b (16 + 6 * i + k)
    let inner := bitAt (byteAt b 13) i
    if q 3 < q 0 then (if inner then none else nodeKids b org ent o d tmin tbest n (i + 1) ri rl)
    else
      let scale : Int := (2 ^ (sx 8 (byteAt b 12) + 149).toNat : Nat)
      let lo := (List.range 3).map fun k => org.getD k 0 + (q k : Int) * scale
      let hi := (List.range 3).map fun k => org.getD k 0 + ((q (k + 3) : Int) + 1) * scale
      let unit := if inner then byteAt b 14 % 64 + ri else byteAt b 15 % 64 + rl
      match nodeKids b org ent o d tmin tbest n (i + 1) (ri + bn inner) (rl + bn (!inner)), boxHit lo hi o d tmin tbest with
      | none, _ => none
      | some l, none => some l
      | some l, some t =>
        -- a lower index pops first among equals
        let e : StackEnt := { ent with unit := unit, kind := if inner then .child else .leaf, dist := t, tri := 0 }
        some (place e l)
where
  place (e : StackEnt) : List StackEnt → List StackEnt
    | [] => [e]
    | x :: t => if x.dist.lt e.dist then x :: place e t else e :: x :: t

/-- R372, R375: visits a node. -/
def Record.visitNode (r : Record) (b : List Byte) (ent : StackEnt) : Visit :=
  let steps := (r.h 5).toNat + 1
  let org := [wordAt b 0, wordAt b 4, wordAt b 8]
  if 1048576 < steps then .bad 0x91
  else match f32Ints org with
    | none => .bad 0x8B
    | some g =>
      if 64 ≤ byteAt b 14 || 64 ≤ byteAt b 15 then .bad 0x8B
      else match nodeKids b g ent (ent.ray.o.map f32I) (ent.ray.d.map f32I) (Dist.of (r.w 3)) (Dist.of r.tbest) 8 0 0 0 with
        | none => .bad 0x8B
        | some l => .go ({ r with hidden := r.hidden.set 5 (BitVec.ofNat 32 steps) }.push l)

/-- A treelet reference: address, entry unit; none when reserved bits are set. -/
def treeletRef (x : Nat) : Option (Nat × Nat) :=
  if bits x 63 57 != 0 || bits x 11 6 != 0 then none else some (bits x 56 12 * 0x1000, bits x 5 0)

/-- R373: visits a LINK. -/
def Record.visitLink (r : Record) (b : List Byte) (ent : StackEnt) : Visit :=
  match treeletRef (leNat (b.take 8)) with
  | none => .bad 0x8B
  | some (t, u) =>
    if ((b.drop 8).take 4).any (· != 0) || (b.drop 13).any (· != 0) then .bad 0x8B
    else .go (r.push [{ ent with treelet := t, unit := u, kind := .entry }])

/-- R375: an instance's transform of a row with a fourth factor (2^149 for points, 0 for directions). -/
def rowDot (m : List Int) (row : Nat) (v : List Int) (w : Int) : Word :=
  let x (j : Nat) : Int := m.getD (4 * row + j) 0
  round298 (x 0 * v.getD 0 0 + x 1 * v.getD 1 0 + x 2 * v.getD 2 0 + x 3 * w)

/-- R375: visits an instance. -/
def Record.visitInst (r : Record) (b : List Byte) (ent : StackEnt) : Visit :=
  let mask := byteAt b 59
  let hg := leNat ((b.drop 60).take 2)
  if ent.ray.below then .bad 0x8F
  else match treeletRef (leNat ((b.drop 48).take 8)), f32Ints ((List.range 12).map fun i => wordAt b (4 * i)) with
    | some (t, u), some m =>
      if 4096 ≤ hg || 4 ≤ byteAt b 62 then .bad 0x8B
      else if Nat.land mask (bits r.mode.toNat 15 8) = 0 then .go r
      else
        let o := (List.range 3).map fun k => rowDot m k (ent.ray.o.map f32I) one149
        let d := (List.range 3).map fun k => rowDot m k (ent.ray.d.map f32I) 0
        if (f32Ints (o ++ d)).isNone || (d.map f32I).all (· == 0) then .go r
        else
          let ray : RayCtx := { o := o, d := d, below := true, inst := BitVec.ofNat 32 (leNat ((b.drop 56).take 3)), hg := hg,
                                opq := bitAt (byteAt b 62) 0, nocull := bitAt (byteAt b 62) 1 }
          .go (r.push [{ ent with treelet := t, unit := u, kind := .entry, ray := ray, tri := 0 }])
    | _, _ => .bad 0x8B

/-- R376: a triangle's hit: t, b1, b2 and whether it is front-facing. -/
structure TriHit where
  t : Word
  b1 : Nat
  b2 : Nat
  front : Bool
  deriving DecidableEq, Repr, Inhabited

/-- R376: one vertex sheared: its three components, none when a value is not finite. -/
def shear (p o : List Word) (kx ky kz : Nat) (sx sy sz : Int) : Option (List Int) :=
  match f32Ints p, f32Ints o with
  | some pi, some oi =>
    match f32Ints ((List.range 3).map fun k => round149 (pi.getD k 0 - oi.getD k 0)) with
    | none => none
    | some q =>
      let z := q.getD kz 0
      f32Ints [round298 (q.getD kx 0 * one149 - sx * z), round298 (q.getD ky 0 * one149 - sy * z), round298 (sz * z)]
  | _, _ => none

/-- R376: the triangle test. -/
def triTest (ray : RayCtx) (va vb vc : List Word) : Option TriHit :=
  let d := ray.d.map f32I
  let kz := majorAxis (d.getD 0 0).natAbs (d.getD 1 0).natAbs (d.getD 2 0).natAbs
  let dz := d.getD kz 0
  let k1 := (kz + 1) % 3
  let k2 := (kz + 2) % 3
  let kx := if dz < 0 then k2 else k1
  let ky := if dz < 0 then k1 else k2
  let f (n : Int) : Word := BitVec.ofNat 32 (fp32.ratio 1 n dz)
  match f32Ints [f (d.getD kx 0), f (d.getD ky 0), f one149] with
  | some [sx, sy, sz] =>
    match shear va ray.o kx ky kz sx sy sz, shear vb ray.o kx ky kz sx sy sz, shear vc ray.o kx ky kz sx sy sz with
    | some [ax, ay, az], some [bx, by_, bz], some [cx, cy, cz] =>
      let u := cx * by_ - cy * bx
      let v := ax * cy - ay * cx
      let w := bx * ay - by_ * ax
      let det := u + v + w
      if ((u < 0 || v < 0 || w < 0) && (0 < u || 0 < v || 0 < w)) || det = 0 then none
      else
        some { t := BitVec.ofNat 32 (fp32.ratio 1 (u * az + v * bz + w * cz) (det * one149))
               b1 := fp16.ratio 1 v det, b2 := fp16.ratio 1 w det, front := decide (0 < det) }
    | _, _, _ => none
  | _ => none

/-- R377: suspends a traversal at a candidate. -/
def Record.suspend (r : Record) (ray : RayCtx) (c : Cand) : Record :=
  let flags := ((r.w 9).toNat / 2 ^ 28 * 16 + 2 * bn c.front + 4 + 8 * bn r.occ) * 2 ^ 24 + (r.w 9).toNat % 2 ^ 24
  { r with words := (setWords r.words 12 [c.t, c.prim, c.inst, c.bary]).set 9 (BitVec.ofNat 32 flags)
           hidden := setWords r.hidden 8 (ray.o ++ ray.d)
           trav := r.trav.map fun x => { x with cand := some c } }

/-- R377: triangle `i` of a pair is opaque to a ray; `op` is byte 54 of the pair. -/
def Record.isOpaque (r : Record) (ent : StackEnt) (op i : Nat) : Bool :=
  (bitAt op i && !r.mode.getLsbD 4) || ent.ray.opq || r.mode.getLsbD 3

/-- R373, R376, R377: tests a pair's triangles from number `i`. -/
def Record.testPair (r : Record) (b : List Byte) (ent : StackEnt) : Nat → Nat → Visit
  | 0, _ => .go r
  | n + 1, i =>
    let ix := bits (leNat ((b.drop 52).take 2)) (6 * i + 5) (6 * i)
    let vtx (k : Nat) : List Word := (List.range 3).map fun j => wordAt b (12 * k + 4 * j)
    let op := byteAt b 54
    match triTest ent.ray (vtx (bits ix 1 0)) (vtx (bits ix 3 2)) (vtx (bits ix 5 4)) with
    | none => r.testPair b ent n (i + 1)
    | some h =>
      let culled := !ent.ray.nocull && (if h.front then r.mode.getLsbD 2 else r.mode.getLsbD 1)
      if culled || !r.inRange h.t then r.testPair b ent n (i + 1)
      else
        let prim := wordAt b 48 + BitVec.ofNat 32 i
        let stage := ent.ray.hg + 2 * bits op 5 2
        let bary := BitVec.ofNat 32 (h.b1 + 65536 * h.b2)
        if r.isOpaque ent op i then
          if !r.beats h.t prim ent.ray.inst then r.testPair b ent n (i + 1)
          else
            let r := r.commit h.t prim ent.ray.inst bary h.front stage
            if r.occ then .go r else r.testPair b ent n (i + 1)
        else
          let r := if n = 0 then r else r.push [{ ent with tri := i + 1 }]
          .cand (r.suspend ent.ray { custom := false, front := h.front, t := h.t, prim := prim, inst := ent.ray.inst,
                                      bary := bary, stage := stage })

/-- R373, R374: visits a triangle pair; the stages it can lead to lie below STAGECNT (its candidate stage where a triangle of it can make
a candidate, log 129). -/
def Record.visitPair (r : Record) (cnt : Nat) (b : List Byte) (ent : StackEnt) : Visit :=
  let ix := leNat ((b.drop 52).take 2)
  if bits ix 15 13 != 0 || 64 ≤ byteAt b 54 || ((b.drop 55).take 8).any (· != 0) then .bad 0x8B
  else
    let n := if bitAt ix 12 then 2 else 1
    let op := byteAt b 54
    let stage := ent.ray.hg + 2 * bits op 5 2
    if cnt ≤ stage || (cnt ≤ stage + 1 && (List.range n).any fun i => !r.isOpaque ent op i) then .bad 0x90
    else r.testPair b ent (n - ent.tri) ent.tri

/-- R373, R374, R377: visits a custom primitive. -/
def Record.visitCustom (r : Record) (cnt : Nat) (b : List Byte) (ent : StackEnt) : Visit :=
  match f32Ints ((List.range 6).map fun i => wordAt b (4 * i)) with
  | none => .bad 0x8B
  | some g =>
    if bits (byteAt b 28) 1 0 != 0 || bits (byteAt b 28) 7 6 != 0 || ((b.drop 29).take 34).any (· != 0) then .bad 0x8B
    else if cnt ≤ ent.ray.hg + 2 * bits (byteAt b 28) 5 2 + 1 then .bad 0x90
    else match boxHit (g.take 3) (g.drop 3) (ent.ray.o.map f32I) (ent.ray.d.map f32I) (Dist.of (r.w 3)) (Dist.of r.tbest) with
      | none => .go r
      | some t =>
        let stage := ent.ray.hg + 2 * bits (byteAt b 28) 5 2
        .cand (r.suspend ent.ray { custom := true, front := false, t := BitVec.ofNat 32 (fp32.ratio 4 t.num t.den),
                                         prim := wordAt b 24, inst := ent.ray.inst, bary := 0, stage := stage })

/-- R375: visits the unit at the top of the stack (`rest` is the stack below it). A pair whose first triangle was answered is not popped
again: its second triangle is tested. -/
def State.visit (s : State) (r : Record) (ent : StackEnt) (rest : List StackEnt) : Visit :=
  let cnt := (s.ctx r.ctx).desc.stagecnt
  let r' := { r with trav := r.trav.map fun x => { x with stack := rest } }
  if ent.tri = 0 && (Dist.of r.tbest).lt ent.dist then .go r'
  else match s.readUnit r.ctx (256 + r.cluster) ent.treelet ent.unit with
    | .inr v => v
    | .inl b =>
      match ent.kind with
      | .leaf =>
        match byteAt b 63 with
        | 0 => r'.visitPair cnt b ent
        | 1 => r'.visitCustom cnt b ent
        | 2 => r'.visitInst b ent
        | _ => .bad 0x8B
      | k =>
        if byteAt b 12 != 0x80 then r'.visitNode b ent
        else if k = .entry then .bad 0x8D
        else r'.visitLink b ent

/-- R375: rays that end at once without a hit. -/
def Record.invalid (r : Record) : Bool :=
  let num (i : Nat) : Fv := fp32.val (r.w i).toNat
  let od := [r.w 0, r.w 1, r.w 2, r.w 4, r.w 5, r.w 6]
  (f32Ints od).isNone || (num 3).isNan || (num 7).isNan || ([r.w 4, r.w 5, r.w 6].all fun x => f32I x == 0) ||
    (Dist.of (r.w 7)).lt (Dist.of (r.w 3))

/-- R375, R381: the traversal of a ray over a scene at its start. -/
def Record.startTrav (r : Record) (sc : Scene) : Trav :=
  let ray : RayCtx := { o := [r.w 0, r.w 1, r.w 2], d := [r.w 4, r.w 5, r.w 6], below := false, inst := 0xFFFFFFFF, hg := sc.hg,
                        opq := false, nocull := false }
  { stack := if r.invalid then [] else [{ treelet := sc.root, unit := sc.entry, kind := .entry, dist := Dist.of (r.w 3), ray := ray, tri := 0 }]
    tbest := r.w 7, cont := bits (r.w 16).toNat 11 0, hitStage := 0, cand := none }

/-- R378: the end fields of a traversal, and the stage that comes next. -/
def Record.finish (r : Record) (miss : Nat) : Record × Nat :=
  let hit := r.hasHit
  let flags := ((r.w 9).toNat / 2 ^ 28 * 16 + bn hit + 2 * bn (hit && (r.h 4).getLsbD 1) + 8 * bn r.occ) * 2 ^ 24 + (r.w 9).toNat % 2 ^ 24
  let tail : List Word := if hit then [r.h 0, r.h 1, r.h 2, r.h 3] else [0x7F800000, 0xFFFFFFFF, 0xFFFFFFFF, 0]
  let stage := if r.occ then ((r.trav.map (·.cont)).getD 0) else if hit then ((r.trav.map (·.hitStage)).getD 0) else miss
  ({ r with words := (setWords r.words 12 tail).set 9 (BitVec.ofNat 32 flags) }, stage)

end Sys2Proof.Machine
end

