-- ==== Sys2Proof/Machine/Records.lean ====
section
/-! DEFINITION. The Roadstead and its spill area (R387, R388), binning and delivery (R390 to R397), the record and ray
instructions, opcodes 0xC0 to 0xC9 (R381 to R385, R402 to R405), and the events that move records. -/
namespace Sys2Proof.Machine

/-! ## Room (R387, R388) -/

/-- R11, R387: the 64-byte units of a partition's share: the part of the whole that lies in the slices of its units, retired ones left
out (log 122). -/
def State.poolUnits (s : State) (part : Nat) : Nat :=
  64 * s.host.rssize * ((List.range 256).filter fun k => (s.dev.mask part).getLsbD (k / 32) && !s.dev.retiredSlices.contains k).length
/-- The 64-byte units of a record. -/
def Record.units (r : Record) : Nat := if r.ray then 4 else 1
/-- The partition of a context. -/
def State.partOf (s : State) (c : Nat) : Nat := (s.ctx c).desc.part
/-- Units of the Roadstead that records hold. -/
def State.unitsOf (s : State) (f : Record → Bool) : Nat :=
  s.recs.foldl (fun a r => if r.2.spill.isNone && f r.2 then a + r.2.units else a) 0
/-- R388: the units a flow graph reserves. -/
def Flow.reserve (f : Flow) : Nat := 32 * f.bteams * f.bwaves * (if f.stages.any (!·.task) then 4 else 1)
/-- R388, R405: the free units a flow graph may take. -/
def State.freeUnits (s : State) (f : Nat) : Nat :=
  let part := s.partOf (s.flow f).ctx
  let held := s.flows.foldl (fun a g =>
    if g.1 != f && g.2.st != .stopped && s.partOf g.2.ctx == part then a + (g.2.reserve - s.unitsOf (·.flow == g.1)) else a) 0
  s.poolUnits part - s.unitsOf (fun r => s.partOf r.ctx == part) - held

/-- The spilled records of a context: offset and bytes. -/
def State.spilled (s : State) (c : Nat) : List (Nat × Nat) :=
  s.recs.filterMap fun r => if r.2.ctx = c then r.2.spill.map fun o => (o, 64 * r.2.units) else none
/-- R388: the lowest place of `n` bytes in the spill area. -/
def State.spillAt (s : State) (c n : Nat) : Option Nat :=
  let used := s.spilled c
  let free (o : Nat) : Bool := decide (o + n ≤ (s.ctx c).desc.spillsize) && used.all fun u => decide (o + n ≤ u.1) || decide (u.1 + u.2 ≤ o)
  leastBy id ((0 :: used.map fun u => u.1 + u.2).filter free)

/-- R388: the units that the RENQs parked before a number wait for in a partition, of the flow graphs that `ok` admits. -/
def State.claims (s : State) (part seq : Nat) (ok : Nat → Bool) : Nat :=
  s.waves.foldl (fun a w => match w.2.berth with
    | none => a
    | some b => if s.partOf w.2.ctxn = part && ok b.flow then
        w.2.parks.foldl (fun a p => match p.instr with
          | .renq f => if p.seq < seq then a + p.lanes.length * (if f.imm.getLsbD 0 then 1 else 4) else a
          | _ => a) a
      else a) 0
/-- R388: the free units that a request may take: first come, first served, but for the reserve of its own flow graph. -/
def State.unitsFor (s : State) (f seq : Nat) : Nat :=
  let part := s.partOf (s.flow f).ctx
  let free := s.freeUnits f
  let same := s.claims part seq (· == f)
  max (free - s.claims part seq fun _ => true) (min free ((s.flow f).reserve - s.unitsOf (·.flow == f)) - same)

/-- R388: a record takes a slot in the Roadstead or the spill area; none without room. -/
def State.slotFor (s : State) (seq : Nat) (r : Record) : Option Record :=
  if r.units ≤ s.unitsFor r.flow seq then some { r with spill := none }
  else (s.spillAt r.ctx (64 * r.units)).map fun o => { r with spill := some o }

/-- Adds records one after the other; none when one finds no room. -/
def State.addRecs (seq : Nat) : List Record → State → Option (List Nat × State)
  | [], s => some ([], s)
  | r :: t, s => match s.slotFor seq r with
    | none => none
    | some r =>
      let (k, s) := s.newKey
      (addRecs seq t { s with recs := mset s.recs k r }).map fun x => (k :: x.1, x.2)

/-- R388: what a spilled record writes: bytes of an unarchitected layout; a fault sends the context to FAULTED. -/
def State.spillWrite (s : State) (k : Nat) : State :=
  let r := s.record k
  match r.spill with
  | none => s
  | some o =>
    let va := (s.ctx r.ctx).desc.spillbase + o
    let n := 64 * r.units
    let bad := (s.agentFault r.ctx va n 1).orElse fun _ => s.rangeFault r.ctx va n 0
    match bad with
    | some f => s.ctxFault r.ctx 0xA8 { xaddr := f.va, launch := (s.flow r.flow).launch, unit := 0xFFFF98 }
    | none =>
      if !s.inDevice r.ctx va n then s.ctxFault r.ctx 0xA8 { xaddr := va, launch := (s.flow r.flow).launch, unit := 0xFFFF98 }
      else
        let (b, s) := s.fresh (16 * r.units)
        s.svwrite r.ctx va ((List.range (16 * r.units)).flatMap fun i => leBytes 4 (Config.freeWord (b + i)).toNat)

/-! ## Stages and binning (R390, R368, R406) -/

/-- R390: a record is binned under a key. -/
def State.binKey (s : State) (k key : Nat) : State :=
  (s.updRec k fun r =>
    { r with st := .binned, key := BitVec.ofNat 32 key, override := none, trav := none, waits := false, ripe := false,
             binnedAt := s.now, seq := s.key
             words := if r.ray then r.words.set 16 (BitVec.ofNat 32 (key / 2 ^ 20)) else r.words
             hidden := if r.ray then r.hidden.set 7 (BitVec.ofNat 32 key) else r.hidden }).bumpKey

/-- R380, R401: a ray is lost: one EVENT record, and it is retired. -/
def State.loseRay (s : State) (k cause addr : Nat) : State :=
  let r := s.record k
  ({ s with recs := mdel s.recs k }).event r.ctx cause
    { xaddr := addr, launch := (s.flow r.flow).launch, unit := 0xFFFF00 + r.cluster }

/-- R279, R380: a translation fault of the traversal unit: a resolvable one waits for the host. -/
def State.rayFault (s : State) (k : Nat) (f : TFault) : State :=
  let r := s.record k
  if resolvable f.kind then ((s.updRec k fun x => { x with waits := true }).raiseFault r.ctx f 0 0xFF r.cluster (.ray k)).2
  else match s.goneFrame r.ctx f (256 + r.cluster) with
    | some pa => s.frameLost r.ctx pa
    | none => s.loseRay k f.cause f.va

/-- R370, R378, R406: a ray is binned for a stage; `checked` says that its stage was checked before (RENQ). -/
def State.binRay (s : State) (k stage : Nat) (checked : Bool) : State :=
  let r := s.record k
  let go (key : Nat) : State :=
    let ok := match (s.flow r.flow).stage (key / 2 ^ 20) with
      | some g => g.hit && !g.task
      | none => false
    if checked || ok then s.binKey k key else s.loseRay k 0x86 0
  match r.override with
  | some x => go x.toNat
  | none => match s.scene r.ctx r.scene (256 + r.cluster) with
    | .xlate f => s.rayFault k f
    | .bad c => s.loseRay k c r.scene
    | .ok sc => go (r.rayKey sc stage)

/-- R390: the key of a task. -/
def Record.taskKey (r : Record) : Nat := (r.w 0).toNat % 4096 * 2 ^ 20 + (r.w 0).toNat / 65536

/-- R388, R390: a new record is spilled or kept, and binned. -/
def State.enter (s : State) (k : Nat) : State :=
  let s := s.spillWrite k
  match mget s.recs k with
  | none => s
  | some r => if r.ray then s.binRay k (bits (r.w 16).toNat 11 0) true else s.binKey k r.taskKey

/-! ## NODE_STEP (R375, R378, R380) -/

/-- A context whose work runs: ACTIVE and not pre-empted. -/
def Ctx.runs (c : Ctx) : Bool := c.st == .active && !c.preempting

/-- R377: the suspended ray goes to the candidate stage, its traversal kept. -/
def State.candBin (s : State) (k : Nat) (c : Cand) : State :=
  let t := (s.record k).trav
  (s.binRay k (c.stage + 1) false).updRec k fun x => { x with trav := t }

/-- R375: one step of a traversal: a unit is visited, a candidate is binned, or the traversal ends. -/
def State.nodeStep (s : State) (k : Nat) (r : Record) : State :=
  match r.trav with
  | none => s.binRay k (bits (r.w 16).toNat 11 0) true
  | some t =>
    match t.cand with
    | some c => s.candBin k c
    | none =>
      match t.stack with
      | [] =>
        match s.scene r.ctx r.scene (256 + r.cluster) with
        | .xlate f => s.rayFault k f
        | .bad c => s.loseRay k c r.scene
        | .ok sc =>
          let (r', stage) := r.finish sc.miss
          (s.updRec k fun _ => r').binRay k stage false
      | ent :: rest =>
        match s.visit r ent rest with
        | .go r' => s.updRec k fun _ => r'
        | .cand r' => (s.updRec k fun _ => r').candBin k ((r'.trav.bind (·.cand)).getD default)
        | .bad c => s.loseRay k c (ent.treelet + 64 * ent.unit)
        | .wait f => s.rayFault k f

/-- NODE_STEP (R375). -/
def execNodeStep (rec : Nat) (s : State) : Out :=
  .next (match mget s.recs rec with
    | none => s
    | some r => if r.st == .traversing && !r.waits && (s.ctx r.ctx).runs && !s.clusterTested r.cluster then (s.nodeStep rec r).tick else s)

/-! ## Bins and berths (R391 to R397) -/

/-- A bin: its flow graph, stage, slice and records, the oldest first. -/
structure Bin where
  flow : Nat
  stage : Nat
  slice : Nat
  recs : List (Nat × Record)
  deriving DecidableEq, Repr, Inhabited

/-- R390: what the records of one bin share. -/
def State.binId (s : State) (r : Record) : Nat × Nat × Nat :=
  let m := match (s.flow r.flow).stage (r.key.toNat / 2 ^ 20) with
    | some g => g.mask.toNat
    | none => 0
  (r.flow, r.cluster / 8, Nat.land r.key.toNat (Nat.lor m 0xFFF00000))

/-- Inserts a record by age. -/
def byAge (x : Nat × Record) : List (Nat × Record) → List (Nat × Record)
  | [] => [x]
  | y :: t => if x.2.seq < y.2.seq then x :: y :: t else y :: byAge x t

/-- R390: the bins of every context that runs. -/
def State.bins (s : State) : List Bin :=
  let rs := s.recs.filter fun r => r.2.st == .binned && (s.ctx r.2.ctx).runs
  (dedup (rs.map fun r => s.binId r.2)).map fun i =>
    { flow := i.1, stage := i.2.2 / 2 ^ 20, slice := i.2.1, recs := (rs.filter fun r => s.binId r.2 == i).foldr byAge [] }

/-- The oldest record of a bin. -/
def Bin.oldest (b : Bin) : Record := (b.recs.headD (0, default)).2
/-- R391: the patience of a bin's stage. -/
def State.patience (s : State) (b : Bin) : Nat :=
  let f := s.flow b.flow
  if f.st == .quiescing then 0 else ((f.stage b.stage).map (·.patience)).getD 0
/-- R391: a bin is ripe. -/
def State.ripe (s : State) (b : Bin) : Bool := decide (32 ≤ b.recs.length) || b.oldest.ripe || s.patience b == 0
/-- R391: a ripe bin holds an overdue record. -/
def State.overdue (s : State) (b : Bin) : Bool :=
  s.ripe b && decide (4 * s.patience b + 10000 < s.now - b.oldest.binnedAt)

/-- BIN_PATIENCE_EXPIRY (R391): the bin of a record ripens when the record is its oldest and past the patience. -/
def execBinPatienceExpiry (rec : Nat) (s : State) : Out :=
  .next (match s.bins.find? fun b => b.recs.head?.map (·.1) == some rec with
    | none => s
    | some b =>
      if !b.oldest.ripe && decide (s.patience b ≤ s.now - b.oldest.binnedAt) then
        { s with recs := mupd s.recs rec fun r => { r with ripe := true }, ctr := s.ctr + 1 }
      else s)

/-- R395: the DOCKED berth waves of a stage that may take a batch. -/
def State.freeBerths (s : State) (flow stage : Nat) : List Nat :=
  mkeys s.waves fun w => w.st == .docked && (s.teamOf w).st == .resident && (match w.berth with
    | some b => b.flow == flow && b.stage == stage
    | none => false)

/-- R392: the berth of a batch: one of the slice's unit, else any. -/
def State.berthFor (s : State) (b : Bin) : Option Nat :=
  let ws := s.freeBerths b.flow b.stage
  match ws.find? fun w => (s.wave w).core / 32 == b.slice with
  | some w => some w
  | none => ws.head?

/-- R388: a spilled record comes back from the spill area; a fault of its read sends the context to FAULTED. -/
def State.unspill (s : State) (k : Nat) (r : Record) : State :=
  match r.spill with
  | none => s
  | some o =>
    let va := (s.ctx r.ctx).desc.spillbase + o
    match s.rangeFault r.ctx va (64 * r.units) 0 with
    | some f => s.ctxFault r.ctx 0xA8 { xaddr := f.va, launch := (s.flow r.flow).launch, unit := 0xFFFF98 }
    | none => s.updRec k fun x => { x with spill := none }
/-- R388: the oldest spilled record of a partition, when a free slot takes it: records return in age order. -/
def State.spillOldest (s : State) (part : Nat) : Option Nat :=
  (leastBy (fun r => r.2.seq) (s.recs.filter fun r => r.2.spill.isSome && s.partOf r.2.ctx == part)).bind fun r =>
    if r.2.units ≤ s.freeUnits r.2.flow then some r.1 else none
/-- R388: the spilled records of a batch return to the Roadstead, in age order among all of the partition; none when one finds no slot. -/
def returnSpilled : List (Nat × Record) → State → Option State
  | [], s => some s
  | (k, r) :: t, s =>
    if r.spill.isNone || (mget s.recs k).isNone then returnSpilled t s
    else if s.spillOldest (s.partOf r.ctx) == some k then returnSpilled t (s.unspill k r)
    else none

/-- R392, R393: the bins a slice may deliver: ripe, with a free berth, and no older overdue record of the stage waiting. -/
def State.deliverable (s : State) (slice : Nat) : List Bin :=
  let all := s.bins.filter s.ripe
  let late := all.filter s.overdue
  all.filter fun b => b.slice == slice && (s.berthFor b).isSome && (returnSpilled (b.recs.take 32) s).isSome &&
    !(late.any fun x => x.flow == b.flow && x.stage == b.stage && decide (x.oldest.seq < b.oldest.seq)) &&
    (s.overdue b || !(late.any fun x => x.flow == b.flow && x.stage == b.stage))

/-- R392: the bounce of a bin's oldest record. -/
def Bin.bounce (b : Bin) : Nat := if b.oldest.ray then bits (b.oldest.w 9).toNat 23 16 else 0
/-- R392: bins ordered by a number, the least first. -/
def State.rankBin (s : State) (b : Bin) : Nat :=
  let prio := ((((s.flow b.flow).stage b.stage).map (·.prio)).getD 0)
  ((bn (!s.overdue b) * 256 + (255 - b.bounce)) * 4 + (3 - prio)) * 2 ^ 64 + b.oldest.seq

/-- R389, R396: the words a record delivers. -/
def Flow.deliver (f : Flow) (r : Record) : List Word :=
  if r.ray then r.words
  else
    let a := match f.stage (r.key.toNat / 2 ^ 20) with
      | some g => (g.argBase + (r.w 1).toNat * g.argStride) % 2 ^ 64
      | none => 0
    r.words ++ [BitVec.ofNat 32 a, BitVec.ofNat 32 (a / 2 ^ 32)] ++ List.replicate 22 0

/-- R36: the logical id of a lane that holds a record. -/
def Record.lid (r : Record) : DWord :=
  BitVec.ofNat 64 (if r.ray then 2 ^ 63 + bits (r.w 9).toNat 23 16 * 2 ^ 48 + bits (r.w 9).toNat 15 0 * 2 ^ 32 + (r.w 8).toNat
    else 2 ^ 63 + 2 ^ 62 + bits (r.w 0).toNat 15 0 * 2 ^ 32 + (r.w 1).toNat)

/-- R396: a lane at delivery; registers past `v31` are undefined. -/
def Lane.delivered (f : Flow) (pc : DWord) (alloc base : Nat) (r : Option (Nat × Record)) : Lane :=
  let ws := match r with
    | some x => f.deliver x.2
    | none => List.replicate 32 0
  { pc := pc, depth := 0, meet := 0, exited := false, block := .none, xblock := .none, p := 0, i0 := 0, i1 := 0, i2 := 0, i3 := 0, lsr := 0x100,
    srcnt := (match r with
      | some x => x.2.h 6
      | none => 0)
    v := (List.range alloc).map fun n => if n < 32 then ws.getD n 0 else Config.freeWord (base + n)
    xlpc := 0, held := r.map (·.1), lid := match r with
      | some x => x.2.lid
      | none => -1 }

/-- R396: the code address of a stage's entry. -/
def State.stagePc (s : State) (f : Flow) (g : Stage) : DWord :=
  match (s.ctx f.ctx).objs.find? fun o => o.addr == f.code with
  | some o => BitVec.ofNat 64 (o.addr + o.textOff + g.entry.clause)
  | none => 0

/-- R396: the delivery of a batch into a berth. -/
def State.deliver (s : State) (b : Bin) (w : Nat) : State :=
  let f := s.flow b.flow
  let batch := b.recs.take 32
  let n := batch.length
  let wv := s.wave w
  let s := batch.foldl (fun s r => s.updRec r.1 fun x => { x with st := .delivered, ripe := false }) s
  let (base, s) := s.fresh (32 * wv.alloc + 32 + 256)
  let pc := s.stagePc f ((f.stage b.stage).getD default)
  let u := base + 32 * wv.alloc
  (s.updWave w fun x =>
    { x with
      st := .ready
      lanes := (List.range 32).map fun l => Lane.delivered f pc x.alloc (base + l * x.alloc) batch[l]?
      w := [BitVec.ofNat 32 f.args, BitVec.ofNat 32 (f.args / 2 ^ 32), BitVec.ofNat 32 n, 0] ++
        ((List.range 27).map fun i => Config.freeWord (u + i)) ++ [BitVec.ofNat 32 b.stage]
      jm := List.replicate 7 0 ++ [maskOf fun l => decide (l < n)]
      sh := (List.range 16).map fun r => BitVec.ofNat 512 (wordsNat ((List.range 16).map fun i => Config.freeWord (u + 32 + 16 * r + i)))
      staged := [], lastSet := 0, turn := 64, due := false, waited := 0, xsleep := none, xkids := none, clause := none, perf := [], flights := [],
      parks := [], dbg := .zero,
      berth := x.berth.map fun y => { y with delivered := b.stage } }).boundary w

/-- BATCH_DELIVERY (R392, R396), not while the Harbourmaster is under test (R445). -/
def execBatchDelivery (slice : Nat) (s : State) : Out :=
  .next (if s.serviceTested 0x98 then s else match leastBy s.rankBin (s.deliverable slice) with
    | none => s
    | some b => match s.berthFor b, returnSpilled (b.recs.take 32) s with
      | some w, some s => if (s.ctx (s.flow b.flow).ctx).runs then s.deliver b w else s
      | _, _ => s)

/-- The berth waves a stage of a flow graph holds. -/
def State.berthsOf (s : State) (flow stage : Nat) : Nat :=
  (mkeys s.waves fun w => match w.berth with
    | some b => b.flow == flow && b.stage == stage
    | none => false).length

/-- R397: the stage a DOCKED berth is re-targeted to. -/
def State.retargetTo (s : State) (w : Nat) : Option Nat :=
  let wv := s.wave w
  match wv.berth with
  | none => none
  | some b =>
    let f := s.flow b.flow
    let ripe := s.bins.filter fun x => x.flow == b.flow && s.ripe x
    match f.stage b.stage with
    | none => none
    | some g =>
      if wv.st != .docked || (s.teamOf wv).st != .resident || ripe.any (·.stage == b.stage) || s.berthsOf b.flow b.stage ≤ g.minb then none
      else
        let ok (t : Nat) : Bool := match f.stage t with
          | some h => (s.freeBerths b.flow t).isEmpty && (h.maxb == 0 || decide (s.berthsOf b.flow t < h.maxb)) && t != b.stage
          | none => false
        let cands := (dedup (ripe.map (·.stage))).filter ok
        let count (t : Nat) : Nat := (ripe.filter (·.stage == t)).foldl (fun a x => a + x.recs.length) 0
        leastBy (fun t => (2 ^ 40 - count t) * 4096 + t) cands

/-- BERTH_RETARGET (R397). -/
def execBerthRetarget (wave : Nat) (s : State) : Out :=
  .next (match s.retargetTo wave with
    | none => s
    | some t => s.updWave wave fun x => { x with berth := x.berth.map fun b => { b with stage := t } })

/-- SPILL_RETURN (R388). -/
def execSpillReturn (rec : Nat) (s : State) : Out :=
  .next (match mget s.recs rec with
    | none => s
    | some r => if s.spillOldest (s.partOf r.ctx) == some rec then s.unspill rec r else s)

/-! ## DOCK (R402) -/

/-- The status a record instruction delivers. -/
def okWord : Nat := 0x80000000

/-- DOCK. -/
def formDock (f : FE) : Form :=
  { rsv := f.d == 0 && f.a == 0 && f.b == 0 && f.c == 0 && f.imm == 0, mods := always f.pred }
/-- DOCK (R402): its token counts it until the wave docks (R50). -/
def execDock (f : FE) (s : State) : Out :=
  issueAfter (formDock f) f.pred [] (some (feTok f)) s fun e =>
    if e.L = 0 then e.idle
    else if !e.berth then e.fault 0x2D e.L
    else (e.upClause fun c => { c with ends := some .dock }).park (.dock f) (some (feTok f)) false ((lanesOf e.L).map fun l => (l, []))
      fun _ => []

/-! ## RENQ (R403) -/

/-- Whether RENQ makes task records. -/
def renqTask (f : FE) : Bool := f.imm.getLsbD 0
/-- RENQ. -/
def formRenq (f : FE) : Form :=
  let n := if renqTask f then 8 else 32
  { rsv := feBits f 15 2 == 0 && f.c == 0 && (!renqTask f || f.b == 0)
    ops := [dst 0 f.d 1 kVWZ, { src 1 f.a n kV with align := 8 }] ++ (if renqTask f then [] else [src 2 f.b 2 kVWonly]) }

/-- R403: the checks of one lane: its words. -/
def Env.renqLane (e : Env) (f : FE) (b : Berth) (l : Nat) : List Nat ⊕ LaneFault :=
  let task := renqTask f
  let ws := (List.range (if task then 8 else 32)).map fun k => (e.rv (f.a.toNat + k) l).toNat
  let t := if task then bits (ws.getD 0 0) 11 0 else bits (ws.getD 16 0) 11 0
  let fl := e.s.flow b.flow
  let succ := match fl.stage b.delivered with
    | some g => g.succ.contains t
    | none => false
  match fl.stage t with
  | none => .inr (.cause 0x83 0)
  | some g =>
    if !succ then .inr (.cause 0x84 0)
    else if g.task != task then .inr (.cause 0x85 0)
    else if task then .inl ws
    else
      let va := e.src64 f.b l
      match e.s.scene e.wv.ctxn va e.wv.core with
      | .ok _ => .inl (ws ++ [va])
      | .xlate x => .inr (.xlate x)
      | .bad c => .inr (.cause c (BitVec.ofNat 64 va))

/-- R367, R403: a new record from a lane's words; the hidden object-space fields hold nothing defined yet. -/
def Record.new (ctx flow cluster : Nat) (task : Bool) (base : Nat) (ws : List Nat) : Record :=
  let words := (ws.take (if task then 8 else 32)).map (BitVec.ofNat 32)
  { ctx := ctx, flow := flow, ray := !task, st := .traversing
    words := if task then words else words.set 9 (words.getD 9 0 &&& 0xF0FFFFFF)
    hidden := [0x7F800000, 0xFFFFFFFF, 0xFFFFFFFF, 0, 0, 0, 0, 0] ++ ((List.range 6).map fun i => Config.freeWord (base + i)) ++ [0, 0]
    scene := ws.getD 32 0, mode := 0, trav := none, override := none, key := 0, binnedAt := 0, seq := 0, cluster := cluster,
    spill := none, ripe := false, waits := false }

/-- The records of lanes. -/
def newRecs (ctx flow cluster : Nat) (task : Bool) (base : Nat) (ls : List (Nat × List Nat)) : List Record :=
  ls.map fun l => Record.new ctx flow cluster task (base + 6 * l.1) l.2

/-- R403: the records of lanes enter the pool; none without room for all. -/
def State.renq (s : State) (ctx flow cluster : Nat) (task : Bool) (ls : List (Nat × List Nat)) (seq : Nat := s.key) : Option State :=
  let (base, s) := s.fresh 192
  (s.addRecs seq (newRecs ctx flow cluster task base ls)).map fun x => x.1.foldl State.enter x.2

/-- RENQ (R403). -/
def execRenq (f : FE) (s : State) : Out :=
  issueAfter (formRenq f) f.pred [] (some (feTok f)) s fun e =>
    match e.wv.berth with
    | none => if e.L = 0 then e.long (some (feTok f)) false (fun _ => {}) e.s else e.fault 0x2D e.L
    | some b => match checkLanes e.todo (e.renqLane f b) with
      | (ls, []) =>
        match e.s.renq e.wv.ctxn b.flow (e.wv.core / 4) (renqTask f) ls with
        | some s => e.long (some (feTok f)) false (fun l => { regs := e.put f.d 0 l okWord }) (s.updWave e.w (e.markPerf e.todo))
        | none =>
          if f.imm.getLsbD 1 then e.long (some (feTok f)) false (fun l => { regs := e.put f.d 0 l 0x90000000 }) e.s
          else e.park (.renq f) (some (feTok f)) false ls fun l => e.put f.d 0 l 0
      | (_, fs) => e.laneFault e.s 0 fs

/-! ## Held records (R386) -/

/-- What the copy of a record reads as once the record is gone: nothing says (log 65). -/
def Record.gone (base : Nat) : Record :=
  let u (i : Nat) : Word := Config.freeWord (base + i)
  { (default : Record) with ray := true, words := (List.range 32).map u, hidden := (List.range 16).map fun i => u (32 + i), key := u 48 }

/-- R386: the held record of a lane: its jm7 bit is set, and no instruction earlier in the clause has sent it on. In a replay the record
may meanwhile be traversing, delivered again or gone (R53, log 65). `task` says whether a task record is accepted. -/
def Env.heldRec (e : Env) (task : Bool) (l : Nat) : (Nat × Record) ⊕ LaneFault :=
  if !inMask (e.wv.jm.getD 7 0) l || inMask e.cl.dropRec l then .inr (.cause 0x80 0)
  else match (e.wv.lane l).held with
    | none => .inr (.cause 0x80 0)
    | some k =>
      let r := (mget e.s.recs k).getD (Record.gone (e.s.ctr + 64 * l))
      if r.ray || task then .inl (k, r) else .inr (.cause 0x81 0)
/-- The state past the free values of records that are gone. -/
def Env.pastGone (e : Env) : State := (e.s.fresh 2048).2

/-- R381, R382, R404: the lanes of L no longer hold their records once the clause retires. -/
def Env.drop (e : Env) : Env := e.upClause fun c => { c with dropRec := c.dropRec ||| e.L }

/-- R404: RRETIRE. -/
def formRretire (f : FE) : Form :=
  { rsv := f.a == 0 && f.b == 0 && f.c == 0 && f.imm == 0, ops := [dst 0 f.d 1 kVWZ], rd := [.jm 7] }
/-- RRETIRE (R404). -/
def execRretire (f : FE) (s : State) : Out :=
  issueAfter (formRretire f) f.pred [] (some (feTok f)) s fun e =>
    if !e.berth && e.L != 0 then e.fault 0x2D e.L
    else match checkLanes e.todo (e.heldRec true) with
    | (ps, []) =>
      let todo := e.todo
      let e := e.drop
      let s := { e.s with recs := e.s.recs.filter fun r => !ps.any fun p => p.2.1 == r.1 }
      e.long (some (feTok f)) false (fun l => { regs := e.put f.d 0 l okWord }) (s.updWave e.w (e.markPerf todo))
    | (_, fs) => e.laneFault e.s 0 fs

/-! ## RTRACE (R381) -/

/-- RTRACE. -/
def formRtrace (f : FE) : Form :=
  { rsv := feBits f 7 5 == 0 && f.c == 0, mods := feBits f 4 3 != 3
    ops := [dst 0 f.d 1 kVWZ, { src 1 f.a 32 kV with align := 8 }, src 2 f.b 2 kVWonly], rd := [.jm 7] }

/-- R381: the checks of a lane: its record and scene. -/
def Env.traceLane (e : Env) (f : FE) (l : Nat) : (Nat × Nat × Scene) ⊕ LaneFault :=
  match e.heldRec false l with
  | .inr x => .inr x
  | .inl (k, r) =>
    if r.trav.isSome then .inr (.cause 0x82 0)
    else
      let va := e.src64 f.b l
      match e.s.scene e.wv.ctxn va e.wv.core with
      | .ok sc => .inl (k, va, sc)
      | .xlate x => .inr (.xlate x)
      | .bad c => .inr (.cause c (BitVec.ofNat 64 va))

/-- R381, R367: a record begins its traversal. -/
def Record.trace (r : Record) (words : List Word) (va : Nat) (sc : Scene) (mode : BitVec 16) (srcnt : Word) (cluster : Nat) : Record :=
  let w9 := words.getD 9 0
  let r := { r with
    st := .traversing, words := words.set 9 ((w9 &&& 0xF7FFFFFF) ||| (if mode.getLsbD 0 then 0x08000000 else 0)), scene := va, mode := mode
    hidden := (setWords r.hidden 0 [0x7F800000, 0xFFFFFFFF, 0xFFFFFFFF, 0, 0, 0]).set 6 srcnt, cluster := cluster }
  { r with trav := some (r.startTrav sc) }

/-- RTRACE (R381). -/
def execRtrace (f : FE) (s : State) : Out :=
  issueAfter (formRtrace f) f.pred [] (some (feTok f)) s fun e =>
    if !e.berth && e.L != 0 then e.fault 0x2D e.L
    else match checkLanes e.todo (e.traceLane f) with
      | (ps, []) =>
        let todo := e.todo
        let e := e.drop
        let s := ps.foldl (fun (s : State) p => s.updRec p.2.1 fun r =>
          r.trace ((List.range 32).map fun k => e.rv (f.a.toNat + k) p.1) p.2.2.1 p.2.2.2 f.imm (e.wv.lane p.1).srcnt (e.wv.core / 4)) e.s
        e.long (some (feTok f)) false (fun l => { regs := e.put f.d 0 l okWord }) (s.updWave e.w (e.markPerf todo))
      | (_, fs) => e.laneFault e.s 0 fs

/-! ## RHIT (R382) -/

/-- RHIT. -/
def formRhit (f : FE) : Form :=
  { rsv := feBits f 15 2 == 0 && f.c == 0, mods := feBits f 1 0 != 3, ops := [dst 0 f.d 1 kVWZ, src 1 f.a, src 2 f.b], rd := [.jm 7] }

/-- R382: the checks of a lane: its suspended candidate. -/
def Env.hitLane (e : Env) (l : Nat) : (Nat × Record × Cand) ⊕ LaneFault :=
  match e.heldRec false l with
  | .inr x => .inr x
  | .inl (k, r) => match r.trav.bind (·.cand) with
    | none => .inr (.cause 0x82 0)
    | some c => .inl (k, r, c)

/-- R382: the answer of a lane: the record that resumes, and whether it committed. -/
def Record.answer (r : Record) (c : Cand) (mode : Nat) (t attr srcnt : Word) : Record × Bool :=
  let t := if c.custom then t else c.t
  let attr := if c.custom then attr else c.bary
  let yes := mode != 0 && r.inRange t && r.beats t c.prim c.inst
  let r := { r with st := .traversing, words := r.words.set 9 (r.w 9 &&& 0xFBFFFFFF), hidden := r.hidden.set 6 srcnt
                    trav := r.trav.map fun x => { x with cand := none } }
  let r := if yes then r.commit t c.prim c.inst attr c.front c.stage else r
  (if mode = 2 then { r with trav := r.trav.map fun x => { x with stack := [] } } else r, yes)

/-- RHIT (R382). -/
def execRhit (f : FE) (s : State) : Out :=
  issueAfter (formRhit f) f.pred [] (some (feTok f)) s fun e =>
    if !e.berth && e.L != 0 then e.fault 0x2D e.L
    else match checkLanes e.todo e.hitLane with
      | (ps, []) =>
        let todo := e.todo
        let e := e.drop
        let ans (l : Nat) (p : Nat × Record × Cand) : Record × Bool :=
          p.2.1.answer p.2.2 (feBits f 1 0) (BitVec.ofNat 32 (e.src constF32 f.a l)) (BitVec.ofNat 32 (e.src constInt f.b l)) (e.wv.lane l).srcnt
        let s := ps.foldl (fun (s : State) p => s.updRec p.2.1 fun _ => (ans p.1 p.2).1) e.s
        let s := s.updWave e.w (e.markPerf todo)
        e.long (some (feTok f)) false (fun l => match mget ps l with
          | some p => { regs := e.put f.d 0 l (okWord + bn (ans l p).2) }
          | none => {}) s
      | (_, fs) => e.laneFault e.s 0 fs

/-! ## RLD and RST (R383) -/

/-- The registers of an RLD or RST. -/
def rldRegs (f : FE) : Nat := 2 ^ (feBits f 9 8)
/-- RLD (`st` false) and RST: offsets to `lim`. -/
def formRl (st : Bool) (lim : Nat) (f : FE) : Form :=
  let n := rldRegs f
  let off := feBits f 7 0
  let o := if st then src 0 f.d n (if n = 1 then kVW else kV) else dst 0 f.d n (if n = 1 then kVW else kV)
  { rsv := feBits f 15 10 == 0 && f.a == 0 && f.b == 0 && f.c == 0, mods := feBits f 9 8 != 3
    ops := [o], bad := if off % (4 * n) != 0 || lim < off + 4 * n then [4] else [], rd := [.jm 7] }
/-- RLD. -/
def formRld (f : FE) : Form := formRl false 192 f
/-- RST. -/
def formRst (f : FE) : Form := formRl true 128 f

/-- RLD (R383). -/
def execRld (f : FE) (s : State) : Out :=
  issue (formRld f) f.pred [] (some (feTok f)) s fun e =>
    if !e.berth && e.L != 0 then e.fault 0x2D e.L
    else match checkLanes e.L (e.heldRec false) with
      | (ps, []) =>
        e.long (some (feTok f)) false (fun l => match mget ps l with
          | some p =>
            let all := p.2.words ++ p.2.hidden
            { regs := e.putWords f.d (rldRegs f) l ((List.range (rldRegs f)).map fun k => (all.getD (feBits f 7 0 / 4 + k) 0).toNat) }
          | none => {}) e.pastGone
      | (_, fs) => e.laneFault e.s 0 fs
/-- RST (R383). -/
def execRst (f : FE) (s : State) : Out :=
  issue (formRst f) f.pred [] (some (feTok f)) s fun e =>
    if !e.berth && e.L != 0 then e.fault 0x2D e.L
    else match checkLanes e.todo (e.heldRec false) with
      | (ps, []) =>
        let s := ps.foldl (fun (s : State) p => s.updRec p.2.1 fun r =>
          { r with words := setWords r.words (feBits f 7 0 / 4) ((List.range (rldRegs f)).map fun k => BitVec.ofNat 32 (e.regAt f.d k p.1)) }) e.s
        e.long (some (feTok f)) false (fun _ => {}) (s.updWave e.w (e.markPerf e.todo))
      | (_, fs) => e.laneFault e.s 0 fs

/-! ## RKEY (R384) -/

/-- RKEY. -/
def formRkey (f : FE) : Form :=
  let set := f.imm.getLsbD 0
  { rsv := feBits f 15 1 == 0 && f.b == 0 && f.c == 0 && (set || f.a == 0)
    ops := [dst 0 f.d 1 kVWZ] ++ (if set then [src 1 f.a] else []), rd := [.jm 7] }
/-- RKEY (R384). -/
def execRkey (f : FE) (s : State) : Out :=
  issue (formRkey f) f.pred [] (some (feTok f)) s fun e =>
    if !e.berth && e.L != 0 then e.fault 0x2D e.L
    else match checkLanes (if f.imm.getLsbD 0 then e.todo else e.L) (e.heldRec false) with
      | (ps, []) =>
        if f.imm.getLsbD 0 then
          let x (l : Nat) : Nat := e.src constInt f.a l
          let s := ps.foldl (fun (s : State) p => s.updRec p.2.1 fun r => { r with override := some (BitVec.ofNat 32 (x p.1)) }) e.s
          e.long (some (feTok f)) false (fun l => { regs := e.put f.d 0 l (x l) }) (s.updWave e.w (e.markPerf e.todo))
        else
          e.long (some (feTok f)) false (fun l => match mget ps l with
            | some p => { regs := e.put f.d 0 l (p.2.h 7).toNat }
            | none => {}) e.pastGone
      | (_, fs) => e.laneFault e.s 0 fs

/-! ## RACC (R385) -/

/-- RACC. -/
def formRacc (f : FE) : Form :=
  { rsv := feBits f 15 9 == 0, ops := [dst 0 f.d 1 kVWZ, { src 1 f.a 3 kV with align := 1 }, src 2 f.b, src 3 f.c 2 kV] }

/-- R385: the checks of a lane: its first cell. -/
def Env.raccLane (e : Env) (f : FE) (r : Region) (l : Nat) : Nat ⊕ LaneFault :=
  let i := 4 * e.src constInt f.b l
  let n := if f.imm.getLsbD 8 then 4 else 3
  if !(r.decl.rule == 0 && r.decl.fmt == 12) then .inr (.cause 0x75 0)
  else if r.decl.cells ≤ i + 3 then .inr (.cause 0x77 (BitVec.ofNat 64 i))
  else match e.s.rangeFault e.wv.ctxn (r.cellAt r.next i) (n * r.decl.cell) 1 e.wv.core with
    | some x => .inr (.xlate x)
    | none => .inl i

/-- R385: the contributions of a lane: cell offset and FX64 value. -/
def Env.raccTerms (e : Env) (f : FE) (scale : Int) (l : Nat) : List (Nat × Int × Bool × Bool) :=
  let ch (k : Nat) : Nat × Int × Bool × Bool :=
    let t := e.regAt f.c (k / 2) l / 2 ^ (16 * (k % 2)) % 2 ^ 16
    (k, toFx scale (Fv.mul (fp16.val t) (fp32.val (e.regAt f.a k l))).1)
  [ch 0, ch 1, ch 2] ++ (if f.imm.getLsbD 8 then [(3, 1, false, false)] else [])

/-- RACC (R385). -/
def execRacc (f : FE) (s : State) : Out :=
  issue (formRacc f) f.pred [] (some (feTok f)) s fun e => e.declareG (feBits f 7 0) fun e =>
    let g := feBits f 7 0
    let r := (mget e.ctx.regions g).getD default
    match checkLanes e.todo (e.raccLane f r) with
    | (ps, []) =>
      let id (l : Nat) : Nat := e.s.logicalId e.wv l
      let s := ps.foldl (fun (s : State) p => (e.raccTerms f r.decl.fxscale p.1).foldl (fun (s : State) t =>
        (s.contribute e.wv.ctxn { ref := .glob g, i := p.2 + t.1 } ((e.s.launchOf e.wv, id p.1), id p.1 % 65536) t.2 0).1) s) e.s
      e.long (some (feTok f)) false (fun l => { regs := e.put f.d 0 l okWord }) (s.updWave e.w (e.markPerf e.todo))
    | (_, fs) => e.laneFault e.s 1 fs

/-! ## RSTAT (R405) -/

/-- RSTAT. -/
def formRstat (f : FE) : Form :=
  { rsv := feBits f 15 3 == 0 && f.a == 0 && f.b == 0 && f.c == 0, mods := feBits f 2 0 != 7, ops := [dst 0 f.d 1 kVWZ] }

/-- R405: a flow graph's state code. -/
def FlowState.code : FlowState → Nat
  | .loaded => 0 | .starting => 1 | .running => 2 | .quiescing => 3 | .stopped => 4 | .faulted => 5

/-- R405: what a selector other than 6 reads. -/
def State.rstat (s : State) (b : Berth) (sel : Nat) : Nat :=
  let count (f : Record → Bool) : Nat := (s.recs.filter fun r => r.2.flow == b.flow && f r.2).length
  match sel with
  | 0 => count fun r => r.st == .binned && r.key.toNat / 2 ^ 20 == b.delivered
  | 1 => count (·.spill.isNone)
  | 2 => count (·.spill.isSome)
  | 3 => s.berthsOf b.flow b.delivered
  | 4 => (s.flow b.flow).st.code + 8 * bn (count (fun _ => true) == 0)
  | _ => s.freeUnits b.flow

/-- R405: what `.rec` reads of a lane. -/
def Env.rstatRec (e : Env) (l : Nat) : Nat :=
  match e.heldRec true l with
  | .inl (_, r) => r.key.toNat / 2 ^ 20 + 4096 * bn (!r.ray) + 8192
  | .inr _ => 0

/-- RSTAT (R405). -/
def execRstat (f : FE) (s : State) : Out :=
  issue (formRstat f) f.pred [] (some (feTok f)) s fun e =>
    match e.wv.berth with
    | none => if e.L = 0 then e.long (some (feTok f)) false (fun _ => {}) e.s else e.fault 0x2D e.L
    | some b =>
      let v := min 0xFFFFFFFF (e.s.rstat b (feBits f 2 0))
      e.long (some (feTok f)) false (fun l => { regs := e.put f.d 0 l (if feBits f 2 0 = 6 then e.rstatRec l else v) }) e.pastGone

end Sys2Proof.Machine
end

