-- ==== Sys2Proof/Machine/Placing.lean ====
section
/-! DEFINITION. The placer and pre-emption: admission (R134 to R136, R149 to R151, R442), parking and unparking (R152, R153),
retirement of teams (R149), bank octants (R283, R284), and pre-emption and restore of a context (R436 to R438). -/
namespace Sys2Proof.Machine

/-! ## Admission (R151, R442) -/

/-- R442: the sum of the estimates of a context's admitted teams in microjoules, as a fraction. -/
def State.estimates (s : State) (c : Nat) : Nat × Nat :=
  s.teams.foldl (fun a t => if s.teamCtx t.2 = c && t.2.admitted then
      (a.1 * t.2.estDen + t.2.estimate * a.2, a.2 * t.2.estDen) else a) (0, 1)
/-- R13 to R15: the milliwatts the package may draw: its budget, on a card within its share. -/
def State.powerLimit (s : State) : Nat :=
  if s.dev.pairCard then min s.energy.budget (if s.dev.index = 0 then s.energy.share0 else s.energy.share1) else s.energy.budget
/-- R15: the package drew more in the last microsecond (R439: microjoules are watts there). -/
def State.overPower (s : State) : Bool :=
  decide (s.powerLimit < 1000 * s.energy.drew)
/-- R15, R442: under the package budget, contexts of lower priority are deferred first (log 121). -/
def State.powerDefers (s : State) (c : Nat) : Bool :=
  s.overPower && decide ((s.ctx c).desc.prio < Config.deferredPriorities s.dev.time)
/-- R15, R442: whether admitting `n` teams of an estimate is deferred; a context with no admitted team gets one. -/
def State.defers (s : State) (c : Nat) (est : Nat × Nat) (n : Nat) : Bool :=
  let x := s.ctx c
  let (a, d) := s.estimates c
  s.teams.any (fun t => s.teamCtx t.2 == c && t.2.admitted) && (s.powerDefers c || (x.desc.allow != 0 &&
    decide (100 * x.desc.allow * d * est.2 < (x.spent s.dev.time) * d * est.2 + a * est.2 + n * est.1 * d)))

/-- R437: a context becomes resident: since when. -/
def State.noteResident (s : State) (c : Nat) : State :=
  if s.teams.any fun t => s.teamCtx t.2 == c && t.2.onCore then s else s.updCtx c fun x => { x with residentSince := s.now }

/-- R284: the machine with every CACHE octant in LOCAL mode: what the placer can bring about. -/
def State.grown (s : State) : State :=
  { s with dev := { s.dev with octants := (List.range 256).map fun k => (k, (s.dev.octantModes k).map fun m => if m = 0 then 1 else m) } }

/-- R151: a core for a team of an entry, resident where that is possible (with the quadrants of its waves), else parked; none also while
octants have to be turned for it (R284). -/
def State.coreFor (s : State) (part : Nat) (e : Entry) (park : Bool) : Option (Nat × Option (List Nat)) :=
  let cores := s.dev.cores part
  let fits (s : State) : Option (Nat × List Nat) :=
    cores.findSome? fun k => if s.capacity k e false then (s.roomFor k e.waves e.alloc (e.loc / 8192)).map fun q => (k, q) else none
  match fits s with
  | some x => some (x.1, some x.2)
  | none =>
    if park && (fits s.grown).isNone then (cores.find? fun k => s.capacity k e true).map fun k => (k, none) else none

/-- R130, R151, R442: a grid whose next team, outside a gang, the placer may consider. -/
def State.admissible (s : State) (part : Nat) (g : Nat × Grid) : Bool :=
  let x := s.ctx g.2.ctx
  x.runs && x.desc.part == part && (g.2.st == .decoded || g.2.st == .admitting) && g.2.entry.gang == 0 &&
    decide (g.2.nextTeam < g.2.teams) && (g.2.privSize == 0 || (s.freeSlot g.1 g.2).isSome) &&
    !s.defers g.2.ctx (s.estimateOf g.2) 1

/-- R395: the stages berths are dealt to beyond MINB: round robin from `pos`, each up to its MAXB; `cs` counts. -/
def dealRest (stages : List Stage) : Nat → Nat → List Nat → List Nat
  | 0, _, _ => []
  | k + 1, pos, cs =>
    let n := stages.length
    let ok (i : Nat) : Bool :=
      let g := stages.getD i default
      g.maxb == 0 || decide (cs.getD i 0 < g.maxb)
    match ((List.range n).map fun j => (pos + j) % n).find? ok with
    | none => 4096 :: dealRest stages k pos cs
    | some i => i :: dealRest stages k (i + 1) (updAt cs i (· + 1))
/-- R395: the stage index of each berth wave. -/
def dealBerths (stages : List Stage) (n : Nat) : List Nat :=
  let first := (List.range stages.length).flatMap fun i => List.replicate (stages.getD i default).minb i
  (first ++ dealRest stages (n - first.length) 0 (stages.map (·.minb))).take n

/-- R395: assigns the berth waves of a flow graph to stages. -/
def State.assignBerths (s : State) (f : Nat) : State :=
  let fl := s.flow f
  let ws := mkeys s.waves fun w => match w.berth with
    | some b => b.flow == f
    | none => false
  (ws.zip (dealBerths fl.stages ws.length)).foldl (fun s x => s.updWave x.1 fun w =>
    { w with berth := some { flow := f, stage := fl.sbase + x.2, delivered := fl.sbase + x.2 } }) s

/-- The work of a packet ended with a status (R106). -/
def State.pktDone (s : State) (q i code detail : Nat) : State :=
  s.updQueue q fun x => { x with pkts := mupd x.pkts i fun p =>
    if p.done.isSome then p else { p with done := some (code, detail), opening := false } }

/-- R401: a flow graph with every berth resident and DOCKED runs; without root tasks START is done. -/
def State.flowRun (s : State) (f : Nat) : State :=
  let s := (s.assignBerths f).updFlow f fun x => { x with st := .running }
  let fl := s.flow f
  match fl.start with
  | some (q, i) => if fl.rootn = 0 then (s.pktDone q i 0 0).updFlow f fun x => { x with start := none } else s
  | none => s

/-- R395: the waves of a berth team, DOCKED, with undefined registers. -/
def startBerths (t f core c alloc : Nat) : List Nat → Nat → State → State
  | [], _, s => s
  | q :: qs, rank, s =>
    let (_, s) := s.addWave t rank core q c alloc 0 fun w =>
      { w with st := .docked, berth := some { flow := f, stage := 4096, delivered := 4096 } }
    startBerths t f core c alloc qs (rank + 1) s

/-- R401: admits the next berth team of a flow graph to a core. -/
def State.admitBerth (s : State) (f core : Nat) (quads : List Nat) : State :=
  let fl := s.flow f
  let s := s.noteResident fl.ctx
  let (k, s) := s.newKey
  let tm := { Team.make f fl.teams.length core (s.partOf fl.ctx) .resident fl.blocal none none 0 s.now with berthTeam := true }
  let s := ({ s with teams := mset s.teams k tm }.updFlow f fun x => { x with teams := x.teams ++ [k] })
  let s := startBerths k f core fl.ctx (8 * fl.breg) quads 0 s
  if fl.bteams ≤ fl.teams.length + 1 then s.flowRun f else s

/-- R401: a flow graph that waits for berth teams. -/
def State.flowWaits (s : State) (part : Nat) (f : Flow) : Bool :=
  let x := s.ctx f.ctx
  x.runs && x.desc.part == part && f.st == .starting && decide (f.teams.length < f.bteams) && !s.defers f.ctx (0, 1) 1

/-- R423: with the host port FAILED or DOWN admission stops. -/
def State.admits (s : State) : Bool :=
  let st := (s.ports.getD 0 default).st
  st != .failed && st != .down
/-- What the placer admits next: in decode order, the first grid or flow graph whose next team finds a core, or will once octants have
been turned for it: then nothing is admitted now. -/
def State.nextAdmission (s : State) (part : Nat) : Option (Nat × State) :=
  let turning (e : Entry) : Bool := (s.grown.coreFor part e false).isSome
  let gs := (s.grids.filter (s.admissible part)).filterMap fun g => match s.coreFor part g.2.entry true with
    | some x => some (g.2.decoded, some (((if x.2.isSome then s.noteResident g.2.ctx else s).admitTeam g.1 x.1 x.2 none 0).2))
    | none => if turning g.2.entry then some (g.2.decoded, none) else none
  let fs := (s.flows.filter fun f => s.flowWaits part f.2).filterMap fun f => match s.coreFor part f.2.berthEntry false with
    | some (k, some q) => some (f.2.decoded, some (s.admitBerth f.1 k q))
    | _ => if turning f.2.berthEntry then some (f.2.decoded, none) else none
  if s.admits then (leastBy (·.1) (gs ++ fs)).bind fun x => x.2.map fun t => (x.1, t) else none

/-- TEAM_ADMIT (R149, R151). -/
def execTeamAdmit (part : Nat) (s : State) : Out :=
  .next (match s.nextAdmission part with
    | none => s
    | some (_, s) => s.tick)

/-! ## Gangs (R136, R150) -/

/-- The cores of a cluster that a partition may use. -/
def Dev.clusterCores (d : Dev) (part c : Nat) : List Nat := (List.range 4).filterMap fun i => if d.coreIn part (4 * c + i) then some (4 * c + i) else none

/-- Admits the members of a gang one after the other to cores of a cluster, as far as they fit: their keys and cores. -/
def placeGang (gk g : Nat) (cores : List Nat) : Nat → Nat → State → List (Nat × Nat) × State
  | 0, _, s => ([], s)
  | n + 1, rank, s =>
    let gr := (mget s.grids g).getD default
    let e := gr.entry
    if gr.privSize != 0 && (s.freeSlot g gr).isNone then ([], s)
    else match cores.findSome? fun k => if s.capacity k e false then (s.roomFor k e.waves e.alloc (e.loc / 8192)).map fun q => (k, q) else none with
      | none => ([], s)
      | some (k, q) =>
        let (t, s) := s.admitTeam g k (some q) (some gk) rank
        let (r, s) := placeGang gk g cores n (rank + 1) s
        ((t, k) :: r, s)

/-- R136: the oldest gang of a partition that is not placed, of those whose contexts run: for another admission has stopped (R77, R437, log
157). -/
def State.oldestGang (s : State) (part : Nat) : Option (Nat × Gang) :=
  leastBy (fun g => g.2.ticket) (s.gangs.filter fun g => g.2.part == part && (g.2.st == .unplaced || g.2.st == .reserving) &&
    (s.ctx ((mget s.grids g.2.grid).getD default).ctx).runs)

/-- R136: the gangs of a partition give up what they reserved: only the oldest may hold a reservation. -/
def State.unreserve (s : State) (part : Nat) : State :=
  { s with gangs := mmap s.gangs fun _ g => if g.part = part && g.st == .reserving then { g with st := .unplaced, reserved := [] } else g }

/-- R150: the attempts to place the oldest gang of a partition, one per cluster: the gang, the teams it needs, and for each cluster those
that fit and the state with them placed. -/
def State.gangTries (s : State) (part : Nat) : Option (Nat × Gang × Nat × List (Nat × List (Nat × Nat) × State)) :=
  match if s.admits then s.oldestGang part else none with
  | none => none
  | some (k, g) =>
    let gr := (mget s.grids g.grid).getD default
    let n := min gr.entry.gang (gr.teams - gr.nextTeam)
    if s.defers gr.ctx (s.estimateOf gr) n then none
    else
      let s0 := (s.unreserve part).noteResident gr.ctx
      some (k, g, n, ((List.range 64).filter (s.dev.clusterIn part)).map fun c => (c, placeGang k g.grid (s.dev.clusterCores part c) n 0 s0))
/-- R150: the oldest gang placed whole in the lowest cluster that takes it. -/
def State.gangWhole (s : State) (part : Nat) : Option State :=
  match s.gangTries part with
  | none => none
  | some (k, _, n, ts) => (ts.find? fun x => x.2.1.length == n).map fun x =>
      x.2.2.updGang k fun y => { y with st := .placed, cluster := x.1, teams := x.2.1.map (·.1), reserved := [] }
/-- R150: the oldest gang reserves what fits: in the cluster where it holds a reservation, else where most of it fits. -/
def State.gangPart (s : State) (part : Nat) : State :=
  match s.gangTries part with
  | none => s
  | some (k, g, _, ts) =>
    match leastBy (fun x => (16 - x.2.1.length) * 64 + x.1) (if g.st == .reserving then ts.filter fun x => x.1 == g.cluster else ts) with
    | none => s
    | some (c, ms, _) =>
      if ms.isEmpty then s
      else (s.unreserve part).updGang k fun x => { x with st := .reserving, cluster := c, reserved := (List.range ms.length).zip (ms.map (·.2)) }

/-- GANG_PLACE (R150): the oldest gang is placed whole, else it reserves what fits. -/
def execGangPlace (part : Nat) (s : State) : Out :=
  .next (match s.gangWhole part with
    | some t => t.tick
    | none => s.gangPart part)

/-! ## Saving and giving up a core (R126, R152, R437) -/

/-- The entry whose liveness entries govern a wave (R126). -/
def State.liveEntry (s : State) (wv : Wave) : Entry :=
  match wv.berth with
  | some b => (((s.flow b.flow).stage b.delivered).getD default).entry
  | none => (s.gridOf (s.teamOf wv)).entry
/-- The code object a wave runs. -/
def State.waveObj (s : State) (wv : Wave) : Option CodeObj :=
  let a := match wv.berth with
    | some b => (s.flow b.flow).code
    | none => (s.gridOf (s.teamOf wv)).code
  (s.ctx wv.ctxn).objs.find? fun o => o.addr == a
/-- R126: the live registers at a clause header; none saves every register. -/
def State.liveMap (s : State) (wv : Wave) (pc : Nat) : Option (BitVec 192) :=
  match s.waveObj wv with
  | none => none
  | some o =>
    let e := s.liveEntry wv
    (((o.lives.drop e.live0).take e.liven).find? fun x => o.addr + o.textOff + x.off == pc).map (·.map)

/-- R126, R157: a wave is saved: results land, a register that is not live at its lane's next clause is undefined after, the
operand buffer is empty. -/
def State.saveWave (s : State) (w : Nat) : State :=
  let wv := s.wave w
  let (b, s) := s.fresh (32 * wv.alloc)
  if wv.st == .docked then s
  else
    s.updWave w fun x =>
      let x := x.landAll
      { x with
        staged := []
        lanes := mapIx (fun l ln => match s.liveMap x ln.pc.toNat with
          | none => ln
          | some m => { ln with v := mapIx (fun r y => if m.getLsbD r then y else Config.freeWord (b + l * x.alloc + r)) 0 ln.v }) 0 x.lanes }

/-- R351, R360: a team's window is saved and its running commands wait for it. -/
def State.saveWindows (s : State) (t : Nat) : State :=
  let s := s.mxes.foldl (fun (s : State) m => match mget m.2.windows t with
    | none => s
    | some w => { (s.updMxe m.1 fun x => { x with windows := mdel x.windows t }) with mxSaved := mset s.mxSaved t w }) s
  { s with cmds := mmap s.cmds fun _ k => if k.team = t then { k with st := .queued } else k }

/-- R286, R437: a team's transfers are complete and its waves stand at clause boundaries. -/
def State.atRest (s : State) (t : Nat) : Bool :=
  !s.copies.any (fun j => j.2.team == t) &&
    (((mget s.teams t).getD default).loc.tags.all fun x => (x.2.tag != .filling && x.2.tag != .draining) ||
      s.cmds.any fun k => k.2.outLines.contains (t, x.1) || k.2.lines.any fun y => y.1 == t && y.2.1 == x.1) &&
    (s.liveWaves t).all fun w => (s.wave w).clause.isNone

/-! ## Parking (R152, R153) -/

/-- R153: a team of the core that waits parked and runnable. -/
def Team.waits (t : Team) : Bool := t.st == .parked && t.runnableAt != 0

/-- R152: a wave that makes its team idle. -/
def State.idleWave (s : State) (gang : Bool) (wv : Wave) : Bool :=
  (match wv.sleep with
   | some d => decide (s.now + 10000 < d)
   | none => false) || (wv.st == .parked && !(gang && wv.kidsWait.isSome))

/-- R152: a team the placer may park at all: resident, no berth, at rest, no wave in a trap. -/
def State.parkable (s : State) (t : Nat) : Bool :=
  let tm := (mget s.teams t).getD default
  tm.st == .resident && !tm.berthTeam && !tm.preempted && (s.ctx (s.teamCtx tm)).runs && s.atRest t &&
    (s.liveWaves t).all fun w => !(s.wave w).trapped

/-- R152: every wave of a team is idle. -/
def State.idleTeam (s : State) (gang : Bool) (t : Nat) : Bool := (s.liveWaves t).all fun w => s.idleWave gang (s.wave w)
/-- R152: a team had its turn. -/
def State.hadTurn (s : State) (t : Nat) : Bool := decide (((mget s.teams t).getD default).since + 100000 ≤ s.now)

/-- R153: a parked team waits for its core: it is runnable, or a member of its gang is. -/
def State.waitsParked (s : State) (t : Team) : Bool :=
  t.st == .parked && (t.waits || t.gang.any fun g => (s.gangTeams g).any fun x => ((mget s.teams x).getD default).waits)
/-- R151: the parking areas take teams beside what is parked. -/
def State.parkFits (s : State) (ts : List Nat) : Bool :=
  let tm (t : Nat) : Team := (mget s.teams t).getD default
  (dedup (ts.map fun t => (tm t).core)).all fun k =>
    let own := (ts.filter fun t => (tm t).core == k).map fun t => s.footprint t (tm t)
    s.parkRoom k (own.foldl (fun a x => a + x.2.1) 0) (own.foldl (fun a x => a + x.2.2) 0)

/-- R152, R140: whether a team outside a gang is parked now. -/
def State.parksNow (s : State) (t : Nat) : Bool :=
  let tm := (mget s.teams t).getD default
  let wanted := s.teams.any fun x => x.2.core == tm.core && s.waitsParked x.2
  let longest := s.teamsOn tm.core fun x => x.gang.isNone && x.st == .resident && decide (x.since + 100000 ≤ s.now)
  s.parkable t && tm.gang.isNone && s.parkFits [t] &&
    (((s.liveWaves t).all fun w => (s.wave w).kidsWait.isSome && (s.wave w).st == .parked) ||
      (wanted && (s.idleTeam false t ||
        (s.hadTurn t && (longest.filter s.parkable).all fun x => decide (tm.since ≤ ((mget s.teams x).getD default).since)))))

/-- R149: a resident team is parked; one with matrix commands under way is runnable at once, since they go on only on the core (R153,
R360). -/
def State.park (s : State) (t : Nat) : State :=
  let s := (s.liveWaves t).foldl State.saveWave s
  let s := s.saveWindows t
  let s := s.updTeam t fun x => { x.unpin with st := .parked, runnableAt := 0 }
  let s := (s.liveWaves t).foldl State.noteRunnable s
  if s.cmds.any fun k => k.2.team == t then s.markRunnable t else s

/-! ## Unparking (R153) -/

/-- The register bytes and wave contexts a team's waves take on each quadrant. -/
def State.quadNeeds (s : State) (t : Nat) : List (Nat × Nat) :=
  (List.range 4).map fun q =>
    let ws := (s.liveWaves t).filter fun w => (s.wave w).quad == q
    (ws.foldl (fun a w => a + (s.wave w).bytes) 0, ws.length)

/-- Room for a team's waves on their own quadrants, and for its pages (R146: a wave stays on one quadrant). -/
def State.fitsBack (s : State) (t : Nat) : Bool :=
  let tm := (mget s.teams t).getD default
  decide (s.framesUsed tm.core + s.pagesReserved tm.core + tm.npages ≤ s.framesOf tm.core) &&
    ((s.quadsLeft tm.core).zip (s.quadNeeds t)).all fun x => decide (x.1.1 + x.2.1 ≤ 131072) && decide (x.1.2 + x.2.2 ≤ 16)

/-- R149: a parked team is made resident; none without room. A team that has not run yet starts its waves. -/
def State.unpark (s : State) (t : Nat) : Option State :=
  let tm := (mget s.teams t).getD default
  let s := s.noteResident (s.teamCtx tm)
  if !s.waves.any fun w => w.2.team == t then
    let e := s.entryOf tm
    (s.roomFor tm.core e.waves e.alloc tm.npages).map (s.makeResident t)
  else if s.fitsBack t then
    let s := (s.updTeam t fun x => { x with st := .resident, since := s.now, runnableAt := 0 }).takeContexts t
    some ((s.liveWaves t).foldl (State.boundaryAt false) s)
  else none

/-- Unparks the teams of a gang together. -/
def unparkAll : List Nat → State → Option State
  | [], s => some s
  | t :: ts, s => match s.unpark t with
    | none => none
    | some s => unparkAll ts s

/-- R153: a parked team comes back, with its gang. -/
def State.unparkPack (s : State) (t : Nat) : Option State :=
  match ((mget s.teams t).getD default).gang with
  | none => s.unpark t
  | some g => (unparkAll (s.gangTeams g) s).map fun s => s.updGang g fun x => { x with st := .placed }
/-- R153: the parked runnable teams of a core that stand in no gang. -/
def State.singlesWaiting (s : State) (core : Nat) : List (Nat × Team) :=
  s.teams.filter fun t => t.2.core == core && t.2.gang.isNone && t.2.waits && (s.ctx (s.teamCtx t.2)).runs
/-- R153: when the first member of a parked gang became runnable; none while no member is. -/
def State.gangRunnable (s : State) (g : Nat) : Option Nat :=
  let ts := (s.gangTeams g).map fun t => (mget s.teams t).getD default
  if ts.all fun t => (s.ctx (s.teamCtx t)).runs then leastBy id ((ts.filter Team.waits).map (·.runnableAt)) else none
/-- R153: of the parked gangs of a cluster, the one that became runnable first, and when. -/
def State.nextGang (s : State) (cluster : Nat) : Option (Nat × Nat) :=
  leastBy (·.1) ((s.gangs.filter fun g => g.2.cluster == cluster && g.2.st == .parked).filterMap fun g => (s.gangRunnable g.1).map fun n => (n, g.1))
/-- R153: a gang comes back when no team outside a gang has waited longer on a core of it. -/
def State.gangTurn (s : State) (g since : Nat) : Bool :=
  (s.gangTeams g).all fun t => (s.singlesWaiting ((mget s.teams t).getD default).core).all fun x => decide (since ≤ x.2.runnableAt)
/-- R153: the parked team of a core that became runnable first, or a member of the first gang of its cluster when that holds a team on the
core and became runnable before. -/
def State.nextParked (s : State) (core : Nat) : Option Nat :=
  let gang := (s.nextGang (core / 4)).bind fun x =>
    ((s.gangTeams x.2).find? fun t => ((mget s.teams t).getD default).core == core).map fun t => (x.1, t, s.gangTurn x.2 x.1)
  match leastBy (·.1) ((s.singlesWaiting core).map (fun t => (t.2.runnableAt, t.1, true)) ++ gang.toList) with
  | some (_, t, ok) => if ok then some t else none
  | none => none

/-- R152: a gang's teams have had their turn. -/
def State.gangHadTurn (s : State) (g : Nat) : Bool := (s.gangTeams g).all fun t => s.parkable t && s.hadTurn t
/-- Since when a gang is resident. -/
def State.gangSince (s : State) (g : Nat) : Nat := (((s.gangTeams g).head?.bind fun t => mget s.teams t).getD default).since
/-- R152: whether a gang is parked now: a runnable team or gang that waits on a core of it cannot come back beside it, and the gang is idle,
or had its turn and is the longest resident of its cluster that did (log 32). -/
def State.gangParksNow (s : State) (g : Nat) : Bool :=
  let x := (mget s.gangs g).getD default
  let ts := s.gangTeams g
  x.st == .placed && !ts.isEmpty && ts.all s.parkable && s.parkFits ts &&
    (s.teams.any fun t => (ts.any fun m => ((mget s.teams m).getD default).core == t.2.core) && s.waitsParked t.2 && (s.unparkPack t.1).isNone &&
      (s.grown.unparkPack t.1).isNone) &&
    (ts.all (s.idleTeam true) || (s.gangHadTurn g && (s.gangs.filter fun y => y.2.cluster == x.cluster && y.2.st == .placed && s.gangHadTurn y.1).all
      fun y => decide (s.gangSince g ≤ s.gangSince y.1)))

/-- TEAM_PARK (R152). -/
def execTeamPark (t : Nat) (s : State) : Out :=
  .next (match mget s.teams t with
    | none => s
    | some tm => match tm.gang with
      | none => if s.parksNow t then (s.park t).tick else s
      | some g =>
        if s.gangParksNow g then
          (((s.gangTeams g).foldl State.park s).updGang g fun x => { x with st := .parked })
        else s)

/-- TEAM_UNPARK (R153): the parked team, or gang, of the core that became runnable first. -/
def execTeamUnpark (core : Nat) (s : State) : Out :=
  .next (match s.nextParked core with
    | none => s
    | some t => ((s.unparkPack t).map State.tick).getD s)

/-! ## Retirement of a team (R149) -/

/-- Frees what a team holds: its waves, its frames and private slot, its accumulator window (R149, R351). -/
def State.freeTeam (s : State) (t : Nat) : State :=
  { s with
    waves := s.waves.filter fun w => w.2.team != t
    teams := mdel s.teams t
    mxes := mmap s.mxes fun _ m => { m with windows := mdel m.windows t }
    mxSaved := mdel s.mxSaved t
    mxDone := s.mxDone.filter fun d => (s.wave d.2.wave).team != t
    cur := if (s.wave s.cur).team = t then 0 else s.cur }

/-- Whether a grid has a descendant that has not retired (R133). -/
def State.kidsOf (s : State) (g : Nat) : Bool := s.grids.any fun x => x.2.parent == some g && x.2.st != .retired

/-- R133: one more team of a grid has retired. -/
def State.gridLost (s : State) (g : Nat) : State :=
  let kids := s.kidsOf g
  s.updGrid g fun x =>
    let n := x.retiredTeams + 1
    { x with retiredTeams := n, st := if x.teams ≤ n && kids then .draining else x.st }

/-- TEAM_RETIRE (R149): its copies and engine commands are complete. -/
def execTeamRetire (t : Nat) (s : State) : Out :=
  .next (match mget s.teams t with
    | none => s
    | some tm =>
      if tm.st != .draining || tm.preempted || s.copies.any (fun j => j.2.team == t) || s.cmds.any (fun k => k.2.team == t) then s
      else
        let s := (s.freeTeam t).gridLost tm.grid
        let s := s.tick
        match tm.gang with
        | none => s
        | some g =>
          let rest := s.gangTeams g
          if rest.isEmpty then { s with gangs := mdel s.gangs g } else rest.foldl State.syncTeam s)

/-! ## Pre-emption (R436 to R438) -/

/-- R436: a context has a team or a gang to place that no free capacity takes. -/
def State.starved (s : State) (c : Nat) : Bool :=
  let part := s.partOf c
  s.grids.any (fun g => g.2.ctx == c && s.admissible part g && (s.coreFor part g.2.entry true).isNone) ||
    (s.flows.any fun f => f.2.ctx == c && s.flowWaits part f.2 && (s.coreFor part f.2.berthEntry false).isNone) ||
    match s.gangTries part with
    | some (_, g, _) => ((mget s.grids g.grid).getD default).ctx == c && (s.gangWhole part).isNone && (s.grown.gangWhole part).isNone
    | none => false
/-- R436: pre-emption of a context begins. -/
def State.preempt (s : State) (c : Nat) : State := s.updCtx c fun x => { x with preempting := true, saved := false }

/-- PREEMPT (R436): a context of higher priority in the partition lacks capacity. -/
def execPreempt (c : Nat) (s : State) : Out :=
  .next (
    let x := s.ctx c
    if x.runs && x.residentSince + 1000000 ≤ s.now && (s.teams.any fun t => s.teamCtx t.2 == c && t.2.onCore) &&
        (s.ctxs.any fun y => x.desc.prio < y.2.desc.prio && y.2.desc.part == x.desc.part && s.starved y.1) then
      (s.preempt c).tick
    else s)

/-- The teams of a context that hold a core. -/
def State.heldTeams (s : State) (c : Nat) : List Nat := mkeys s.teams fun t => s.teamCtx t == c && t.onCore
/-- R437: every transfer is complete and every wave stands at a boundary. -/
def State.canSave (s : State) (c : Nat) : Bool :=
  !s.copies.any (fun j => j.2.ctx == c) && (s.wavesOf c).all (fun w => (s.wave w).clause.isNone) && (s.heldTeams c).all s.atRest

/-- R437: saves a resident team and gives its core up. -/
def State.saveTeam (s : State) (t : Nat) : State :=
  let s := (s.liveWaves t).foldl State.saveWave s
  (s.saveWindows t).updTeam t fun x => { x.unpin with preempted := true }

/-- PREEMPT_COMPLETE (R437); an error that met the pre-emption acts now (R446). -/
def execPreemptComplete (c : Nat) (s : State) : Out :=
  .next (
    let x := s.ctx c
    if x.preempting && !x.saved && s.canSave c then
      ((((s.heldTeams c).foldl State.saveTeam s).updCtx c fun y => { y with saved := true }).errsMet c).tick
    else s)

/-- R438: a team comes back, on its own core and quadrants when they are free. -/
def State.restoreOwn (s : State) (t : Nat) : Option State :=
  if s.fitsBack t then some ((s.updTeam t fun x => { x with preempted := false, since := s.now }).takeContexts t) else none

/-- R438: a team comes back on another core: its waves take quadrants there. -/
def State.restoreAt (s : State) (t core : Nat) : Option State :=
  let tm := (mget s.teams t).getD default
  let ws := s.liveWaves t
  let e := { s.entryOf tm with waves := ws.length }
  if !s.capacity core e false then none
  else (s.roomFor core ws.length e.alloc tm.npages).map fun qs =>
    let s := (ws.zip qs).foldl (fun (s : State) x => s.updWave x.1 fun w => { w with core := core, quad := x.2 }) s
    let s := { s with cmds := mmap s.cmds fun _ k => if k.team = t then { k with cluster := core / 4 } else k }
    (s.updTeam t fun x => { x with core := core, preempted := false, since := s.now }).takeContexts t

/-- Restores teams together on cores of a list, each on the first that takes it. -/
def restoreOn (cores : List Nat) : List Nat → State → Option State
  | [], s => some s
  | t :: ts, s => match cores.findSome? (s.restoreAt t) with
    | none => none
    | some s => restoreOn cores ts s
/-- Restores teams together on their own cores. -/
def restoreOwnAll : List Nat → State → Option State
  | [], s => some s
  | t :: ts, s => match s.restoreOwn t with
    | none => none
    | some s => restoreOwnAll ts s

/-- R438: the pre-empted teams of a context that come back together: gangs, and single teams. -/
def State.packs (s : State) (c : Nat) : List (Option Nat × List Nat) :=
  let ts := mkeys s.teams fun t => s.teamCtx t == c && t.preempted
  let gang (t : Nat) : Option Nat := ((mget s.teams t).getD default).gang
  (dedup (ts.filterMap gang)).map (fun g => (some g, ts.filter fun t => gang t == some g)) ++
    (ts.filter fun t => (gang t).isNone).map fun t => (none, [t])

/-- R438: one pack comes back; a gang in one cluster. -/
def State.restorePack (s : State) (part : Nat) (p : Option Nat × List Nat) : Option State :=
  match restoreOwnAll p.2 s with
  | some s => some s
  | none => match p.1 with
    | none => restoreOn (s.dev.cores part) p.2 s
    | some g => ((List.range 64).filter (s.dev.clusterIn part)).findSome? fun c =>
        (restoreOn (s.dev.clusterCores part c) p.2 s).map fun s => s.updGang g fun x => { x with cluster := c }

/-- Restores packs one after the other. -/
def restorePacks (part : Nat) : List (Option Nat × List Nat) → State → Option State
  | [], s => some s
  | p :: ps, s => match s.restorePack part p with
    | none => none
    | some s => restorePacks part ps s

/-! ## Octants (R284) -/

/-- R438: an ACTIVE context whose teams were saved comes back whole. -/
def State.restoreAll (s : State) (c : Nat) : Option State :=
  let x := s.ctx c
  if x.st == .active && x.preempting && x.saved then restorePacks x.desc.part (s.packs c) s else none
/-- R284: what the placer would do next if no LOCAL frame were short. -/
def State.wishes (s : State) : List State :=
  let s := s.grown
  (List.range 8).filterMap (fun p => (s.nextAdmission p).map (·.2)) ++ (List.range 8).filterMap s.gangWhole ++
    (dedup (s.teams.map (·.2.core))).filterMap (fun k => (s.nextParked k).bind s.unparkPack) ++
    (s.ctxs.map (·.1)).filterMap s.restoreAll
/-- The frames of a mode that a core's teams need: LOCAL ones also those being made resident, FIFO ones also for writes that wait. -/
def State.framesNeed (s : State) (core mode : Nat) : Nat :=
  if mode = 1 then s.wishes.foldl (fun a t => max a (t.framesUsed core + t.pagesReserved core)) (s.framesUsed core + s.pagesReserved core)
  else if mode = 2 then max (s.pinnedPages core 2).length
    (s.teams.foldl (fun a t => if t.2.core = core && t.2.onCore then a + t.2.loc.windows true else a) 0)
  else 0
/-- The octants of a mode that a core needs. -/
def State.octantNeed (s : State) (core mode : Nat) : Nat := (s.framesNeed core mode + 7) / 8
/-- R284: an octant with a FILLING or DRAINING line is not switched. -/
def State.octantBusy (s : State) (core oct : Nat) : Bool := (s.octantPages core oct).any fun p => (s.loc p.1).busyPage p.2
/-- Whether an octant may be switched: back to CACHE when it is not needed, or from CACHE to a mode that lacks frames. -/
def State.mayswitch (s : State) (core oct mode : Nat) : Bool :=
  let ms := s.dev.octantModes core
  let cur := ms.getD oct 0
  let have_ (m : Nat) : Nat := (ms.filter (· == m)).length
  decide (oct < 8) && decide (core < 256) && decide (mode ≤ 2) && cur != mode && !s.octantBusy core oct &&
    (cur == 0 || decide (s.octantNeed core cur < have_ cur)) && (mode == 0 || decide (have_ mode < s.octantNeed core mode))
/-- R286: a page leaves its frame. -/
def State.evict (s : State) (p : Nat × Nat) : State := s.updTeam p.1 fun t => { t with loc := { t.loc with pages := mdel t.loc.pages p.2 } }

/-- OCTANT_MODE_SWITCH (R284): a drain begins. -/
def execOctantModeSwitch (core oct mode : Nat) (s : State) : Out :=
  .next (if s.mayswitch core oct mode && !(s.dev.drains.any fun d => d.1 == core && d.2.1 == oct) then
    { s with dev := { s.dev with drains := s.dev.drains ++ [(core, oct, mode)] }, ctr := s.ctr + 1 } else s)
/-- OCTANT_DRAIN_COMPLETE (R284): a drain ends: the octant's pages are unpinned and the new mode takes effect, unless the octant has come
to be needed meanwhile. -/
def execOctantDrainComplete (core oct : Nat) (s : State) : Out :=
  .next (match s.dev.drains.find? fun d => d.1 == core && d.2.1 == oct with
    | none => s
    | some (_, _, m) =>
      let t := if s.mayswitch core oct m then (s.octantPages core oct).foldl State.evict s else s
      let d := { s.dev with drains := s.dev.drains.filter fun x => !(x.1 == core && x.2.1 == oct) }
      let d := if s.mayswitch core oct m then { d with octants := mset d.octants core ((s.dev.octantModes core).set oct m) } else d
      { t with dev := d, ctr := s.ctr + 1 })
/-- R284: the switches the placer makes: where a mode lacks frames, the first octant that may be turned, one out of CACHE before others. -/
def State.switches (s : State) : List (Nat × Nat × Nat) :=
  let cores := dedup (s.teams.map (·.2.core) ++ s.wishes.flatMap fun t => t.teams.map (·.2.core))
  cores.flatMap fun k => [1, 2].filterMap fun m =>
    if s.octantNeed k m ≤ s.octantsIn k m + (s.dev.drains.filter fun d => d.1 == k && d.2.2 == m).length then none
    else
      let free := (List.range 8).filter fun o => s.mayswitch k o m && !s.dev.drains.any fun d => d.1 == k && d.2.1 == o
      ((free.find? fun o => (s.dev.octantModes k).getD o 0 == 0).orElse fun _ => free.head?).map fun o => (k, o, m)

/-- CONTEXT_RESTORE (R438): every team and gang of an ACTIVE context comes back whole. -/
def execContextRestore (c : Nat) (s : State) : Out :=
  .next (
    match s.restoreAll c with
    | none => s
    | some s =>
      let s := s.updCtx c fun y => { y with preempting := false, saved := false, residentSince := s.now }
      ((s.wavesOf c).foldl (State.boundaryAt false) s).tick)

end Sys2Proof.Machine
end

