-- ==== Sys2Proof/Machine/Kernel.lean ====
section
/-! DEFINITION. Kernels: code objects and their registration (R124 to R129), launch descriptors and the checks of a launch
(R130 to R134), measure marks (R87, R88), grids becoming DECODED (R133, R136), child grids and the retirement of grids
(R133, R137). -/
namespace Sys2Proof.Machine

/-! ## What the command processor's checks answer -/

/-- The outcome of a check: a value; a resolvable fault of an access, which waits for the host, with the status that the answer
fail completes with; a failure with the status it
completes with; a frame that the device has retired (R277); or a wait for something of the device. -/
inductive Chk (α : Type) where
  | ok (a : α)
  | wait (f : TFault) (acc : Access) (code detail : Nat)
  | bad (code detail : Nat)
  | gone (pa : Nat)
  | later

/-- The next check on the value. -/
def Chk.bind {α β : Type} (x : Chk α) (f : α → Chk β) : Chk β :=
  match x with
  | .ok a => f a
  | .wait g acc c d => .wait g acc c d
  | .bad c d => .bad c d
  | .gone pa => .gone pa
  | .later => .later

/-- A condition with the detail of its failure (status 0x08). -/
def need (b : Bool) (detail : Nat) : Chk Unit := if b then .ok () else .bad 8 detail

/-- The first failing of a list of conditions with their details. -/
def needAll : List (Bool × Nat) → Chk Unit
  | [] => .ok ()
  | (b, d) :: t => if b then needAll t else .bad 8 d

/-- R106, R279: an access of the command processor to a range; a final fault completes with a status. -/
def State.reach (s : State) (c va n : Nat) (acc : Access) (code : TFault → Nat × Nat) (ag : Nat := svc) : Chk Unit :=
  match s.agentFault c va n acc ag with
  | none => .ok ()
  | some f =>
    if resolvable f.kind then .wait f acc (code f).1 (code f).2
    else match s.goneFrame c f ag with
      | some pa => .gone pa
      | none => .bad (code f).1 (code f).2

/-- R132: the status of an unreadable structure. -/
def unreadable : TFault → Nat × Nat := fun _ => (8, 0x5000)
/-- R106, R279: status 0x07 with the cause of an engine's or service agent's translation fault. -/
def workFault : TFault → Nat × Nat := fun f => (7, f.cause)

/-- Reads a structure. -/
def State.getBytes (s : State) (c va n : Nat) : Chk (List Byte) :=
  if 2 ^ 57 < va + n then .bad 8 0x5000 else (s.reach c va n 0 unreadable).bind fun _ => .ok (s.svbytes c va n)

/-- The number of `n` bytes at an offset. -/
def field (bs : List Byte) (off n : Nat) : Nat := leNat ((bs.drop off).take n)

/-! ## Code objects (R124 to R129) -/

/-- R124: the parts of an image in header order: the header offset that locates each, its offset and bytes. -/
def imageParts (h : List Byte) : List (Nat × Nat × Nat) :=
  [(0x00, 0, 64), (0x10, field h 0x10 4, field h 0x14 4), (0x18, field h 0x18 4, 32 * field h 0x1C 2),
   (0x20, field h 0x20 4, 32 * field h 0x24 4), (0x28, field h 0x28 4, 16 * (field h 0x2C 2 + field h 0x2E 2)),
   (0x30, field h 0x30 4, field h 0x34 4), (0x38, field h 0x38 4, 8 * field h 0x3C 4)]

/-- R124: a part lies within the image and overlaps no earlier part; an empty part takes no place. -/
def partOk (h : List Byte) (i : Nat) : Bool :=
  let ps := imageParts h
  let p := ps.getD i (0, 0, 0)
  p.2.2 == 0 || (decide (p.2.1 + p.2.2 ≤ field h 8 4) &&
    (ps.take i).all fun q => q.2.2 == 0 || decide (q.2.1 + q.2.2 ≤ p.2.1) || decide (p.2.1 + p.2.2 ≤ q.2.1))

/-- R124, R128: the header's checks in ascending offset. -/
def headerCheck (h : List Byte) : Chk Unit :=
  let f (o n : Nat) : Nat := field h o n
  needAll (([(f 0 8 == 0x313045444F43425A, 0x00), (decide (64 ≤ f 8 4) && decide (f 8 4 ≤ 0x4000000), 0x08),
    (f 0x0E 2 == 1 && f 0x0C 2 == 0, 0x0C), (f 0x10 4 % 8 == 0 && partOk h 1, 0x10), (f 0x14 4 % 8 == 0, 0x14),
    (f 0x18 4 % 32 == 0 && partOk h 2, 0x18), (decide (1 ≤ f 0x1C 2) && decide (f 0x1C 2 ≤ 256), 0x1C), (f 0x1E 2 == 0, 0x1E),
    (f 0x20 4 % 32 == 0 && partOk h 3, 0x20), (decide (f 0x24 4 ≤ 4194304), 0x24),
    (f 0x28 4 % 16 == 0 && partOk h 4, 0x28), (decide (f 0x2C 2 ≤ 4096), 0x2C), (decide (f 0x2E 2 ≤ 4096), 0x2E),
    (partOk h 5, 0x30), (f 0x38 4 % 8 == 0 && partOk h 6, 0x38), (decide (f 0x3C 4 ≤ 4096), 0x3C)] : List (Bool × Nat)).map
      fun x => (x.1, 0x2000 + x.2))

/-- R125: an entry. -/
def entryOf (b : List Byte) : Entry :=
  { clause := field b 0 4, gang := field b 6 1, waves := field b 5 1, regblk := field b 4 1, loc := field b 8 4,
    plnn := field b 14 2, pln0 := field b 12 2, live0 := field b 16 4, liven := field b 20 4, measn := field b 24 2, meas0 := field b 28 4 }
/-- R125: the limits of an entry; what it names lies in the tables. -/
def entryCheck (h b : List Byte) : Bool :=
  let e := entryOf b
  e.clause % 8 == 0 && decide (e.clause < field h 0x14 4) && field b 7 1 == 0 && decide (e.gang ≤ 16) && decide (1 ≤ e.waves) &&
    decide (e.waves ≤ 32) && decide (1 ≤ e.regblk) && decide (e.regblk ≤ 24) && e.loc % 8192 == 0 && decide (e.loc ≤ 262144) &&
    decide (e.plnn ≤ 16) && decide (e.pln0 + e.plnn ≤ field h 0x2C 2) && decide (e.live0 + e.liven ≤ field h 0x24 4) &&
    decide (e.measn ≤ 4096) && field b 26 2 == 0 && decide (e.meas0 + e.measn ≤ field h 0x3C 4)

/-- The items of a table of an image. -/
def items (im : List Byte) (off size n : Nat) : List (List Byte) := (List.range n).map fun i => (im.drop (off + size * i)).take size

/-- R126, R127: strictly ascending numbers; the index of the first that is not above the one before. -/
def unsorted : Nat → List Nat → Option Nat
  | n, x :: y :: t => if x < y then unsorted (n + 1) (y :: t) else some (n + 1)
  | _, _ => none

/-- The index of the first element that fails. -/
def failing {α : Type} (ok : α → Bool) (l : List α) : Option Nat := l.findIdx? fun x => !ok x

/-- A condition per item with the structure code of R132. -/
def needItem (code : Nat) (x : Option Nat) : Chk Unit :=
  match x with
  | none => .ok ()
  | some i => .bad 8 (code * 0x1000 + i % 4096)

/-- R127: a stage declaration. -/
def stageDeclOf (b : List Byte) : StageDecl := { mask := BitVec.ofNat 32 (field b 0 4), patience := field b 4 4, entry := field b 8 2 }
/-- R127: a measure mark. -/
def markOf (b : List Byte) : Mark := { off := field b 0 4, result := field b 4 1 == 1 }

/-- R124 to R128: checks an image and takes it apart. -/
def parseImage (addr : Nat) (im : List Byte) : Chk CodeObj :=
  let f (o n : Nat) : Nat := field im o n
  let ents := items im (f 0x18 4) 32 (f 0x1C 2)
  let lives := items im (f 0x20 4) 32 (f 0x24 4)
  let plns := items im (f 0x28 4) 16 (f 0x2C 2)
  let stgs := items im (f 0x28 4 + 16 * f 0x2C 2) 16 (f 0x2E 2)
  let marks := items im (f 0x38 4) 8 (f 0x3C 4)
  let es := ents.map entryOf
  let lv : List Live := lives.map fun b => { off := field b 0 4, map := BitVec.ofNat 192 (field b 8 24) }
  let ms := marks.map markOf
  let liveBad := es.findSome? fun e => (unsorted 0 (((lv.drop e.live0).take e.liven).map (·.off))).map (e.live0 + ·)
  let markBad := es.findSome? fun e => (unsorted 0 (((ms.drop e.meas0).take e.measn).map fun m => 2 * m.off + bn m.result)).map (e.meas0 + ·)
  (needItem 3 (failing (entryCheck im) ents)).bind fun _ =>
  (needItem 7 (failing (fun b => field b 4 4 == 0) lives)).bind fun _ =>
  (needItem 7 liveBad).bind fun _ =>
  (needItem 8 (failing (fun b => field b 8 8 == 0 && (planeDecl (field b 0 8)).isSome) plns)).bind fun _ =>
  (needItem 9 (failing (fun b => field b 10 6 == 0 && decide (field b 8 2 < es.length)) stgs)).bind fun _ =>
  (needItem 10 (failing (fun b => field b 0 4 % 8 == 0 && decide (field b 4 1 ≤ 1) && field b 5 3 == 0) marks)).bind fun _ =>
  (needItem 10 markBad).bind fun _ =>
  .ok { addr := addr, len := f 8 4, id := 0, textOff := f 0x10 4, textLen := f 0x14 4, entries := es, lives := lv,
        planes := plns.filterMap fun b => planeDecl (field b 0 8), stages := stgs.map stageDeclOf, marks := ms, lastUse := 0 }

/-- R129: a loaded object has a launch that has not retired. -/
def State.codeInUse (s : State) (c addr : Nat) : Bool :=
  s.grids.any (fun g => g.2.ctx == c && g.2.code == addr && g.2.st != .retired && g.2.st != .faulted) ||
    s.flows.any fun f => f.2.ctx == c && f.2.code == addr && f.2.st != .stopped && f.2.st != .faulted

/-- R128, R275: the code object at an address: loaded (with `false`), or its image, on CODE pages, checked; `later` when the table is full of
objects in use, or a store that has issued is still to be made in the image (R242, log 153). -/
def State.codeAt (s : State) (c addr : Nat) : Chk (CodeObj × Bool) :=
  match (s.ctx c).objs.find? fun o => o.addr == addr with
  | some o => .ok (o, false)
  | none =>
    if 1024 ≤ (s.ctx c).objs.length && (s.ctx c).objs.all (fun o => s.codeInUse c o.addr) then .later
    else
      (s.getBytes c addr 64).bind fun h => (headerCheck h).bind fun _ => (if s.storesTo c addr (field h 8 4) then Chk.later else .ok ()).bind fun _ =>
      (s.reach c addr (field h 8 4) 3 unreadable).bind fun _ => (s.getBytes c addr (field h 8 4)).bind fun im => (parseImage addr im).bind fun o => .ok (o, true)

/-- R129: makes room in a full table: the least recently used object without a launch leaves, but for those in `keep`. -/
def State.unloadOne (s : State) (c : Nat) (keep : List Nat) : State :=
  if (s.ctx c).objs.length < 1024 then s
  else match leastBy (·.lastUse) ((s.ctx c).objs.filter fun o => !s.codeInUse c o.addr && !keep.contains o.addr) with
    | none => s
    | some o => s.updCtx c fun x => { x with objs := x.objs.filter fun p => p.addr != o.addr }

/-- R128: registers a new object, or notes the use of a loaded one: its id. `wt` is what waits on the CODE record, `keep` the images that
the same packet uses. -/
def State.register (s : State) (c : Nat) (o : CodeObj) (new : Bool) (wt : Waiter) (keep : List Nat := []) : Nat × State :=
  let use := s.key
  let s := { s with key := s.key + 1 }
  if !new then (o.id, s.updCtx c fun x => { x with objs := x.objs.map fun p => if p.addr = o.addr then { p with lastUse := use } else p })
  else if (s.ctx c).objs.any (fun p => p.addr == o.addr) then
    ((((s.ctx c).objs.find? fun p => p.addr == o.addr).getD o).id, s)
  else
    let s := s.unloadOne c keep
    let id := (s.ctx c).nextCode
    let s := s.updCtx c fun x => { x with nextCode := id + 1, objs := x.objs ++ [{ o with id := id, lastUse := use }] }
    (id, s.record1 c { type := 1, subject := id, addr := o.addr, len := o.len, aux := 0,
                       digest := if (s.ctx c).desc.meas then treeHash (s.svbytes c o.addr o.len) else 0, waiter := wt })

/-! ## Launches (R130 to R134) -/

/-- A launch that passed its checks: the grid it becomes, its code object, whether the object is new. -/
structure Launch where
  grid : Grid
  obj : CodeObj
  new : Bool
  deriving DecidableEq, Repr, Inhabited

/-- R130: the descriptor's fields in ascending offset; with PRIVSIZE = 0 a PRIVTEAMS of 0 is accepted as PRIVBASE is (log 165). -/
def descCheck (d : List Byte) : Chk Unit :=
  let f (o n : Nat) : Nat := field d o n
  let p := f 0x28 2 != 0
  needAll (([(f 0 8 % 4096 == 0, 0x00), (f 0x09 1 == 0, 0x09), (bits (f 0x08 4) 31 18 == 0, 0x0A),
    (decide (1 ≤ f 0x0C 4) && decide (f 0x0C 4 ≤ 16777216), 0x0C), (f 0x1C 4 == 0, 0x1C), (!p || f 0x20 8 % 128 == 0, 0x20),
    (f 0x28 2 % 4 == 0, 0x28), (!p || f 0x2A 2 != 0, 0x2A), (f 0x2C 4 == 0, 0x2C), (f 0x30 8 == 0, 0x30), (f 0x38 8 == 0, 0x38)] :
      List (Bool × Nat)).map fun x => (x.1, 0x1000 + x.2))

/-- R128, R130: the code object that a launch descriptor names, once the descriptor itself passes its checks. -/
def State.launchImage (s : State) (c desc args arglen mis : Nat) : Chk (List Byte × CodeObj × Bool) :=
  (need (desc % 64 == 0) mis).bind fun _ =>
  (need (decide (args ≤ desc) && decide (desc + 64 ≤ args + arglen)) 0x5000).bind fun _ =>
  (s.getBytes c desc 64).bind fun d => (descCheck d).bind fun _ =>
  (s.codeAt c (field d 0 8)).bind fun x => .ok (d, x)
/-- R128: a decode that fails after an image passed its checks has registered it; a failure of a measure mark appends nothing (R87). -/
def State.keepImage {α β : Type} (s : State) (c : Nat) (x : Chk α) (im : Chk (β × CodeObj × Bool)) : State :=
  match x, im with
  | .bad 8 0x5000, _ => s
  | .bad _ _, .ok (_, o, true) => (s.register c o true .none).2
  | _, _ => s

/-- R130, R132, R133, R134: the checks of a launch; `mis` is the detail of a misaligned descriptor address, `prio` the
greatest effective priority. -/
def State.checkLaunch (s : State) (c desc args arglen mis prio : Nat) : Chk Launch :=
  (s.launchImage c desc args arglen mis).bind fun (d, o, new) =>
  (need (decide (field d 8 1 < o.entries.length)) 0x1008).bind fun _ =>
    let ix := field d 8 1
    let e := o.entries.getD ix default
    (need e.fits (0x3000 + ix)).bind fun _ =>
    .ok { obj := o, new := new, grid :=
      { ctx := c, st := .submitted, origin := .child 0, parent := none, launch := 0, desc := desc, args := args, arglen := arglen,
        depth := 0, code := o.addr, codeId := o.id, entryIx := ix, entry := e, teams := field d 0x0C 4,
        prio := min (bits (field d 0x08 4) 17 16) (min (s.ctx c).desc.prio prio), seed := BitVec.ofNat 64 (field d 0x10 8),
        estimate := field d 0x18 4, privBase := field d 0x20 8, privTeams := field d 0x2A 2, privSize := field d 0x28 2,
        nextTeam := 0, retiredTeams := 0, decoded := 0, mResult := false, childFault := false, since := s.ctr } }

/-- R127: the marks of an entry. -/
def CodeObj.entryMarks (o : CodeObj) (e : Entry) : List Mark := (o.marks.drop e.meas0).take e.measn

/-- R87, R88: the buffers that marks name: each descriptor within the argument block, each buffer in device memory. -/
def State.readMarks (s : State) (c args arglen : Nat) : List Mark → Chk (List (Nat × Nat))
  | [] => .ok []
  | m :: t =>
    (need (decide (m.off + 16 ≤ arglen)) 0x5000).bind fun _ =>
    (s.getBytes c (args + m.off) 16).bind fun d =>
      let a := field d 0 8
      let n := field d 8 8
      (need (decide (a + n ≤ 2 ^ 57)) 0x5000).bind fun _ =>
      (s.reach c a n 0 unreadable).bind fun _ =>
      (need (s.inDevice c a n) 0x5000).bind fun _ =>
      (s.readMarks c args arglen t).bind fun r => .ok ((a, n) :: r)

/-- R84, R279: a record of a buffer, which is measured from then on. -/
def State.recordBuf (s : State) (c type subject aux : Nat) (wt : Waiter) (b : Nat × Nat) : State :=
  (s.updCtx c fun x => if x.desc.meas && !x.measured.contains b then { x with measured := x.measured ++ [b] } else x).record1 c { type := type, subject := subject, addr := b.1, len := b.2, aux := aux, digest := treeHash (s.svbytes c b.1 b.2), waiter := wt }

/-- Which measure flags of a packet are set (R104), on a context that keeps a chain. -/
structure MFlags where
  args : Bool
  input : Bool
  result : Bool
  deriving DecidableEq, Repr, Inhabited

/-- R87: what a packet measures. -/
def State.mflags (s : State) (c : Nat) (head : Nat) : MFlags :=
  let m := (s.ctx c).desc.meas
  { args := m && bitAt head 15, input := m && bitAt head 16, result := m && bitAt head 17 }

/-- R87: the decode-time check of the argument block and marks: the INPUT buffers. -/
def State.checkMarks (s : State) (c args arglen : Nat) (m : MFlags) (marks : List Mark) : Chk (List (Nat × Nat)) :=
  ((if m.args then s.getBytes c args arglen else .ok []).bind fun _ =>
   (s.readMarks c args arglen (if m.result then marks.filter (·.result) else [])).bind fun _ =>
   s.readMarks c args arglen (if m.input then marks.filter (!·.result) else []))

/-- R84, R87: the decode-time records: ARGS, then INPUT. -/
def State.recordDecode (s : State) (c launch queue codeId args arglen : Nat) (m : MFlags) (ins : List (Nat × Nat)) (wt : Waiter) : State :=
  let s := if m.args then s.recordBuf c 2 launch (queue + codeId * 65536) wt (args, arglen) else s
  ins.foldl (fun s b => s.recordBuf c 3 launch queue wt b) s

/-! ## DECODED (R133, R136) -/

/-- Whether a record that a grid waits for is still to be appended (R87). -/
def State.gridWaits (s : State) (k : Nat) (g : Grid) : Bool :=
  (s.ctx g.ctx).appends.any fun r => r.waiter == .grid k || (match g.origin with
    | .node q i _ => r.waiter == .packet q i
    | _ => false)

/-- R141: a grid of a node that has not started. -/
def State.held (s : State) (g : Grid) : Bool :=
  match g.origin with
  | .node q i n => match mget (s.queue q).pkts i with
    | some p => ((p.nodes.getD n default).st) != 1
    | none => false
  | _ => false

/-- R150: takes a ticket per gang. -/
def takeTickets (g part : Nat) : Nat → State → State
  | 0, s => s
  | n + 1, s =>
    let (k, s) := s.newKey
    let x : Gang := { grid := g, ticket := k, part := part, teams := [], st := .unplaced, cluster := 0, reserved := [],
                      bars := List.replicate 4 { arrived := 0, gen := 0 } }
    takeTickets g part n { s with gangs := mset s.gangs k x }

/-- R133: a submitted grid whose checks passed and whose records are appended is DECODED. -/
def State.gridDecoded (s : State) (k : Nat) : State :=
  match mget s.grids k with
  | none => s
  | some g =>
    if g.st != .submitted || g.teams == 0 || s.gridWaits k g || s.held g then s
    else
      let (d, s) := s.newKey
      let s := s.updGrid k fun x => { x with st := .decoded, decoded := d, e0 := (s.ctx x.ctx).energy }
      if g.entry.gang = 0 then s else takeTickets k (s.partOf g.ctx) ((g.teams + g.entry.gang - 1) / g.entry.gang) s

/-- R133: every grid of a context that may be DECODED now. -/
def State.settleGrids (s : State) (c : Nat) : State := (mkeys s.grids fun g => g.ctx == c && g.st == .submitted).foldl State.gridDecoded s

/-- Adds a grid: its key. -/
def State.addGrid (s : State) (g : Grid) : Nat × State :=
  let (k, s) := s.newKey
  (k, { s with grids := mset s.grids k g })

/-! ## Child grids (R137) -/

/-- The root of a grid. -/
def State.rootOf (s : State) : Nat → Nat → Nat
  | 0, g => g
  | n + 1, g => match (mget s.grids g).bind (·.parent) with
    | some p => s.rootOf n p
    | none => g

/-- Waves of a grid's parent team may go on (R140, R148). -/
def State.wakeParent (s : State) (g : Grid) : State :=
  match g.origin with
  | .child t => s.settleTeam t
  | _ => s

/-- R133, R137: a child that fails its decode: one EVENT record; it counts as retired; the root packet will fail. -/
def State.childFail (s : State) (k : Nat) : State :=
  match mget s.grids k with
  | none => s
  | some g =>
    let s := (s.event g.ctx 0xA2 { launch := g.launch }).launchLost g.ctx
    let s := s.updGrid (s.rootOf 17 k) fun x => { x with childFault := true }
    ({ s with grids := mdel s.grids k }).wakeParent g

/-- CHILD_GRID_DECODE (R137). -/
def execChildGridDecode (k : Nat) (s : State) : Out :=
  .next (match mget s.grids k with
    | none => s
    | some g => match g.origin with
      | .child _ =>
        if g.st != .submitted || g.teams != 0 || s.awaits (.grid k) || (s.ctx g.ctx).st != .active then s
        else
          let prio := ((mget s.grids (g.parent.getD 0)).getD default).prio
          match s.checkLaunch g.ctx g.desc g.args g.arglen 0x0018 prio with
          | .later => s
          | .wait f acc _ _ => s.cpWait g.ctx f acc (.grid k)
          | .gone pa => (s.frameLost g.ctx pa).tick
          | .bad code d => (((s.keepImage g.ctx (Chk.bad (α := Launch) code d) (s.launchImage g.ctx g.desc g.args g.arglen 0x0018)).childFail k)).tick
          | .ok l =>
            let (id, s) := s.register g.ctx l.obj l.new (.grid k)
            let s := s.updGrid k fun _ => { l.grid with codeId := id, origin := g.origin, parent := g.parent, launch := g.launch, depth := g.depth }
            (s.gridDecoded k).tick
      | _ => s)

/-! ## Retirement of a grid (R133, R87) -/

/-- R133: the last team and the last descendant have retired. -/
def State.gridOver (s : State) (k : Nat) (g : Grid) : Bool :=
  (g.st == .running || g.st == .draining) && decide (g.teams ≤ g.retiredTeams) && !s.kidsOf k

/-- A status that fails a packet (R137, R106): the first stays. -/
def State.pktBad (s : State) (q i code detail : Nat) : State :=
  s.updQueue q fun x => { x with pkts := mupd x.pkts i fun p => { p with bad := some (p.bad.getD (code, detail)) } }
/-- The work of a packet is done, with the cause it failed with if there is one. -/
def State.pktEnd (s : State) (q i : Nat) : State :=
  match (mget (s.queue q).pkts i).bind (·.bad) with
  | some x => s.pktDone q i x.1 x.2
  | none => s.pktDone q i 0 0

/-- R133: a grid is RETIRED, and what it completes; what its context spent since it was decoded gives the average per team of its entry
(R442, log 34). -/
def State.gridRetired (s : State) (k : Nat) (fail : Option Nat) : State :=
  let g := (mget s.grids k).getD default
  let s := s.updCtx g.ctx fun x => { x with avgEst := mset x.avgEst (256 * g.code + g.entryIx) ((x.energy - g.e0) / max 1 g.teams) }
  let fail := if g.childFault then some (fail.getD 0xA2) else fail
  match g.origin with
  | .child _ => ({ s with grids := mdel s.grids k }).wakeParent g
  | .packet q i =>
    let s := match fail with
      | some c => s.pktBad q i 7 c
      | none => s
    ({ s with grids := mdel s.grids k }).pktEnd q i
  | .node q i _ =>
    let s := match fail with
      | some c => s.pktBad q i 7 c
      | none => s
    s.updGrid k fun x => { x with st := .retired }

/-- What waits on the RESULT records of a grid (R87). -/
def Origin.waiter : Origin → Waiter
  | .packet q i => .packet q i
  | .node q i n => .node q i n
  | .child _ => .none
/-- The queue of an origin. -/
def Origin.queue : Origin → Nat
  | .packet q _ => q
  | .node q _ _ => q
  | .child _ => 0

/-- GRID_RETIRE (R133): RESULT records of its marks, then the packet or node completes. -/
def execGridRetire (k : Nat) (s : State) : Out :=
  .next (match mget s.grids k with
    | none => s
    | some g =>
      if !s.gridOver k g || s.awaits (.grid k) then s
      else
        let marks := match (s.ctx g.ctx).objs.find? fun o => o.addr == g.code with
          | some o => (o.entryMarks g.entry).filter (·.result)
          | none => []
        match s.readMarks g.ctx g.args g.arglen (if g.mResult then marks else []) with
        | .later => s
        | .wait f acc _ _ => s.cpWait g.ctx f acc (.grid k)
        | .gone pa => s.frameLost g.ctx pa
        | .bad _ _ => s.gridRetired k (some 0xA1)
        | .ok bs => (bs.foldl (fun s b => s.recordBuf g.ctx 4 g.launch g.origin.queue g.origin.waiter b) s).gridRetired k none)

end Sys2Proof.Machine
end

