-- ==== Sys2Proof/Machine/Packet.lean ====
section
/-! DEFINITION. Queue slots (R112, R113), the decode and completion of packets (R104 to R108), receipts (R95 to R100), and the
packets other than GRAPH and FLOW. -/
namespace Sys2Proof.Machine

/-! ## Slots (R112, R113) -/

/-- R102: the effective priority of a queue. -/
def State.qprio (s : State) (q : Queue) : Nat := min q.prio (s.ctx q.ctx).desc.prio
/-- R113: the runnable queue that is mapped next: the highest priority, then the one mapped longest ago, then the lowest id. -/
def State.nextQueue (s : State) : Option Nat :=
  (leastBy (fun q => ((3 - s.qprio q.2) * 2 ^ 80 + q.2.mappedAt) * 4096 + q.1) (s.queues.filter fun q => q.2.st == .runnableUnmapped)).map (·.1)
/-- The lowest free hardware slot. -/
def State.freeHwSlot (s : State) : Option Nat := (List.range 256).find? fun n => !s.queues.any fun q => q.2.slot == some n

/-- QUEUE_SLOT_GRANT (R112, R113). -/
def execQueueSlotGrant (q : Nat) (s : State) : Out :=
  .next (match s.freeHwSlot with
    | none => s
    | some n => if s.pilots && s.nextQueue == some q then ((s.unlatch q).updQueue q fun x => { x with st := .mapping, slot := some n }).tick else s)

/-- QUEUE_MAPPING_DONE (R112, R77): the load reads WRITE; the first mapped queue makes its context ACTIVE. -/
def execQueueMappingDone (q : Nat) (s : State) : Out :=
  .next (match mget s.queues q with
    | none => s
    | some x =>
      if x.st != .mapping || s.awaits (.queue q) || !s.pilots then s
      else match s.ctlFault q with
        | some f => s.queueFault q f
        | none =>
          let w := s.svnum x.ctx x.ctl 8
          let s := s.updQueue q fun y => { y with write := w, mappedAt := s.now, idleAt := s.now, st := if y.decode < w then .mappedActive else .mappedIdle }
          let s := s.updCtx x.ctx fun c => if c.st == .created then { c with st := .active } else c
          (s.settleQueue q).tick)

/-- QUEUE_UNMAP (R112): the slice expired, or idle for 100 µs, and a queue of no lower priority waits. -/
def execQueueUnmap (q : Nat) (s : State) : Out :=
  .next (match mget s.queues q with
    | none => s
    | some x =>
      let spent := x.mappedAt + 1000000 ≤ s.now || (x.st == .mappedIdle && x.idleAt + 100000 ≤ s.now)
      let waited := s.queues.any fun y => y.2.st == .runnableUnmapped && decide (s.qprio x ≤ s.qprio y.2)
      if (x.st == .mappedIdle || x.st == .mappedActive) && spent && waited && s.pilots && !(x.pkts.any fun p => p.2.opening) then
        (s.updQueue q fun y => { y with st := .unmapping, unmapTo := .unmapped }).tick
      else s)

/-- R112: where an unmapped queue stands. -/
def State.unmapped (s : State) (q : Nat) : QState :=
  if s.host.latch.contains q || decide ((s.queue q).decode < (s.queue q).write) then .runnableUnmapped else .idleUnmapped

/-- QUEUE_UNMAP_DONE (R112). -/
def execQueueUnmapDone (q : Nat) (s : State) : Out :=
  .next (match mget s.queues q with
    | none => s
    | some x =>
      if x.st != .unmapping || !s.pilots then s
      else (s.updQueue q fun y => { y with slot := none, st := match x.unmapTo with
        | .unmapped => s.unmapped q
        | .suspended => .suspended
        | .destroyed => .destroyed }).tick)

/-! ## Packets (R104, R105) -/

/-- R104, R87: the common part's checks in ascending bit, as condition and byte offset. -/
def Pkt.commonChecks (p : Pkt) : List (Bool × Nat) :=
  let h := p.word 0
  let m := [1, 2, 3, 7, 8].contains p.kind
  [(bits h 10 8 != 7, 1), (bits h 13 11 != 7, 1), (m || !bitAt h 15, 1), (m || bits h 18 16 == 0, 2), (bits h 31 22 == 0, 2),
   (p.word 8 % 8 == 0, 8)]

/-- The words of the body from an offset that are reserved. -/
def Pkt.zeros (p : Pkt) (offs : List Nat) : List (Bool × Nat) := offs.map fun o => (p.word o == 0, o)

/-- R105: the checks of the body. -/
def Pkt.bodyChecks (p : Pkt) : List (Bool × Nat) :=
  let hi (o : Nat) : Bool × Nat := (p.word o / 2 ^ 32 == 0, o + 4)
  match p.kind with
  | 0x01 => [hi 0x28] ++ p.zeros [0x30, 0x38]
  | 0x02 => [(p.word 0x18 % 64 == 0, 0x18), (decide (1 ≤ p.word 0x20 % 65536) && decide (p.word 0x20 % 65536 ≤ 4096), 0x20),
             (p.word 0x20 / 65536 == 0, 0x22), hi 0x30] ++ p.zeros [0x38]
  | 0x03 => [(p.word 0x38 % 4 != 0 || p.word 0x18 % 64 == 0, 0x18), hi 0x20, hi 0x30, (p.word 0x38 % 4 != 3 && p.word 0x38 / 4 == 0, 0x38)]
  | 0x04 => [(p.word 0x30 / 2 == 0, 0x30)] ++ p.zeros [0x38]
  | 0x06 => [(p.word 0x18 % 8 == 0, 0x18), (decide (p.word 0x30 ≤ 5), 0x30)] ++ p.zeros [0x38]
  | 0x07 => [(p.word 0x18 / 256 == 0, 0x19)] ++ p.zeros [0x20, 0x28, 0x30, 0x38]
  | 0x08 => [(p.word 0x28 / 2 == 0, 0x28)] ++ p.zeros [0x30, 0x38]
  | 0x09 => [(p.word 0x18 % 4096 == 0, 0x18)]
  | 0x0B => [(p.word 0x18 / 2 ^ 33 == 0, 0x1C)] ++ p.zeros [0x20, 0x28, 0x30, 0x38]
  | 0x0C => p.zeros [0x20, 0x28, 0x30, 0x38]
  | _ => p.zeros [0x18, 0x20, 0x28, 0x30, 0x38]

/-- R105: the detail of a malformed packet. -/
def Pkt.malformed (p : Pkt) : Option Nat :=
  if 0x0D ≤ p.kind then some 0 else ((p.commonChecks ++ p.bodyChecks).find? fun x => !x.1).map (·.2)

/-- R106, R112: whether the queue may decode its next packet, but for the packet's own BARRIER. -/
def Queue.mayDecode (q : Queue) : Bool := q.st == .mappedActive && decide (q.decode < q.write) && !q.heldBack

/-- The slot of packet i. -/
def Queue.slotAt (q : Queue) (i : Nat) : Nat := q.ring + 64 * (i % 2 ^ q.logSize)

/-- R105: changes a packet of a queue. -/
def State.updPkt (s : State) (q i : Nat) (f : Pkt → Pkt) : State := s.updQueue q fun x => { x with pkts := mupd x.pkts i f }
/-- A packet of a queue. -/
def State.pkt (s : State) (q i : Nat) : Pkt := (mget (s.queue q).pkts i).getD default

/-- R106: the copy of a packet's 64 bytes. -/
def Pkt.ofBytes (bs : List Byte) : Pkt :=
  { words := (List.range 8).map fun k => field bs (8 * k) 8, opening := true, launch := 0, nodes := [], done := none, bad := none,
    deadline := none, onFail := (7, 0), stage := 0, lost := none }

/-- R106: the decode of the next packet of a queue, when it is one of `kinds`: the acquire, the copy, DECODE, the checks; then
`run` acts. A packet whose decode waited is taken up again. -/
def decodePacket (kinds : Pkt → Bool) (run : Nat → Pkt → State → State) (q : Nat) (s : State) : State :=
  match mget s.queues q with
  | none => s
  | some x => if !s.pilots then s else
    match x.pkts.find? fun p => p.2.opening with
    | some (i, p) =>
      if kinds p && !s.awaits (.pkt q i) && (s.ctx x.ctx).st == .active then
        let s' := run i p s
        if (s'.pkt q i).opening && !s'.awaits (.pkt q i) then s else s'.tick
      else s
    | none =>
      if !x.mayDecode || s.awaits (.queue q) then s
      else
        let at_ := x.slotAt x.decode
        match ((s.rangeFault x.ctx at_ 64 0).map fun f => (f, 0)).orElse fun _ => s.ctlFault q with
        | some f => s.queueFault q f
        | none =>
          let i := x.decode
          let p := Pkt.ofBytes (s.svbytes x.ctx at_ 64)
          if !kinds p || (bitAt (p.word 0) 14 && decide (x.retire < i)) then s
          else
            let s := s.updQueue q fun y => { y with decode := i + 1, pkts := mset y.pkts i p }
            let s := s.svwrite x.ctx (x.ctl + 8) (leBytes 8 (i + 1))
            let s := match p.malformed with
              | some d => s.pktDone q i 8 d
              | none => run i p s
            (s.settleQueue q).tick

/-- A packet of a kind that is done at decode. -/
def instantPacket (kind : Nat) (q : Nat) (s : State) : Out := .next (decodePacket (·.kind == kind) (fun i _ s => s.pktDone q i 0 0) q s)
/-- The end of a check of a packet: it waits, completes with a status, or goes on. -/
def State.settleChk {α : Type} (s : State) (c q i : Nat) (x : Chk α) (k : α → State) : State :=
  match x with
  | .ok a => k a
  | .wait f acc code d => (s.updPkt q i fun p => { p with onFail := (code, d) }).cpWait c f acc (.pkt q i)
  | .bad code d => s.pktDone q i code d
  | .gone pa => s.frameLost c pa
  | .later => s

/-- RESERVED_KIND_PACKET (R105). -/
def execReservedKindPacket (q : Nat) (s : State) : Out := .next (decodePacket (fun p => decide (0x0D ≤ p.kind)) (fun _ _ s => s) q s)
/-- NOP_PACKET (R105). -/
def execNopPacket (q : Nat) (s : State) : Out := instantPacket 0x00 q s
/-- SIGNAL_PACKET (R105). -/
def execSignalPacket (q : Nat) (s : State) : Out := instantPacket 0x05 q s

/-- The packet goes on beyond its decode. -/
def State.opened (s : State) (q i : Nat) : State := s.updPkt q i fun p => { p with opening := false }
/-- FENCE_PACKET (R105): it completes with PACKET_COMPLETE when every earlier packet has. -/
def execFencePacket (q : Nat) (s : State) : Out := .next (decodePacket (·.kind == 0x0A) (fun i _ s => s.opened q i) q s)
/-- COPY_PACKET (R105): the Lighter's work is done with PACKET_COMPLETE. -/
def execCopyPacket (q : Nat) (s : State) : Out := .next (decodePacket (·.kind == 0x04) (fun i _ s => s.opened q i) q s)

/-- R105, R329: the bytes a COPY writes; those it reads in a next copy are undefined. -/
def copyBytes (s : State) (ag c src n free : Nat) (fill : Bool) : List Byte :=
  if fill then (List.range n).map fun i => BitVec.ofNat 8 (src / 256 ^ (i % 8))
  else s.readAs ag c 0 32 src n free
/-- R128, R329: what a COPY must not write: a loaded image, a copy of a region; its accesses are those of a Lighter. -/
def State.copyChk (s : State) (ag c src dst n : Nat) (fill : Bool) : Chk Unit :=
  (need (decide (dst + n ≤ 2 ^ 57)) 0x20).bind fun _ => (need (fill || decide (src + n ≤ 2 ^ 57)) 0x18).bind fun _ =>
  (if (s.ctx c).inCode dst n then Chk.bad 7 0x42 else if (s.ctx c).inPlane dst n then Chk.bad 7 0x74 else Chk.ok ()).bind fun _ =>
  (if fill then Chk.ok () else s.reach c src n 0 workFault ag).bind fun _ => s.reach c dst n 1 workFault ag

/-- R281: the island of the Lighter that a COPY's faults name: that of a cluster of the partition, which one is open (log 131). -/
def State.lighter (s : State) (c : Nat) : Nat :=
  let cs := (List.range 64).filter (s.dev.clusterIn (s.partOf c))
  cs.getD (Config.copyLighter s.ctr % max cs.length 1) 0
/-- R278: that Lighter's cluster TLB translates for it. -/
def State.lighterAg (s : State) (c : Nat) : Nat := 256 + s.lighter c
/-- R279, R281: the end of a check of a COPY packet's or node's accesses: a fault that waits is its Lighter's. -/
def State.lighterChk {α : Type} (s : State) (c : Nat) (a : FaultAgent) (x : Chk α) (k : State → State) : State :=
  match x with
  | .wait f acc _ _ => (s.raiseFault c f acc 0xFF (s.lighter c) a).2
  | _ => k s
/-- R105: the copy. -/
def State.doCopy (s : State) (ag c src dst n : Nat) (fill : Bool) : State :=
  let (b, s) := s.fresh n
  s.writeAs ag c 0 32 dst (copyBytes s ag c src n b fill)

/-- LAUNCH_PACKET (R105, R133): a grid of a packet. -/
def State.launchPacket (s : State) (q i : Nat) (p : Pkt) : State :=
  let c := (s.queue q).ctx
  let args := p.word 0x20
  let len := p.word 0x28 % 2 ^ 32
  let m := s.mflags c (p.word 0)
  let chk := (s.checkLaunch c (p.word 0x18) args len 0x0018 3).bind fun l =>
    (s.checkMarks c args len m (l.obj.entryMarks l.grid.entry)).bind fun ins => .ok (l, ins)
  (s.keepImage c chk (s.launchImage c (p.word 0x18) args len 0x0018)).settleChk c q i chk fun (l, ins) =>
    let id := (s.ctx c).nextLaunch
    let s := s.updCtx c fun x => { x with nextLaunch := id + 1 }
    let k := s.key
    let (code, s) := { s with key := k + 1 }.register c l.obj l.new (.grid k)
    let s := { s with grids := mset s.grids k { l.grid with origin := .packet q i, launch := id, codeId := code, mResult := m.result } }
    let s := s.recordDecode c id q code args len m ins (.grid k)
    (s.updPkt q i fun p => { p with opening := false, launch := id }).gridDecoded k
/-- LAUNCH_PACKET (R105, R133). -/
def execLaunchPacket (q : Nat) (s : State) : Out := .next (decodePacket (·.kind == 0x01) (fun i p s => s.launchPacket q i p) q s)

/-! ## WAIT (R108) -/

/-- R105: the condition of a WAIT. -/
def waitCond (cond x y : Nat) : Bool :=
  match cond with
  | 0 => x == y
  | 1 => x != y
  | 2 => decide (y ≤ x)
  | 3 => decide (x < y)
  | 4 => decide (sx 64 y ≤ sx 64 x)
  | _ => decide (sx 64 x < sx 64 y)
/-- R108: a WAIT reads its signal. -/
def State.waitRead (s : State) (q i : Nat) (p : Pkt) : State :=
  let c := (s.queue q).ctx
  s.settleChk c q i (s.reach c (p.word 0x18) 8 0 workFault) fun _ =>
    if waitCond (p.word 0x30) (s.svnum c (p.word 0x18) 8) (p.word 0x20) then s.pktDone q i 0 0 else s
/-- WAIT_PACKET (R108): the first read. -/
def execWaitPacket (q : Nat) (s : State) : Out :=
  .next (decodePacket (·.kind == 0x06) (fun i p s =>
    let t := p.word 0x28
    (s.updPkt q i fun p => { p with opening := false, deadline := if t = 0 then none else some (s.now + t) }).waitRead q i p) q s)
/-- R110, R112, R108: a pilot takes a wake: the queue's state changes as its latch bit makes it, and a WAIT that holds it reads again. -/
def State.takeWake (s : State) (q : Nat) : State :=
  let s := (s.settleQueue q).tick
  match (s.queue q).waiting with
  | some (i, p) => if s.awaits (.pkt q i) then s else s.waitRead q i p
  | none => s
/-- WAIT_REREAD (R108). -/
def execWaitReread (q : Nat) (s : State) : Out :=
  .next (match (s.queue q).waiting with
    | none => s
    | some (i, p) => if s.awaits (.pkt q i) then s else (s.waitRead q i p).tick)
/-- WAIT_TIMEOUT (R108): completes without an acquire; a read that waits on a fault is given up. -/
def execWaitTimeout (q : Nat) (s : State) : Out :=
  .next (match (s.queue q).waiting with
    | none => s
    | some (i, p) => match p.deadline with
      | some t => if t ≤ s.now then ((s.giveUp (.pkt q i)).pktDone q i 2 0).tick else s
      | none => s)

/-! ## PSTEP (R318, R328) -/

/-- R318, R324: the region of a reference by the command processor, declared when it is not yet. -/
def State.needRegion (s : State) (c g : Nat) : Chk State :=
  if s.awayFrom c then .bad 7 0x73
  else if (mget (s.ctx c).regions g).isSome then .ok s
  else if (s.ctx c).desc.planecnt ≤ g then .bad 7 0x72
  else match s.declareFault c g with
    | some (f, acc) =>
      if resolvable f.kind then .wait f acc 7 f.cause
      else match s.goneFrame c f with
        | some pa => .gone pa
        | none => .bad 7 f.cause
    | none => match s.declare c g with
      | none => .bad 7 0x72
      | some r => .ok (s.addRegion c g r)
/-- R328: the step of a global region, with its PLANE record when measured. -/
def State.stepRegion (s : State) (c g : Nat) (measure : Bool) (wt : Waiter) : Chk State :=
  (s.needRegion c g).bind fun s =>
    let r := (mget (s.ctx c).regions g).getD default
    (s.reach c r.present r.decl.bytes 2 workFault).bind fun _ => (s.reach c r.next r.decl.bytes 2 workFault).bind fun _ =>
      let s := s.stepGlobal c g
      let r := (mget (s.ctx c).regions g).getD default
      if !measure || !(s.ctx c).desc.meas then .ok s
      else
        let s := s.record1 c { type := 6, subject := g, addr := r.present, len := r.decl.bytes, aux := r.steps.toNat,
                               digest := treeHash (s.vread c r.present r.decl.bytes), waiter := wt }
        .ok (if r.ovf || r.inv then s.summary c 20 else s)
/-- PSTEP_PACKET (R328). -/
def execPstepPacket (q : Nat) (s : State) : Out :=
  .next (decodePacket (·.kind == 0x07) (fun i p s =>
    let c := (s.queue q).ctx
    s.settleChk c q i (s.stepRegion c (p.word 0x18) (bitAt (p.word 0) 18) (.packet q i)) fun s => s.pktDone q i 0 0) q s)

/-! ## MEASURE (R87) -/

/-- R87, R88: a buffer that may be measured. -/
def State.measChk (s : State) (c a n detail : Nat) : Chk Unit :=
  (need (decide (a + n ≤ 2 ^ 57)) detail).bind fun _ => (s.reach c a n 0 workFault).bind fun _ => need (s.inDevice c a n) detail
/-- MEASURE_PACKET (R87). -/
def execMeasurePacket (q : Nat) (s : State) : Out :=
  .next (decodePacket (·.kind == 0x08) (fun i p s =>
    let c := (s.queue q).ctx
    if !(s.ctx c).desc.meas then s.pktDone q i 5 0
    else s.settleChk c q i (s.measChk c (p.word 0x18) (p.word 0x20) 0x18) fun _ =>
      (s.recordBuf c (if p.word 0x28 = 1 then 4 else 3) 0 q (.packet q i) (p.word 0x18, p.word 0x20)).pktDone q i 0 0) q s)

/-! ## RECEIPT (R95 to R100) -/

/-- ALIAS_GENERATION_CREATE (R99): prepared in the background when fewer than 2^24 leaves are left. -/
def execAliasGenerationCreate (s : State) : Out :=
  .next (
    let k := s.keys
    if k.spare.isNone && !k.owed && decide (2 ^ 40 < k.leaf + 2 ^ 24) then
      match k.create with
      | (some g, k) => { s with keys := { k with spare := some g } }
      | (none, k) => { s with keys := k }
    else s)

/-- R96: the 256 bytes of a receipt's body. -/
def State.receiptBody (s : State) (c seq gen : Nat) (nonce : List Byte) : List Byte :=
  let x := s.ctx c
  let d := x.desc
  leBytes 4 1 ++ leBytes 4 (bn d.pairctx) ++ identityKeyId ++ digestBytes s.keys.fwDigest ++
    leBytes 2 c ++ leBytes 1 d.part ++ leBytes 1 (s.dev.mask d.part).toNat ++ leBytes 4 s.keys.bootCount ++ leBytes 8 seq ++
    nonce ++ leBytes 32 d.nonce.toNat ++ digestBytes x.chain ++ leBytes 8 x.count ++ leBytes 8 x.summary.toNat ++ leBytes 8 s.now ++
    leBytes 4 gen ++ leBytes 4 0 ++ leBytes 8 x.serial ++ List.replicate 16 0

/-- R95, R96, R98: issues a receipt at a virtual address, when the key store gives a leaf: whether it does, and the state after. -/
def State.receipt (s : State) (c dest : Nat) (nonce : List Byte) : Bool × State :=
  match s.keys.takeLeaf with
  | (none, k) => (false, { s with keys := k })
  | (some leaf, k) =>
    let s := { s with keys := k }
    let seq := (s.ctx c).receipts + 1
    let body := s.receiptBody c seq k.gen nonce
    let bs := body ++ signEcdsa k.gen body ++ (aliasHss k.gen).sign leaf body ++ List.replicate 140 0
    (true, (s.updCtx c fun x => { x with receipts := seq }).svwrite c dest bs)

/-- RECEIPT_PACKET (R95). -/
def execReceiptPacket (q : Nat) (s : State) : Out :=
  .next (decodePacket (·.kind == 0x09) (fun i p s =>
    let c := (s.queue q).ctx
    if !(s.ctx c).desc.rcpt then s.pktDone q i 3 0
    else s.settleChk c q i (s.reach c (p.word 0x18) 4096 1 workFault) fun _ =>
      match s.receipt c (p.word 0x18) ((List.range 4).flatMap fun j => leBytes 8 (p.word (0x20 + 8 * j))) with
      | (false, s) => s.pktDone q i 4 0
      | (true, s) => s.pktDone q i 0 0) q s)

/-! ## ENERGY and MARKER (R13, R14, R105, R442) -/

/-- A value clamped to limits. -/
def clampNat (lo hi x : Nat) : Nat := max lo (min hi x)
/-- R13, R14: sets the package budget: the value in force and whether it was clamped. -/
def State.setBudget (s : State) (mw : Nat) : Bool × State :=
  let (lo, hi) := if s.dev.pairCard then (400000, 800000) else (600000, 1500000)
  let v := clampNat lo hi mw
  (v != mw, { s with energy := { s.energy with budget := v, peerBudget := if s.dev.pairCard then min s.energy.peerBudget (1200000 - v) else s.energy.peerBudget } })
/-- An ENERGY packet of a target. -/
def energyPacket (target : Pkt → Bool) (act : Nat → Nat → Pkt → State → State) (q : Nat) (s : State) : Out :=
  .next (decodePacket (fun p => p.kind == 0x0B && target p) (fun i p s =>
    if !(s.queue q).priv then s.pktDone q i 5 0 else act q i p s) q s)
/-- ENERGY_BUDGET (R13): target 0 (and the malformed targets 2 and 3). -/
def execEnergyBudget (q : Nat) (s : State) : Out :=
  energyPacket (fun p => p.word 0x18 / 2 ^ 32 % 4 != 1) (fun q i p s =>
    let (c, s) := s.setBudget (p.word 0x18 % 2 ^ 32)
    s.pktDone q i (bn c) 0) q s
/-- ENERGY_ALLOWANCE (R442): target 1. -/
def execEnergyAllowance (q : Nat) (s : State) : Out :=
  energyPacket (fun p => p.word 0x18 / 2 ^ 32 % 4 == 1) (fun q i p s =>
    (s.updCtx (s.queue q).ctx fun x => { x with desc := { x.desc with allow := p.word 0x18 % 2 ^ 32 } }).pktDone q i 0 0) q s
/-- MARKER_PACKET (R105). -/
def execMarkerPacket (q : Nat) (s : State) : Out :=
  .next (decodePacket (·.kind == 0x0C) (fun i p s =>
    let x := s.queue q
    s.settleChk x.ctx q i (s.reach x.ctx (x.ctl + 0x18) 8 1 workFault) fun _ =>
      (s.svwrite x.ctx (x.ctl + 0x18) (leBytes 8 (p.word 0x18))).pktDone q i 0 0) q s)

/-! ## Completion (R106, R107, R112) -/

/-- Retires what can be: RETIRE past the completed packets (at most `fuel`). -/
def Queue.advance : Nat → Queue → Queue
  | 0, q => q
  | n + 1, q => if q.doneIdx.contains q.retire then Queue.advance n { q with retire := q.retire + 1, doneIdx := q.doneIdx.filter (· != q.retire) } else q

/-- R106: the completion signal's address and operation; none without one. -/
def Pkt.signal (p : Pkt) : Option (Nat × Nat) :=
  let op := bits (p.word 0) 20 19
  if op = 0 || p.word 8 = 0 then none else some (p.word 8, op)
/-- R106: a signal operation: 1 store, 2 add, 3 subtract. -/
def signalOp (op old v : Nat) : Nat := if op = 1 then v else if op = 2 then old + v else old + 2 ^ 64 - v % 2 ^ 64
/-- R275: the access of a signal operation: a store, or a read-modify-write. -/
def signalAcc (op : Nat) : Access := if op = 1 then 1 else 2
/-- A 64-bit signal word is updated. -/
def State.putSignal (s : State) (c va op v : Nat) : State :=
  let (b, s) := s.fresh 8
  s.svwrite c va (leBytes 8 (signalOp op (leNat (s.svread c va 8 b)) v))

/-- R106: the fault of the write of a completion that comes next: STATUS, the signal, RETIRE. -/
def State.completionFault (s : State) (q i : Nat) (p : Pkt) : Option (TFault × Access) :=
  let x := s.queue q
  let at_ (va n : Nat) (acc : Access) : Option (TFault × Access) := (s.agentFault x.ctx va n acc).map fun f => (f, acc)
  match p.stage with
  | 0 => at_ (x.slotAt i + 4) 4 1
  | 1 => p.signal.bind fun g => at_ g.1 8 (signalAcc g.2)
  | _ => at_ (x.ctl + 0x10) 8 1

/-- R108: the queues of a context whose WAIT waits on a signal. -/
def State.waitersOn (s : State) (c va : Nat) : List Nat :=
  mkeys s.queues fun q => q.ctx == c && (match q.waiting with
    | some (_, p) => p.word 0x18 == va
    | none => false)
/-- R106, R108: the write of a completion that comes next; the signal makes every WAIT on it read again. RETIRE is written when the packet
leaves (`finishPkt`). -/
def State.completionWrite (s : State) (q i code detail : Nat) (p : Pkt) : State :=
  let x := s.queue q
  match p.stage with
  | 0 => s.svwrite x.ctx (x.slotAt i + 4) (leBytes 4 (statusWord code detail))
  | 1 => match p.signal with
    | some (a, op) => (s.waitersOn x.ctx a).foldl (fun s q => s.postReread 1 q) (s.putSignal x.ctx a op (p.word 0x10))
    | none => s
  | _ => s
/-- R106: a write of a completion is behind the packet, made or not (`lost` is then the cause); the interrupt follows the signal. -/
def State.passStage (s : State) (q i : Nat) (lost : Option Nat) : State :=
  let x := s.queue q
  let p := s.pkt q i
  let s := s.updPkt q i fun p => { p with stage := p.stage + 1, lost := p.lost.orElse fun _ => lost }
  if p.stage = 1 && bitAt (p.word 0) 21 then s.irq x.irqMsg else s

/-- R106, R107, R112: a completed packet leaves: RETIRE advances; a failed packet, or a write that was not made, leaves its EVENT and sends
the queue to FAULTED. A packet that completes because its context went to FAULTED leaves no event of its own; one that failed before does,
and its status goes to the control block. -/
def State.finishPkt (s : State) (q i code detail : Nat) : State :=
  let x := s.queue q
  let p := s.pkt q i
  let s := s.updQueue q fun y => { y with pkts := mdel y.pkts i, doneIdx := y.doneIdx ++ [i] }.advance (y.doneIdx.length + 1)
  let s := if (s.agentFault x.ctx (x.ctl + 0x10) 8 1).isNone then s.svwrite x.ctx (x.ctl + 0x10) (leBytes 8 (s.queue q).retire) else s
  let bad := !p.ctxDown && (code = 7 || code = 8)
  let s := if bad then (s.statusEvent x.ctx code detail i p.launch).loseQueue q code detail i else s
  let s := if bad && p.kind = 1 then s.launchLost x.ctx else s
  let s := match p.lost with
    | some k =>
      let s := s.statusEvent x.ctx 7 k i p.launch
      if bad || (s.ctx x.ctx).st == CtxState.faulted then s else s.loseQueue q 7 k i
    | none => s
  s.settleQueue q

/-- R106: a packet completes: the writes that are left, in order, each as far as it translates; a resolvable fault waits for the host. -/
def completePkt (q i code detail : Nat) : Nat → State → State
  | 0, s => s.finishPkt q i code detail
  | n + 1, s =>
    let p := s.pkt q i
    match s.completionFault q i p with
    | some (f, acc) =>
      if resolvable f.kind then s.cpWait (s.queue q).ctx f acc (.pkt q i)
      else completePkt q i code detail n ((s.reached (s.queue q).ctx f).passStage q i (some f.cause))
    | none => completePkt q i code detail n ((s.completionWrite q i code detail p).passStage q i none)

/-- R87: a record that a packet's completion waits for is not appended yet. -/
def State.pktWaits (s : State) (q i : Nat) : Bool := (s.ctx (s.queue q).ctx).appends.any fun r => r.waiter == .packet q i

end Sys2Proof.Machine
end

