-- ==== Sys2Proof/Machine/Graph.lean ====
section
/-! DEFINITION. Launch graphs: the GRAPH packet and its nodes (R141 to R144). -/
namespace Sys2Proof.Machine

/-- R141: a node of a launch-graph table. -/
def nodeOf (b : List Byte) : Node :=
  let h := field b 0 8
  { kind := h % 256, nsucc := bits h 12 8, ntrue := bits h 20 16, preds := bits h 47 32,
    body := [field b 8 8, field b 16 8, field b 24 8], succ := (List.range (bits h 12 8)).map fun j => field b (0x20 + 2 * j) 2,
    counter := bits h 47 32, run := false, st := 0, grid := none }

/-- A word of a node's body: 0x08, 0x10, 0x18. -/
def Node.w (n : Node) (k : Nat) : Nat := n.body.getD k 0

/-- R5, R141, R142: the fields of a node: KIND, reserved fields and alignments. -/
def nodeFields (b : List Byte) : Bool :=
  let h := field b 0 8
  let n := nodeOf b
  let body : Bool := match n.kind with
    | 0 => n.w 0 == 0 && n.w 1 == 0 && n.w 2 == 0
    | 1 => n.w 2 / 2 ^ 32 == 0
    | 2 => bits (n.w 2) 62 48 == 0
    | 3 => n.w 0 / 2 ^ 9 == 0 && n.w 1 == 0 && n.w 2 == 0
    | 4 => n.w 2 / 2 == 0
    | 5 => n.w 0 % 8 == 0 && bits (n.w 2) 15 6 == 0 && n.w 2 / 2 ^ 28 == 0
    | _ => n.w 0 % 4 == 0 && n.w 1 == 0 && n.w 2 == 0
  decide (n.kind ≤ 6) && bits h 63 48 == 0 && bits h 31 21 == 0 && bits h 15 13 == 0 && decide (n.nsucc ≤ 16) && decide (n.preds ≤ 4095) &&
    ((List.range 16).all fun j => decide (j < n.nsucc) || field b (0x20 + 2 * j) 2 == 0) && body

/-- R142: a SIGNAL node's operation, scope and queue. -/
def State.signalNodeOk (s : State) (c : Nat) (n : Node) : Bool :=
  let x := n.w 2
  n.kind != 5 || (x % 4 != 0 && bits x 4 2 != 7 && (!bitAt x 5 || (match mget s.queues (bits x 27 16) with
    | some q => q.ctx == c && q.st != .destroyed
    | none => false)))

/-- The edges of a graph: from, to. -/
def edges (ns : List Node) : List (Nat × Nat) := (List.range ns.length).flatMap fun i => (ns.getD i default).succ.map fun j => (i, j)

/-- R142: the nodes that remain when nodes without an edge from a remaining node are removed, `fuel` times. -/
def peel (es : List (Nat × Nat)) : Nat → List Nat → List Nat
  | 0, l => l
  | k + 1, l => peel es k (l.filter fun n => es.any fun e => e.2 == n && l.contains e.1)

/-- A condition on every node: the index of the first that fails, in the locator of R132. -/
def needNode (x : Option Nat) : Chk Unit :=
  match x with
  | none => .ok ()
  | some i => .bad 8 (0x4000 + i)

/-- R142: the checks of the nodes, but for the launches. -/
def State.graphChk (s : State) (c : Nat) (bs : List (List Byte)) : Chk (List Node) :=
  let ns := bs.map nodeOf
  let es := edges ns
  (needNode (failing nodeFields bs)).bind fun _ =>
  (needNode (failing (s.signalNodeOk c) ns)).bind fun _ =>
  (needNode (failing (fun n => if n.kind = 6 then decide (n.ntrue ≤ n.nsucc) else n.ntrue == 0) ns)).bind fun _ =>
  (needNode (failing (fun n => n.succ.all fun j => decide (j < ns.length)) ns)).bind fun _ =>
  (needNode (failing (fun n => (dedup n.succ).length == n.succ.length) ns)).bind fun _ =>
  (needNode ((List.range ns.length).find? fun i => (es.filter fun e => e.2 == i).length != (ns.getD i default).preds)).bind fun _ =>
  (needNode (peel es ns.length (List.range ns.length)).head?).bind fun _ =>
  .ok ns

/-- R132: a failure of a node's launch is the node's. -/
def atNode {α : Type} (i : Nat) (x : Chk α) : Chk α :=
  match x with
  | .bad 8 _ => .bad 8 (0x4000 + i)
  | .wait f acc 8 _ => .wait f acc 8 (0x4000 + i)
  | y => y

/-- The launches of the KERNEL nodes and the buffers of their input marks, in node order; the packet's argument block is
`args`, `len`. -/
def State.nodeLaunches (s : State) (c args len : Nat) (m : MFlags) : Nat → List Node → Chk (List (Nat × Launch × List (Nat × Nat)))
  | _, [] => .ok []
  | i, n :: t =>
    if n.kind != 1 then s.nodeLaunches c args len m (i + 1) t
    else
      let a := n.w 1
      let al := n.w 2 % 2 ^ 32
      (need (decide (args ≤ n.w 0) && decide (n.w 0 + 64 ≤ args + len) && decide (args ≤ a) && decide (a + al ≤ args + len)) (0x4000 + i)).bind fun _ =>
      (atNode i (s.checkLaunch c (n.w 0) a al 0x0018 3)).bind fun l =>
      (s.checkMarks c a al { m with args := false } (l.obj.entryMarks l.grid.entry)).bind fun ins =>
      (s.nodeLaunches c args len m (i + 1) t).bind fun r => .ok ((i, l, ins) :: r)

/-- R128: the images that the KERNEL nodes name, in node order up to the one that failed its checks, are registered. -/
def keepImages (old : State) (c args len : Nat) : List Node → State → State
  | [], s => s
  | n :: t, s =>
    let a := n.w 1
    let al := n.w 2 % 2 ^ 32
    if n.kind != 1 then keepImages old c args len t s
    else if !(decide (args ≤ n.w 0) && decide (n.w 0 + 64 ≤ args + len) && decide (args ≤ a) && decide (a + al ≤ args + len)) then s
    else match old.checkLaunch c (n.w 0) a al 0x0018 3 with
      | .ok l => keepImages old c args len t (if l.new then (s.register c l.obj true .none).2 else s)
      | x => s.keepImage c x (old.launchImage c (n.w 0) a al 0x0018)
/-- R128: a graph whose decode fails has registered the images of its nodes, unless a measure mark fails (R87). -/
def State.keepGraph {α : Type} (s : State) (c args len : Nat) (x : Chk α) (ns : Chk (List Node)) : State :=
  match x, ns with
  | .bad 8 0x5000, _ => s
  | .bad _ _, .ok ns => keepImages s c args len ns s
  | _, _ => s

/-- R143, R144: a node starts; a CONDITIONAL reads its predicate once, at this instant. -/
def State.startNode (s : State) (q i n : Nat) : State :=
  let set (s : State) (st : Nat) : State := s.updPkt q i fun p => { p with nodes := updAt p.nodes n fun x => { x with st := st } }
  let nd := (s.pkt q i).nodes.getD n default
  let c := (s.queue q).ctx
  match nd.kind, nd.grid with
  | 1, some g => (set s 1).gridDecoded g
  | 6, _ => match s.rangeFault c (nd.w 0) 4 0 with
    | none => set s (if s.svnum c (nd.w 0) 4 != 0 then 5 else 6)
    | some _ => set s 1
  | _, _ => set s 1

/-- R143: edges carry `run` or `skip` to their targets, one after the other. -/
def propagate (q i : Nat) : Nat → List (Nat × Bool) → State → State
  | 0, _, s => s
  | _ + 1, [], s => s
  | k + 1, (t, r) :: rest, s =>
    let s := s.updPkt q i fun p => { p with nodes := updAt p.nodes t fun x => { x with counter := x.counter - 1, run := x.run || r } }
    let nd := (s.pkt q i).nodes.getD t default
    if nd.counter != 0 then propagate q i k rest s
    else if nd.run then propagate q i k rest (s.startNode q i t)
    else
      let s := s.updPkt q i fun p => { p with nodes := updAt p.nodes t fun x => { x with st := 3 } }
      let s := match nd.grid with
        | some g => { s with grids := mdel s.grids g }
        | none => s
      propagate q i k (rest ++ nd.succ.map fun j => (j, false)) s

/-- R143: the packet completes when every node has completed or been skipped. -/
def State.graphEnd (s : State) (q i : Nat) : State :=
  if (s.pkt q i).nodes.all fun n => n.st == 2 || n.st == 3 then s.pktEnd q i else s

/-- R143: a node completes and sends on its edges. -/
def State.nodeDone (s : State) (q i n : Nat) : State :=
  let nd := (s.pkt q i).nodes.getD n default
  let s := s.updPkt q i fun p => { p with nodes := updAt p.nodes n fun x => { x with st := 2 } }
  let es := (List.range nd.succ.length).map fun j => (nd.succ.getD j 0, nd.kind != 6 || (decide (j < nd.ntrue) == (nd.st == 5)))
  (propagate q i 65600 es s).graphEnd q i

/-- R133, R141: the grids of the KERNEL nodes, not yet started, with consecutive launch ids. -/
def addNodeGrids (q i c : Nat) (m : MFlags) (keep : List Nat) : List (Nat × Launch × List (Nat × Nat)) → Nat → State → State
  | [], _, s => s
  | (n, l, _) :: t, id, s =>
    let (code, s) := s.register c l.obj l.new (.packet q i) keep
    let (k, s) := s.addGrid { l.grid with origin := .node q i n, launch := id, codeId := code, mResult := m.result }
    addNodeGrids q i c m keep t (id + 1) (s.updPkt q i fun p => { p with nodes := updAt p.nodes n fun x => { x with grid := some k } })

/-- R129: the table of loaded objects holds the images of a graph, once those no launch uses are unloaded; else decode waits. -/
def State.graphRoom (s : State) (c : Nat) (uses new : List Nat) : Chk Unit :=
  let os := (s.ctx c).objs
  let idle := os.filter fun o => !s.codeInUse c o.addr && !uses.contains o.addr
  if (dedup new).length + os.length ≤ 1024 + idle.length then .ok () else .later

/-- R142: the decode of a GRAPH packet. -/
def State.graphPacket (s : State) (q i : Nat) (p : Pkt) : State :=
  let c := (s.queue q).ctx
  let count := p.word 0x20 % 65536
  let args := p.word 0x28
  let len := p.word 0x30 % 2 ^ 32
  let m := s.mflags c (p.word 0)
  let nodes := (s.getBytes c (p.word 0x18) (64 * count)).bind fun bs => s.graphChk c (items bs 0 64 count)
  let chk := nodes.bind fun ns =>
    (s.nodeLaunches c args len m 0 ns).bind fun ls =>
    let uses := ls.map fun x => x.2.1.obj.addr
    (s.graphRoom c uses ((ls.filter fun x => x.2.1.new).map fun x => x.2.1.obj.addr)).bind fun _ =>
    (if m.args then s.getBytes c args len else Chk.ok []).bind fun _ => .ok (ns, ls)
  (s.keepGraph c args len chk nodes).settleChk c q i chk fun (ns, ls) =>
    let id := (s.ctx c).nextLaunch
    let s := s.updCtx c fun x => { x with nextLaunch := id + 1 + ls.length }
    let s := s.updPkt q i fun p => { p with opening := false, launch := id, nodes := ns }
    let s := addNodeGrids q i c m (ls.map fun x => x.2.1.obj.addr) ls (id + 1) s
    let s := s.recordBuf c 5 id q (.packet q i) (p.word 0x18, 64 * count)
    let s := if m.args then s.recordBuf c 2 id q (.packet q i) (args, len) else s
    let s := (ls.zip (List.range ls.length)).foldl (fun s x =>
      x.1.2.2.foldl (fun s b => s.recordBuf c 3 (id + 1 + x.2) q (.packet q i) b) s) s
    (((List.range ns.length).filter fun n => (ns.getD n default).preds == 0).foldl (fun s n => s.startNode q i n) s)

/-- GRAPH_PACKET (R142). -/
def execGraphPacket (q : Nat) (s : State) : Out := .next (decodePacket (·.kind == 0x02) (fun i p s => s.graphPacket q i p) q s)

/-- A node's own check: it waits for the host, fails with a status (that the packet will complete with), or goes on. -/
def State.nodeChk {α : Type} (s : State) (c q i n : Nat) (x : Chk α) (k : α → State) : State :=
  match x with
  | .ok a => k a
  | .wait f acc _ _ => s.cpWait c f acc (.node q i n)
  | .bad code d => (s.pktBad q i code d).nodeDone q i n
  | .gone pa => s.frameLost c pa
  | .later => s

/-- A record the node waits for has not been appended. -/
def State.nodeWaits (s : State) (q i n : Nat) : Bool := (s.ctx (s.queue q).ctx).appends.any fun r => r.waiter == .node q i n

/-- A node ends when its record, if it appends one, is appended. -/
def State.nodeEnd (s : State) (q i n : Nat) : State :=
  if s.nodeWaits q i n then s.updPkt q i fun p => { p with nodes := updAt p.nodes n fun x => { x with st := 4 } } else s.nodeDone q i n

/-- R141, R143: what a started node does. -/
def State.runNode (s : State) (q i n : Nat) (nd : Node) : State :=
  let c := (s.queue q).ctx
  match nd.kind with
  | 0 => s.nodeDone q i n
  | 1 => match nd.grid.bind (mget s.grids) with
    | none => s.nodeDone q i n
    | some _ => ({ s with grids := mdel s.grids (nd.grid.getD 0) }).nodeDone q i n
  | 2 =>
    let fill := bitAt (nd.w 2) 63
    let k := bits (nd.w 2) 47 0
    let ag := s.lighterAg c
    let chk := s.copyChk ag c (nd.w 0) (nd.w 1) k fill
    s.lighterChk c (.node q i n) chk fun s => s.nodeChk c q i n chk fun _ => (s.doCopy ag c (nd.w 0) (nd.w 1) k fill).nodeDone q i n
  | 3 => s.nodeChk c q i n (s.stepRegion c (nd.w 0 % 256) (bitAt (nd.w 0) 8) (.node q i n)) fun s => s.nodeEnd q i n
  | 4 =>
    if !(s.ctx c).desc.meas then s.nodeDone q i n
    else s.nodeChk c q i n (s.measChk c (nd.w 0) (nd.w 1) 0x18) fun _ =>
      (s.recordBuf c (if nd.w 2 = 1 then 4 else 3) 0 q (.node q i n) (nd.w 0, nd.w 1)).nodeEnd q i n
  | 5 =>
    let op := nd.w 2 % 4
    s.nodeChk c q i n (s.reach c (nd.w 0) 8 (signalAcc op) workFault) fun _ =>
      let s := s.putSignal c (nd.w 0) op (nd.w 1)
      (if bitAt (nd.w 2) 5 then s.wakeQueue (bits (nd.w 2) 27 16) else s).nodeDone q i n
  | _ => s.nodeChk c q i n (s.reach c (nd.w 0) 4 0 workFault) fun _ =>
      let t := if s.svnum c (nd.w 0) 4 != 0 then 5 else 6
      (s.updPkt q i fun p => { p with nodes := updAt p.nodes n fun x => { x with st := t } }).nodeDone q i n

/-- The grid of a started KERNEL node still runs, or its records wait for their append (R87, R143). -/
def State.nodeBusy (s : State) (q i n : Nat) (nd : Node) : Bool :=
  nd.kind == 1 && (match nd.grid.bind (mget s.grids) with
    | none => false
    | some g => g.st != .retired || s.nodeWaits q i n)

/-- GRAPH_NODE_COMPLETE (R143). -/
def execGraphNodeComplete (q i n : Nat) (s : State) : Out :=
  .next (match mget (s.queue q).pkts i with
    | none => s
    | some p => match p.nodes[n]? with
      | none => s
      | some nd =>
        if p.opening || p.done.isSome || s.awaits (.node q i n) || (s.ctx (s.queue q).ctx).st != .active then s
        else if nd.st = 1 then (if s.nodeBusy q i n nd then s else (s.runNode q i n nd).tick)
        else if nd.st = 4 then (if s.nodeWaits q i n then s else s.nodeDone q i n)
        else if nd.st = 5 || nd.st = 6 then s.nodeDone q i n
        else s)

end Sys2Proof.Machine
end

