-- ==== Sys2Proof/Machine/FlowGraph.lean ====
section
/-! DEFINITION. Flow graphs: the FLOW packets and the states of a graph (R398 to R401); the completion of
packets (R106). -/
namespace Sys2Proof.Machine

/-- R398: a template's header. -/
structure Template where
  code : Nat
  seed : Nat
  sbase : Nat
  nstage : Nat
  rootn : Nat
  root : Nat
  breg : Nat
  bwaves : Nat
  bteams : Nat
  blocal : Nat
  deriving DecidableEq, Repr, Inhabited

/-- R398: decodes a template header. -/
def templateOf (b : List Byte) : Template :=
  let x := field b 0x18 8
  let y := field b 0x20 8
  { code := field b 8 8, seed := field b 0x10 8, sbase := bits x 11 0, nstage := bits x 28 16, rootn := bits x 63 32,
    root := bits y 11 0, breg := bits y 20 16, bwaves := bits y 29 24, bteams := bits y 47 32, blocal := field b 0x28 4 }

/-- R398, R400: the header's magic word, reserved fields and limits. -/
def templateOk (b : List Byte) : Bool :=
  let t := templateOf b
  let x := field b 0x18 8
  let y := field b 0x20 8
  field b 0 8 == 0x3130574F4C46425A && t.code % 4096 == 0 && bits x 15 12 == 0 && decide (1 ≤ t.nstage) && decide (t.nstage ≤ 4096) &&
    bits x 31 29 == 0 && bits y 15 12 == 0 && decide (1 ≤ t.breg) && decide (t.breg ≤ 24) && bits y 23 21 == 0 && decide (1 ≤ t.bwaves) &&
    decide (t.bwaves ≤ 32) && bits y 31 30 == 0 && decide (1 ≤ t.bteams) && bits y 63 48 == 0 && t.blocal % 8192 == 0 &&
    decide (t.blocal ≤ 262144) && field b 0x2C 4 == 0 && field b 0x30 8 == 0 && field b 0x38 8 == 0

/-- A berth team's footprint. -/
def Template.entry (t : Template) : Entry := { (default : Entry) with waves := t.bwaves, regblk := t.breg, loc := t.blocal }

/-- R399: a stage descriptor; its declaration and entry come from the code object. -/
def stageOf (o : CodeObj) (b : List Byte) : Stage :=
  let x := field b 0 4
  let y := field b 4 4
  let d := o.stages.getD (bits x 15 0) default
  { decl := bits x 15 0, task := bitAt x 16, self := bitAt x 17, hit := bitAt x 18, minb := bits y 7 0, maxb := bits y 15 8,
    prio := bits y 17 16, pfthr := bits y 29 24, argBase := field b 8 8, argStride := field b 0x10 4,
    succ := (List.range 16).filterMap fun j =>
      let z := field b (0x18 + 2 * j) 2
      if bitAt z 15 then some (bits z 11 0) else none
    mask := d.mask, patience := d.patience, entry := o.entries.getD d.entry default }

/-- R399, R400: the checks of descriptor i but for the order of the graph. -/
def stageOk (o : CodeObj) (t : Template) (i : Nat) (b : List Byte) : Bool :=
  let x := field b 0 4
  let y := field b 4 4
  let g := stageOf o b
  let id := t.sbase + i
  decide (g.decl < o.stages.length) && bits x 31 19 == 0 && decide (1 ≤ g.minb) && bits y 23 18 == 0 && bits y 31 30 == 0 &&
    decide (g.pfthr ≤ 32) && field b 0x14 4 == 0 && field b 0x38 8 == 0 &&
    ((List.range 16).all fun j => bits (field b (0x18 + 2 * j) 2) 14 12 == 0) &&
    g.entry.gang == 0 && decide (g.entry.regblk ≤ t.breg) && decide (g.entry.loc ≤ t.blocal) && g.entry.waves == t.bwaves &&
    (g.succ.all fun k => decide (t.sbase ≤ k) && decide (k < t.sbase + t.nstage)) && (dedup g.succ).length == g.succ.length &&
    (!g.succ.contains id || g.self) && (!g.hit || !g.task) && (!g.task || g.pfthr == 0)

/-- The stages that edges lead to in at most `n` more steps. -/
def reachable (es : List (Nat × Nat)) : Nat → List Nat → List Nat
  | 0, l => l
  | n + 1, l => reachable es n (dedup (l ++ (es.filter fun e => l.contains e.1).map (·.2)))
/-- R400: the graph of successor edges without self-loops: the first stage on a cycle. -/
def stageCycle (t : Template) (gs : List Stage) : Option Nat :=
  let es := (List.range gs.length).flatMap fun i => ((gs.getD i default).succ.filter fun k => k != t.sbase + i).map fun k => (i, k - t.sbase)
  (peel es gs.length (List.range gs.length)).find? fun i => (reachable es gs.length ((es.filter fun e => e.1 == i).map (·.2))).contains i

/-- R400: what the header must satisfy in the context. -/
def State.templateFits (s : State) (c : Nat) (t : Template) : Bool :=
  let live := s.flows.filter fun f => f.2.ctx == c && f.2.st != .stopped
  decide (t.sbase + t.nstage ≤ (s.ctx c).desc.stagecnt) && decide (live.length ≤ 15) &&
    (live.all fun f => decide (f.2.sbase + f.2.stages.length ≤ t.sbase) || decide (t.sbase + t.nstage ≤ f.2.sbase)) &&
    decide (t.bteams ≤ t.entry.perCore * (s.dev.cores (s.partOf c)).length) &&
    (t.rootn == 0 || (decide (t.sbase ≤ t.root) && decide (t.root < t.sbase + t.nstage)))

/-- R132: a failure of the template's header. -/
def atHeader {α : Type} (x : Chk α) : Chk α :=
  match x with
  | .bad 8 _ => .bad 8 0x6FFF
  | y => y

/-- R87: the marks of every entry that the stages name, each pair of offset and kind once. -/
def flowMarks (o : CodeObj) (gs : List Stage) : List Mark := dedup (gs.flatMap fun g => o.entryMarks g.entry)

/-- Inserts a mark by its offset, INPUT first (R87). -/
def byOffset (m : Mark) : List Mark → List Mark
  | [] => [m]
  | x :: t => if 2 * m.off + bn m.result ≤ 2 * x.off + bn x.result then m :: x :: t else x :: byOffset m t

/-- R128, R398: the header and the bytes of START's template, the code object it names, and whether that is new. -/
def State.startImage (s : State) (c : Nat) (p : Pkt) : Chk ((Template × List Byte) × CodeObj × Bool) :=
  let va := p.word 0x18
  let n := p.word 0x20 % 2 ^ 32
  (need (decide (64 ≤ n)) 0x0020).bind fun _ => (s.getBytes c va 64).bind fun h =>
    let t := templateOf h
    (need (templateOk h) 0x6FFF).bind fun _ => (need (decide (64 + 64 * t.nstage ≤ n)) 0x0020).bind fun _ =>
    (need (s.templateFits c t) 0x6FFF).bind fun _ =>
    (s.getBytes c va (64 + 64 * t.nstage)).bind fun bs => (atHeader (s.codeAt c t.code)).bind fun x => .ok ((t, bs), x)
/-- What START checks (R398, R400): the header, the code object, whether it is new, the stages and the template's bytes. -/
def State.startChk (s : State) (c : Nat) (p : Pkt) : Chk (Template × CodeObj × Bool × List Stage × List Byte) :=
  (s.startImage c p).bind fun ((t, bs), o, new) =>
      let ds := items bs 64 64 t.nstage
      let gs := ds.map (stageOf o)
      (needItem 6 ((List.range ds.length).find? fun i => !stageOk o t i (ds.getD i []))).bind fun _ =>
      (needItem 6 (stageCycle t gs)).bind fun _ =>
      (need (decide (gs.foldl (fun a g => a + g.minb) 0 ≤ t.bteams * t.bwaves)) 0x6FFF).bind fun _ =>
      (need (t.rootn == 0 || (gs.getD (t.root - t.sbase) default).task) 0x6FFF).bind fun _ =>
      .ok (t, o, new, gs, bs)

/-- R400: the stage table entries of a graph, with its launch id. -/
def stageTable (bs : List Byte) (n launch : Nat) : List Byte :=
  (List.range n).flatMap fun i => (bs.drop (64 + 64 * i)).take 56 ++ leBytes 8 launch

/-- A record that a flow graph waits for has not been appended. -/
def State.flowHeld (s : State) (k : Nat) (f : Flow) : Bool := (s.ctx f.ctx).appends.any fun r => r.waiter == .flow k
/-- R401: LOADED graphs whose decode is complete are STARTING. -/
def State.settleFlows (s : State) (c : Nat) : State :=
  { s with flows := mmap s.flows fun k f => if f.ctx = c && f.st == .loaded && !s.flowHeld k f then { f with st := .starting } else f }

/-- R400, R401: START. -/
def State.flowStart (s : State) (q i : Nat) (p : Pkt) : State :=
  let c := (s.queue q).ctx
  let args := p.word 0x28
  let len := p.word 0x30 % 2 ^ 32
  let m := s.mflags c (p.word 0)
  let chk := (s.startChk c p).bind fun (t, o, new, gs, bs) =>
    (s.checkMarks c args len m ((flowMarks o gs).foldr byOffset [])).bind fun ins =>
    let tab := (s.ctx c).desc.stagetab + 64 * t.sbase
    (if new && decide (tab < o.addr + o.len) && decide (o.addr < tab + 64 * t.nstage) then Chk.bad 7 0x42 else .ok ()).bind fun _ =>
    (s.reach c tab (64 * t.nstage) 1 workFault).bind fun _ => .ok (t, o, new, gs, bs, ins)
  (s.keepImage c chk (s.startImage c p)).settleChk c q i chk fun (t, o, new, gs, bs, ins) =>
    let id := (s.ctx c).nextLaunch
    let k := s.key
    let s := { s with key := k + 2 }.updCtx c fun x => { x with nextLaunch := id + 1 }
    let (code, s) := s.register c o new (.flow k)
    let s := s.svwrite c ((s.ctx c).desc.stagetab + 64 * t.sbase) (stageTable bs t.nstage id)
    let f : Flow := { ctx := c, queue := q, st := .loaded, launch := id, code := o.addr, codeId := code, seed := BitVec.ofNat 64 t.seed,
                      sbase := t.sbase, stages := gs, root := t.root, rootn := t.rootn, rooted := 0, breg := t.breg, bwaves := t.bwaves,
                      bteams := t.bteams, blocal := t.blocal, args := args, arglen := len, teams := [], start := some (q, i),
                      stops := [], mResult := m.result, decoded := k + 1, since := s.ctr }
    let s := { s with flows := mset s.flows k f }
    let s := s.recordBuf c 5 id q (.flow k) (p.word 0x18, 64 + 64 * t.nstage)
    let s := s.recordDecode c id q code args len m ins (.flow k)
    (s.updPkt q i fun p => { p with opening := false, launch := id }).settleFlows c

/-- FLOW_START (R400, R401): operation 0 (and the malformed operation 3). -/
def execFlowStart (q : Nat) (s : State) : Out :=
  .next (decodePacket (fun p => p.kind == 0x03 && (p.word 0x38 % 4 == 0 || p.word 0x38 % 4 == 3)) (fun i p s => s.flowStart q i p) q s)

/-- The flow graph of a context with a launch id. -/
def State.flowNamed (s : State) (c id : Nat) : Option (Nat × Flow) := s.flows.find? fun f => f.2.ctx == c && f.2.launch == id

/-- FLOW_QUIESCE (R401). -/
def execFlowQuiesce (q : Nat) (s : State) : Out :=
  .next (decodePacket (fun p => p.kind == 0x03 && p.word 0x38 % 4 == 1) (fun i p s =>
    match s.flowNamed (s.queue q).ctx (p.word 0x18) with
    | some (k, f) => if f.st == .running then (s.updFlow k fun x => { x with st := .quiescing }).pktDone q i 0 0 else s.pktDone q i 6 0
    | none => s.pktDone q i 6 0) q s)

/-- FLOW_STOP (R401): the graph quiesces; the packet completes at STOPPED. -/
def execFlowStop (q : Nat) (s : State) : Out :=
  .next (decodePacket (fun p => p.kind == 0x03 && p.word 0x38 % 4 == 2) (fun i p s =>
    match s.flowNamed (s.queue q).ctx (p.word 0x18) with
    | some (k, f) =>
      if f.st == .running || f.st == .quiescing then
        (s.updFlow k fun x => { x with st := .quiescing, stops := x.stops ++ [(q, i)] }).opened q i
      else s.pktDone q i 6 0
    | none => s.pktDone q i 6 0) q s)

/-- ROOT_TASK_CREATE (R401): the next root task enters the pool when there is a slot for it. -/
def execRootTaskCreate (k : Nat) (s : State) : Out :=
  .next (match mget s.flows k with
    | none => s
    | some f =>
      if !(f.st == .running || f.st == .quiescing) || f.rootn ≤ f.rooted || !(s.ctx f.ctx).runs then s
      else
        let cl := ((List.range 64).find? (s.dev.clusterIn (s.partOf f.ctx))).getD 0
        match s.renq f.ctx k cl true [(0, [f.root, f.rooted, 0, 0, 0, 0, 0, 0])] with
        | none => s
        | some s =>
          let s := s.tick.updFlow k fun x => { x with rooted := x.rooted + 1 }
          match f.start with
          | some (q, i) => if f.rooted + 1 = f.rootn then (s.pktDone q i 0 0).updFlow k fun x => { x with start := none } else s
          | none => s)

/-- R401: no record remains, no root task is to come, every berth is DOCKED, and a STOP was decoded. -/
def State.flowOver (s : State) (k : Nat) (f : Flow) : Bool :=
  f.st == .quiescing && !f.stops.isEmpty && decide (f.rootn ≤ f.rooted) && !s.recs.any (fun r => r.2.flow == k) &&
    s.waves.all fun w => match w.2.berth with
      | some b => b.flow != k || w.2.st == .docked
      | none => true

/-- R401: STOPPED: the berths retire, the stage table entries are zeroed where they can be written (R128), every STOP completes. -/
def State.flowEnd (s : State) (k : Nat) (code detail : Nat) : State :=
  let f := s.flow k
  let s := f.teams.foldl State.freeTeam s
  let tab := (s.ctx f.ctx).desc.stagetab + 64 * f.sbase
  let n := 64 * f.stages.length
  let s := if (s.ctx f.ctx).inCode tab n then s else s.svwrite f.ctx tab (List.replicate n 0)
  let s := f.stops.foldl (fun s x => s.pktDone x.1 x.2 code detail) s
  s.updFlow k fun x => { x with st := .stopped, teams := [], stops := [], start := none }

/-- R87: the buffers of a graph's result marks. -/
def State.flowResults (s : State) (f : Flow) : Chk (List (Nat × Nat)) :=
  let o := ((s.ctx f.ctx).objs.find? fun o => o.addr == f.code).getD default
  s.readMarks f.ctx f.args f.arglen (if f.mResult then ((flowMarks o f.stages).foldr byOffset []).filter (·.result) else [])
/-- R87: their RESULT records; the STOP packet waits on them. -/
def State.recordResults (s : State) (f : Flow) (q i : Nat) (bs : List (Nat × Nat)) : State :=
  bs.foldl (fun s b => s.recordBuf f.ctx 4 f.launch f.queue (.packet q i) b) s
/-- R401, R279: the host answers fail for an access of a graph's end: the records that can be are appended first. -/
def State.flowFail (s : State) (q i k cause : Nat) : State :=
  match s.flowResults (s.flow k) with
  | .ok bs => (s.recordResults (s.flow k) q i bs).flowEnd k 7 cause
  | _ => s.flowEnd k 7 cause
/-- R401: a STOP packet's graph stops when it may, with its RESULT records. -/
def State.flowTry (s : State) (q i k : Nat) : State :=
  let f := s.flow k
  if !s.flowOver k f then s
  else
    match s.flowResults f with
    | .later => s
    | .wait g acc _ _ => s.cpWait f.ctx g acc (.pkt q i)
    | .gone pa => s.frameLost f.ctx pa
    | .bad _ _ => s.flowEnd k 7 0xA1
    | .ok bs =>
      match s.reach f.ctx ((s.ctx f.ctx).desc.stagetab + 64 * f.sbase) (64 * f.stages.length) 1 workFault with
      | .wait g acc _ _ => s.cpWait f.ctx g acc (.pkt q i)
      | .gone pa => s.frameLost f.ctx pa
      | .bad code d => (s.recordResults f q i bs).flowEnd k code d
      | _ => (s.recordResults f q i bs).flowEnd k 0 0

/-- R401: a record of a graph is lost to an uncorrectable error: the graph is FAULTED: its records go, its berths stop, its FLOW packets
complete with status 0x07 and the cause. -/
def State.flowLost (s : State) (k cause : Nat) : State :=
  match mget s.flows k with
  | none => s
  | some f =>
    if f.st == .stopped || f.st == .faulted then s
    else
      let s := f.teams.foldl State.freeTeam { s with recs := s.recs.filter fun r => r.2.flow != k }
      let s := (f.start.toList ++ f.stops).foldl (fun s x => s.pktDone x.1 x.2 7 cause) s
      (s.launchLost f.ctx).updFlow k fun x => { x with st := .faulted, teams := [], start := none, stops := [] }

/-! ## PACKET_COMPLETE (R106) -/

/-- R105: the work a decoded packet does on its own: a COPY, a FENCE, the STOP of a flow graph. -/
def State.pktWork (s : State) (q i : Nat) (p : Pkt) : State :=
  let x := s.queue q
  if p.kind = 0x0A then (if x.retire = i then s.pktDone q i 0 0 else s)
  else if p.kind = 0x04 then
    let fill := bitAt (p.word 0x30) 0
    let ag := s.lighterAg x.ctx
    let chk := s.copyChk ag x.ctx (p.word 0x18) (p.word 0x20) (p.word 0x28) fill
    s.lighterChk x.ctx (.pkt q i) chk fun s => s.settleChk x.ctx q i chk fun _ =>
      (s.doCopy ag x.ctx (p.word 0x18) (p.word 0x20) (p.word 0x28) fill).pktDone q i 0 0
  else if p.kind = 0x03 && p.word 0x38 % 4 = 2 then
    (match s.flows.find? fun f => f.2.stops.contains (q, i) with
     | some f => s.flowTry q i f.1
     | none => s)
  else s

/-- PACKET_COMPLETE (R106). -/
def execPacketComplete (q i : Nat) (s : State) : Out :=
  .next (match mget (s.queue q).pkts i with
    | none => s
    | some p =>
      if p.opening || s.awaits (.pkt q i) || !s.pilots then s
      else
        let s := if p.done.isNone then s.pktWork q i p else s
        match (s.pkt q i).done with
        | none => s
        | some (code, detail) =>
          if s.pktWaits q i then s
          else
            let s' := completePkt q i code detail (3 - (s.pkt q i).stage) s
            if s'.awaits (.pkt q i) then s' else s'.tick)

end Sys2Proof.Machine
end

