-- ==== Sys2Proof/Decode.lean ====
section
/-! DEFINITION. From bytes to instructions and back: the five formats (R57, R58), the opcode map (R68, R69), the clause
header (R45), the classes (R46), and the encoder. -/
namespace Sys2Proof

/-! ## Formats (R57, R58) -/

/-- The fields of an F3 word. -/
def F3.of (w : DWord) : F3 :=
  { pred := w.extractLsb' 52 4, mod := w.extractLsb' 48 4, d := w.extractLsb' 40 8, a := w.extractLsb' 32 8,
    b := w.extractLsb' 24 8, c := w.extractLsb' 16 8, fmt := w.extractLsb' 12 4, rnd := w.extractLsb' 9 3,
    sat := w.getLsbD 8, markA := w.getLsbD 7, markB := w.getLsbD 6, markC := w.getLsbD 5, reuse := w.getLsbD 4,
    negA := w.getLsbD 3, negB := w.getLsbD 2, absA := w.getLsbD 1, absB := w.getLsbD 0 }
/-- The fields of an FI word. -/
def FI.of (w : DWord) : FI :=
  { pred := w.extractLsb' 52 4, mod := w.extractLsb' 48 4, d := w.extractLsb' 40 8, a := w.extractLsb' 32 8,
    imm := w.extractLsb' 0 32 }
/-- The fields of an FM word. -/
def FM.of (w : DWord) : FM :=
  { pred := w.extractLsb' 52 4, mod := w.extractLsb' 48 4, d := w.extractLsb' 40 8, a := w.extractLsb' 32 8,
    b := w.extractLsb' 24 8, scope := w.extractLsb' 21 3, order := w.extractLsb' 19 2, wk := w.extractLsb' 15 4,
    tv := w.getLsbD 14, off := w.extractLsb' 0 14 }
/-- The fields of an FB word. -/
def FB.of (w : DWord) : FB :=
  { pred := w.extractLsb' 52 4, mod := w.extractLsb' 48 4, d := w.extractLsb' 40 8, a := w.extractLsb' 32 8,
    off := w.extractLsb' 0 32 }
/-- The fields of an FE word. -/
def FE.of (w : DWord) : FE :=
  { pred := w.extractLsb' 52 4, mod := w.extractLsb' 48 4, d := w.extractLsb' 40 8, a := w.extractLsb' 32 8,
    b := w.extractLsb' 24 8, c := w.extractLsb' 16 8, imm := w.extractLsb' 0 16 }

/-- An F3 word of an opcode. -/
def F3.word (op : BitVec 8) (f : F3) : DWord :=
  op ++ f.pred ++ f.mod ++ f.d ++ f.a ++ f.b ++ f.c ++ f.fmt ++ f.rnd ++ BitVec.ofBool f.sat ++ BitVec.ofBool f.markA ++
    BitVec.ofBool f.markB ++ BitVec.ofBool f.markC ++ BitVec.ofBool f.reuse ++ BitVec.ofBool f.negA ++
    BitVec.ofBool f.negB ++ BitVec.ofBool f.absA ++ BitVec.ofBool f.absB
/-- An FI word of an opcode. -/
def FI.word (op : BitVec 8) (f : FI) : DWord := op ++ f.pred ++ f.mod ++ f.d ++ f.a ++ f.imm
/-- An FM word of an opcode. -/
def FM.word (op : BitVec 8) (f : FM) : DWord :=
  op ++ f.pred ++ f.mod ++ f.d ++ f.a ++ f.b ++ f.scope ++ f.order ++ f.wk ++ BitVec.ofBool f.tv ++ f.off
/-- An FB word of an opcode. -/
def FB.word (op : BitVec 8) (f : FB) : DWord := op ++ f.pred ++ f.mod ++ f.d ++ f.a ++ f.off
/-- An FE word of an opcode. -/
def FE.word (op : BitVec 8) (f : FE) : DWord := op ++ f.pred ++ f.mod ++ f.d ++ f.a ++ f.b ++ f.c ++ f.imm

/-! ## Opcodes (R68, R69) -/

/-- The opcode of a word. -/
def opOf (w : DWord) : BitVec 8 := w.extractLsb' 56 8

/-- R68, R69: the instruction of an opcode that a word holds; none for an unassigned opcode and for 0xFF. -/
def decodeOp (op : Nat) (w : DWord) : Option Instr :=
  match op with
  | 0x00 => some (.nop (.of w))
  | 0x01 => some (.bra (.of w))
  | 0x02 => some (.brx (.of w))
  | 0x03 => some (.call (.of w))
  | 0x04 => some (.callx (.of w))
  | 0x05 => some (.ret (.of w))
  | 0x06 => some (.meet (.of w))
  | 0x07 => some (.mvmeet (.of w))
  | 0x08 => some (.jmop (.of w))
  | 0x09 => some (.exit (.of w))
  | 0x0A => some (.yield (.of w))
  | 0x0B => some (.sleep (.of w))
  | 0x0C => some (.region (.of w))
  | 0x0D => some (.spawn (.of w))
  | 0x0E => some (.launch (.of w))
  | 0x0F => some (.waitkids (.of w))
  | 0x10 => some (.mov (.of w))
  | 0x11 => some (.movi (.of w))
  | 0x12 => some (.movw (.of w))
  | 0x13 => some (.sel (.of w))
  | 0x14 => some (.iadd (.of w))
  | 0x15 => some (.iaddc (.of w))
  | 0x16 => some (.isub (.of w))
  | 0x17 => some (.isubb (.of w))
  | 0x18 => some (.imul (.of w))
  | 0x19 => some (.imulh (.of w))
  | 0x1A => some (.imad (.of w))
  | 0x1B => some (.imadw (.of w))
  | 0x1C => some (.iaddi (.of w))
  | 0x1D => some (.imin (.of w))
  | 0x1E => some (.imax (.of w))
  | 0x1F => some (.iabs (.of w))
  | 0x20 => some (.ineg (.of w))
  | 0x21 => some (.isad (.of w))
  | 0x22 => some (.idp4 (.of w))
  | 0x23 => some (.idp2 (.of w))
  | 0x24 => some (.shl (.of w))
  | 0x25 => some (.shr (.of w))
  | 0x26 => some (.sar (.of w))
  | 0x27 => some (.fsh (.of w))
  | 0x28 => some (.rot (.of w))
  | 0x29 => some (.lop3 (.of w))
  | 0x2A => some (.andi (.of w))
  | 0x2B => some (.ori (.of w))
  | 0x2C => some (.xori (.of w))
  | 0x2D => some (.bfe (.of w))
  | 0x2E => some (.bfi (.of w))
  | 0x2F => some (.popc (.of w))
  | 0x30 => some (.clz (.of w))
  | 0x31 => some (.ctz (.of w))
  | 0x32 => some (.brev (.of w))
  | 0x33 => some (.iset (.of w))
  | 0x34 => some (.iseti (.of w))
  | 0x35 => some (.plop (.of w))
  | 0x36 => some (.vote (.of w))
  | 0x37 => some (.shfl (.of w))
  | 0x38 => some (.bcast (.of w))
  | 0x39 => some (.lea (.of w))
  | 0x3A => some (.iaddw (.of w))
  | 0x3B => some (.shw (.of w))
  | 0x3C => some (.cvti (.of w))
  | 0x3D => some (.prmt (.of w))
  | 0x40 => some (.fadd (.of w))
  | 0x41 => some (.fmul (.of w))
  | 0x42 => some (.ffma (.of w))
  | 0x43 => some (.fmin (.of w))
  | 0x44 => some (.fmax (.of w))
  | 0x45 => some (.fclmp (.of w))
  | 0x46 => some (.fset (.of w))
  | 0x47 => some (.frnd (.of w))
  | 0x48 => some (.faddi (.of w))
  | 0x49 => some (.fmuli (.of w))
  | 0x4A => some (.fclass (.of w))
  | 0x4B => some (.fscale (.of w))
  | 0x4C => some (.fexpt (.of w))
  | 0x4D => some (.fmant (.of w))
  | 0x50 => some (.dadd (.of w))
  | 0x51 => some (.dmul (.of w))
  | 0x52 => some (.dfma (.of w))
  | 0x53 => some (.dmin (.of w))
  | 0x54 => some (.dmax (.of w))
  | 0x55 => some (.dset (.of w))
  | 0x56 => some (.drnd (.of w))
  | 0x58 => some (.hadd2 (.of w))
  | 0x59 => some (.hmul2 (.of w))
  | 0x5A => some (.hfma2 (.of w))
  | 0x5B => some (.hmin2 (.of w))
  | 0x5C => some (.hmax2 (.of w))
  | 0x5D => some (.hset2 (.of w))
  | 0x60 => some (.rcp (.of w))
  | 0x61 => some (.rsq (.of w))
  | 0x62 => some (.sqrt (.of w))
  | 0x63 => some (.exp2 (.of w))
  | 0x64 => some (.log2 (.of w))
  | 0x65 => some (.sincy (.of w))
  | 0x66 => some (.coscy (.of w))
  | 0x67 => some (.tanh (.of w))
  | 0x68 => some (.sigm (.of w))
  | 0x69 => some (.drcp (.of w))
  | 0x6A => some (.drsq (.of w))
  | 0x6C => some (.f2i (.of w))
  | 0x6D => some (.i2f (.of w))
  | 0x6E => some (.f2f (.of w))
  | 0x6F => some (.f2fp (.of w))
  | 0x70 => some (.mmaF16 (.of w))
  | 0x71 => some (.mmaBf16 (.of w))
  | 0x72 => some (.mmaE4 (.of w))
  | 0x73 => some (.mmaE5 (.of w))
  | 0x74 => some (.mmaZb8 (.of w))
  | 0x75 => some (.mmaZb5 (.of w))
  | 0x76 => some (.mmaZb3 (.of w))
  | 0x77 => some (.mmaI8 (.of w))
  | 0x79 => some (.zbpack (.of w))
  | 0x7A => some (.zbunp (.of w))
  | 0x7B => some (.zbexp (.of w))
  | 0x80 => some (.ld (.of w))
  | 0x81 => some (.st (.of w))
  | 0x82 => some (.ldl (.of w))
  | 0x83 => some (.stl (.of w))
  | 0x84 => some (.ldlw (.of w))
  | 0x85 => some (.ldp (.of w))
  | 0x86 => some (.stp (.of w))
  | 0x87 => some (.ldc (.of w))
  | 0x88 => some (.atom (.of w))
  | 0x89 => some (.acas (.of w))
  | 0x8A => some (.atoml (.of w))
  | 0x8B => some (.acasl (.of w))
  | 0x8C => some (.fence (.of w))
  | 0x8D => some (.pref (.of w))
  | 0x8E => some (.cctl (.of w))
  | 0x8F => some (.ldz (.of w))
  | 0x90 => some (.stz (.of w))
  | 0x91 => some (.fput (.of w))
  | 0x92 => some (.fget (.of w))
  | 0x93 => some (.ftry (.of w))
  | 0x94 => some (.lcopy (.of w))
  | 0x95 => some (.lcopyo (.of w))
  | 0x96 => some (.tcopy (.of w))
  | 0x97 => some (.tcopyo (.of w))
  | 0x98 => some (.tred (.of w))
  | 0x99 => some (.tag (.of w))
  | 0x9A => some (.tagq (.of w))
  | 0x9B => some (.acinit (.of w))
  | 0x9C => some (.acadd (.of w))
  | 0x9D => some (.acwait (.of w))
  | 0x9E => some (.tex (.of w))
  | 0x9F => some (.texf (.of w))
  | 0xB0 => some (.bar (.of w))
  | 0xB1 => some (.barg (.of w))
  | 0xB2 => some (.elect (.of w))
  | 0xB3 => some (.pbind (.of w))
  | 0xB4 => some (.pld (.of w))
  | 0xB5 => some (.pldx (.of w))
  | 0xB6 => some (.pst (.of w))
  | 0xB7 => some (.pstp (.of w))
  | 0xB8 => some (.pstep (.of w))
  | 0xB9 => some (.pqry (.of w))
  | 0xC0 => some (.dock (.of w))
  | 0xC1 => some (.rtrace (.of w))
  | 0xC2 => some (.renq (.of w))
  | 0xC3 => some (.rretire (.of w))
  | 0xC4 => some (.rld (.of w))
  | 0xC5 => some (.rst (.of w))
  | 0xC6 => some (.rhit (.of w))
  | 0xC7 => some (.rkey (.of w))
  | 0xC8 => some (.racc (.of w))
  | 0xC9 => some (.rstat (.of w))
  | 0xD0 => some (.shld (.of w))
  | 0xD1 => some (.shset (.of w))
  | 0xD2 => some (.shget (.of w))
  | 0xD3 => some (.mxgemm (.of w))
  | 0xD4 => some (.mxconv (.of w))
  | 0xD5 => some (.mxelt (.of w))
  | 0xD6 => some (.mxlda (.of w))
  | 0xD7 => some (.mxsta (.of w))
  | 0xD8 => some (.mxwait (.of w))
  | 0xD9 => some (.mxqry (.of w))
  | 0xE0 => some (.srd (.of w))
  | 0xE1 => some (.swr (.of w))
  | 0xE2 => some (.trap (.of w))
  | 0xE3 => some (.tret (.of w))
  | 0xE4 => some (.measure (.of w))
  | 0xE5 => some (.clock (.of w))
  | 0xE6 => some (.ecnt (.of w))
  | 0xE7 => some (.signal (.of w))
  | _ => none

/-- The instruction a word holds. -/
def decodeWord (w : DWord) : Option Instr := decodeOp (opOf w).toNat w

/-- R68: the word of an instruction; an event has none. -/
def encode (i : Instr) : List DWord :=
  match i with
  | .nop f => [f.word 0x00]
  | .bra f => [f.word 0x01]
  | .brx f => [f.word 0x02]
  | .call f => [f.word 0x03]
  | .callx f => [f.word 0x04]
  | .ret f => [f.word 0x05]
  | .meet f => [f.word 0x06]
  | .mvmeet f => [f.word 0x07]
  | .jmop f => [f.word 0x08]
  | .exit f => [f.word 0x09]
  | .yield f => [f.word 0x0A]
  | .sleep f => [f.word 0x0B]
  | .region f => [f.word 0x0C]
  | .spawn f => [f.word 0x0D]
  | .launch f => [f.word 0x0E]
  | .waitkids f => [f.word 0x0F]
  | .mov f => [f.word 0x10]
  | .movi f => [f.word 0x11]
  | .movw f => [f.word 0x12]
  | .sel f => [f.word 0x13]
  | .iadd f => [f.word 0x14]
  | .iaddc f => [f.word 0x15]
  | .isub f => [f.word 0x16]
  | .isubb f => [f.word 0x17]
  | .imul f => [f.word 0x18]
  | .imulh f => [f.word 0x19]
  | .imad f => [f.word 0x1A]
  | .imadw f => [f.word 0x1B]
  | .iaddi f => [f.word 0x1C]
  | .imin f => [f.word 0x1D]
  | .imax f => [f.word 0x1E]
  | .iabs f => [f.word 0x1F]
  | .ineg f => [f.word 0x20]
  | .isad f => [f.word 0x21]
  | .idp4 f => [f.word 0x22]
  | .idp2 f => [f.word 0x23]
  | .shl f => [f.word 0x24]
  | .shr f => [f.word 0x25]
  | .sar f => [f.word 0x26]
  | .fsh f => [f.word 0x27]
  | .rot f => [f.word 0x28]
  | .lop3 f => [f.word 0x29]
  | .andi f => [f.word 0x2A]
  | .ori f => [f.word 0x2B]
  | .xori f => [f.word 0x2C]
  | .bfe f => [f.word 0x2D]
  | .bfi f => [f.word 0x2E]
  | .popc f => [f.word 0x2F]
  | .clz f => [f.word 0x30]
  | .ctz f => [f.word 0x31]
  | .brev f => [f.word 0x32]
  | .iset f => [f.word 0x33]
  | .iseti f => [f.word 0x34]
  | .plop f => [f.word 0x35]
  | .vote f => [f.word 0x36]
  | .shfl f => [f.word 0x37]
  | .bcast f => [f.word 0x38]
  | .lea f => [f.word 0x39]
  | .iaddw f => [f.word 0x3A]
  | .shw f => [f.word 0x3B]
  | .cvti f => [f.word 0x3C]
  | .prmt f => [f.word 0x3D]
  | .fadd f => [f.word 0x40]
  | .fmul f => [f.word 0x41]
  | .ffma f => [f.word 0x42]
  | .fmin f => [f.word 0x43]
  | .fmax f => [f.word 0x44]
  | .fclmp f => [f.word 0x45]
  | .fset f => [f.word 0x46]
  | .frnd f => [f.word 0x47]
  | .faddi f => [f.word 0x48]
  | .fmuli f => [f.word 0x49]
  | .fclass f => [f.word 0x4A]
  | .fscale f => [f.word 0x4B]
  | .fexpt f => [f.word 0x4C]
  | .fmant f => [f.word 0x4D]
  | .dadd f => [f.word 0x50]
  | .dmul f => [f.word 0x51]
  | .dfma f => [f.word 0x52]
  | .dmin f => [f.word 0x53]
  | .dmax f => [f.word 0x54]
  | .dset f => [f.word 0x55]
  | .drnd f => [f.word 0x56]
  | .hadd2 f => [f.word 0x58]
  | .hmul2 f => [f.word 0x59]
  | .hfma2 f => [f.word 0x5A]
  | .hmin2 f => [f.word 0x5B]
  | .hmax2 f => [f.word 0x5C]
  | .hset2 f => [f.word 0x5D]
  | .rcp f => [f.word 0x60]
  | .rsq f => [f.word 0x61]
  | .sqrt f => [f.word 0x62]
  | .exp2 f => [f.word 0x63]
  | .log2 f => [f.word 0x64]
  | .sincy f => [f.word 0x65]
  | .coscy f => [f.word 0x66]
  | .tanh f => [f.word 0x67]
  | .sigm f => [f.word 0x68]
  | .drcp f => [f.word 0x69]
  | .drsq f => [f.word 0x6A]
  | .f2i f => [f.word 0x6C]
  | .i2f f => [f.word 0x6D]
  | .f2f f => [f.word 0x6E]
  | .f2fp f => [f.word 0x6F]
  | .mmaF16 f => [f.word 0x70]
  | .mmaBf16 f => [f.word 0x71]
  | .mmaE4 f => [f.word 0x72]
  | .mmaE5 f => [f.word 0x73]
  | .mmaZb8 f => [f.word 0x74]
  | .mmaZb5 f => [f.word 0x75]
  | .mmaZb3 f => [f.word 0x76]
  | .mmaI8 f => [f.word 0x77]
  | .zbpack f => [f.word 0x79]
  | .zbunp f => [f.word 0x7A]
  | .zbexp f => [f.word 0x7B]
  | .ld f => [f.word 0x80]
  | .st f => [f.word 0x81]
  | .ldl f => [f.word 0x82]
  | .stl f => [f.word 0x83]
  | .ldlw f => [f.word 0x84]
  | .ldp f => [f.word 0x85]
  | .stp f => [f.word 0x86]
  | .ldc f => [f.word 0x87]
  | .atom f => [f.word 0x88]
  | .acas f => [f.word 0x89]
  | .atoml f => [f.word 0x8A]
  | .acasl f => [f.word 0x8B]
  | .fence f => [f.word 0x8C]
  | .pref f => [f.word 0x8D]
  | .cctl f => [f.word 0x8E]
  | .ldz f => [f.word 0x8F]
  | .stz f => [f.word 0x90]
  | .fput f => [f.word 0x91]
  | .fget f => [f.word 0x92]
  | .ftry f => [f.word 0x93]
  | .lcopy f => [f.word 0x94]
  | .lcopyo f => [f.word 0x95]
  | .tcopy f => [f.word 0x96]
  | .tcopyo f => [f.word 0x97]
  | .tred f => [f.word 0x98]
  | .tag f => [f.word 0x99]
  | .tagq f => [f.word 0x9A]
  | .acinit f => [f.word 0x9B]
  | .acadd f => [f.word 0x9C]
  | .acwait f => [f.word 0x9D]
  | .tex f => [f.word 0x9E]
  | .texf f => [f.word 0x9F]
  | .bar f => [f.word 0xB0]
  | .barg f => [f.word 0xB1]
  | .elect f => [f.word 0xB2]
  | .pbind f => [f.word 0xB3]
  | .pld f => [f.word 0xB4]
  | .pldx f => [f.word 0xB5]
  | .pst f => [f.word 0xB6]
  | .pstp f => [f.word 0xB7]
  | .pstep f => [f.word 0xB8]
  | .pqry f => [f.word 0xB9]
  | .dock f => [f.word 0xC0]
  | .rtrace f => [f.word 0xC1]
  | .renq f => [f.word 0xC2]
  | .rretire f => [f.word 0xC3]
  | .rld f => [f.word 0xC4]
  | .rst f => [f.word 0xC5]
  | .rhit f => [f.word 0xC6]
  | .rkey f => [f.word 0xC7]
  | .racc f => [f.word 0xC8]
  | .rstat f => [f.word 0xC9]
  | .shld f => [f.word 0xD0]
  | .shset f => [f.word 0xD1]
  | .shget f => [f.word 0xD2]
  | .mxgemm f => [f.word 0xD3]
  | .mxconv f => [f.word 0xD4]
  | .mxelt f => [f.word 0xD5]
  | .mxlda f => [f.word 0xD6]
  | .mxsta f => [f.word 0xD7]
  | .mxwait f => [f.word 0xD8]
  | .mxqry f => [f.word 0xD9]
  | .srd f => [f.word 0xE0]
  | .swr f => [f.word 0xE1]
  | .trap f => [f.word 0xE2]
  | .tret f => [f.word 0xE3]
  | .measure f => [f.word 0xE4]
  | .clock f => [f.word 0xE5]
  | .ecnt f => [f.word 0xE6]
  | .signal f => [f.word 0xE7]
  | .fifomapWrite _ _ => []
  | .issueSelect _ _ => []
  | .resultLands _ _ => []
  | .parkRelease _ _ => []
  | .takeTrap _ => []
  | .clauseReplay _ => []
  | .sleepExpiry _ => []
  | .teamAdmit _ => []
  | .gangPlace _ => []
  | .teamPark _ => []
  | .teamUnpark _ => []
  | .teamRetire _ => []
  | .octantModeSwitch _ _ _ => []
  | .octantDrainComplete _ _ => []
  | .lcopyComplete _ => []
  | .lcopyoComplete _ => []
  | .tcopyArrival _ _ => []
  | .tredArrival _ _ => []
  | .tcopyoComplete _ => []
  | .tileTransferAcknowledged _ => []
  | .mxeCommandStart _ => []
  | .mxeCommandComplete _ => []
  | .engineWatchdog _ => []
  | .mxeIslandPowerUp _ => []
  | .childGridDecode _ => []
  | .gridRetire _ => []
  | .graphNodeComplete _ _ _ => []
  | .nopPacket _ => []
  | .launchPacket _ => []
  | .graphPacket _ => []
  | .flowStart _ => []
  | .flowQuiesce _ => []
  | .flowStop _ => []
  | .copyPacket _ => []
  | .signalPacket _ => []
  | .waitPacket _ => []
  | .pstepPacket _ => []
  | .measurePacket _ => []
  | .receiptPacket _ => []
  | .fencePacket _ => []
  | .energyBudget _ => []
  | .energyAllowance _ => []
  | .markerPacket _ => []
  | .packetComplete _ _ => []
  | .waitReread _ => []
  | .waitTimeout _ => []
  | .queueSlotGrant _ => []
  | .queueMappingDone _ => []
  | .queueUnmap _ => []
  | .queueUnmapDone _ => []
  | .wakeRegisterWrite _ => []
  | .mbxbaseWrite _ => []
  | .mbxdoorWrite _ => []
  | .createContext => []
  | .suspend => []
  | .resume => []
  | .destroy => []
  | .receiptContext => []
  | .partition => []
  | .createQueue => []
  | .destroyQueue => []
  | .resetQueue => []
  | .logbookRead => []
  | .logbookClear => []
  | .keyRead => []
  | .contextQuiesced _ => []
  | .chainAppend _ => []
  | .aliasGenerationCreate => []
  | .preempt _ => []
  | .preemptComplete _ => []
  | .contextRestore _ => []
  | .rssizeWrite _ => []
  | .pfresolveRetry _ => []
  | .pfresolveFail _ => []
  | .invalidateRange _ => []
  | .invalidateContext _ => []
  | .invalidationComplete => []
  | .hostRegisterWrite _ _ => []
  | .dbgstopWrite _ => []
  | .lnkctlEnableSet _ => []
  | .lnkctlEnableClear _ => []
  | .lnkctlRetrain _ => []
  | .pageWalkComplete _ _ _ _ => []
  | .binPatienceExpiry _ => []
  | .batchDelivery _ => []
  | .berthRetarget _ => []
  | .spillReturn _ => []
  | .rootTaskCreate _ => []
  | .nodeStep _ => []
  | .ebcShareInterval _ _ => []
  | .energyCounterTick => []
  | .energyAttribution _ => []
  | .wearRefresh => []
  | .correctableError _ => []
  | .uncorrectableError _ _ _ _ => []
  | .unitSelfTestComplete _ _ => []
  | .pilotException _ _ _ _ => []
  | .pilotWatchdog _ => []
  | .pilotComplexRestart => []
  | .packageReset => []
  | .powerOn => []
  | .linkTrained _ _ => []
  | .linkTrainingTimeout _ => []
  | .linkRetrainTrigger _ => []
  | .linkRetrainTimeout _ => []
  | .hawserFlitReceive _ _ => []
  | .hawserNakReceive _ _ => []
  | .meshPacketDrop _ => []
  | .meshResend _ => []
  | .cxlMemAccess _ _ _ => []
  | .powerLoss => []
  | .mxeIslandPowerDown _ => []
  | .peerPackageReset => []
  | .firmwareUpdate _ _ => []
  | .reservedKindPacket _ => []
  | .unassignedMailboxOpcode => []

/-- R46: the class of an opcode, none for an unassigned one: 0 VEC, 1 MEM, 2 MTX, 3 CTL, 4 RAY, 5 ENG. -/
def opClass (op : Nat) : Option Nat :=
  if op < 0x10 then some 3
  else if op = 0x3E || op = 0x3F || op = 0x4E || op = 0x4F || op = 0x57 || op = 0x5E || op = 0x5F || op = 0x6B then none
  else if op < 0x70 then some 0
  else if op < 0x78 then some 2
  else if op = 0x78 then none
  else if op < 0x7C then some 0
  else if op < 0x80 then none
  else if op < 0xA0 then some 1
  else if op < 0xB0 then none
  else if op < 0xB3 then some 3
  else if op < 0xBA then some 1
  else if op < 0xC0 then none
  else if op < 0xCA then some 4
  else if op < 0xD0 then none
  else if op < 0xDA then some 5
  else if op < 0xE0 then none
  else if op < 0xE8 then some 3
  else none

/-! ## Bytes -/

/-- Why a word is no instruction (R55): fewer than eight bytes, the header marker, an unassigned opcode. -/
inductive Reject where
  | short | marker | illegalOpcode
  deriving DecidableEq, Repr

/-- The outcome of decoding bytes: an instruction with the bytes after it, or a rejection. -/
inductive Decoded where
  | instr (i : Instr) (rest : List Byte)
  | reject (r : Reject)
  deriving DecidableEq, Repr

/-- R3, R45: decodes the first instruction word of a list of bytes. -/
def decode (bs : List Byte) : Decoded :=
  if bs.length < 8 then .reject .short
  else
    let w := BitVec.ofNat 64 (leNat (bs.take 8))
    if opOf w = 0xFF then .reject .marker
    else match decodeWord w with
      | none => .reject .illegalOpcode
      | some i => .instr i (bs.drop 8)

/-- The instruction in the bits of a table row: one 64-bit word, stored little-endian (R3). -/
def decodeTableWord (nbits w : Nat) : Option Instr :=
  if nbits = 0 then none
  else match decode (leBytes 8 (w % 2 ^ nbits)) with
    | .instr i _ => some i
    | .reject _ => none

/-! ## The clause header (R45) -/

/-- R45: a clause header. -/
structure Header where
  cls : Nat
  count : Nat
  wait : Nat
  yield_ : Bool
  brt : Bool
  rsv : Bool
  deriving DecidableEq, Repr

/-- R45: the header a word holds; none without the marker. `rsv` says that the reserved bits are zero. -/
def headerOf (w : DWord) : Option Header :=
  if opOf w != 0xFF then none
  else
    some { cls := (w.extractLsb' 52 4).toNat, count := (w.extractLsb' 48 4).toNat + 1, wait := (w.extractLsb' 32 16).toNat,
           yield_ := w.getLsbD 31, brt := w.getLsbD 30, rsv := w.extractLsb' 0 30 == 0 }

/-- The word of a header with a class, an instruction count and BRT. -/
def headerWord (cls count : Nat) (brt : Bool) : DWord :=
  BitVec.ofNat 64 (0xFF00000000000000 + cls % 16 * 2 ^ 52 + (count - 1) % 16 * 2 ^ 48 + bn brt * 2 ^ 30)

end Sys2Proof
end

