-- ==== Sys2Proof/Machine/Image.lean ====
section
/-! DEFINITION. Images: `TEX` and `TEXF` (R264 to R269). -/
namespace Sys2Proof.Machine

/-- A ratio rounded to FP32 with RNE. -/
def ratio32 (n d : Nat) : Nat :=
  if n = 0 then 0
  else
    let k := Nat.log2 d + 64
    let q := n * 2 ^ k / d
    (fp32.round 1 false 0 false (2 * q + bn (n * 2 ^ k % d != 0)) (-(k : Int) - 1)).1

/-- The integer fifth root of x, bit by bit from bit n − 1. -/
def root5 (x : Nat) : Nat → Nat → Nat
  | 0, r => r
  | n + 1, r => root5 x n (if (r + 2 ^ n) ^ 5 ≤ x then r + 2 ^ n else r)

/-- R265: the sRGB decoding of c ÷ 255, correctly rounded: c ÷ (255 × 12.92) up to 0.04045, else
((c ÷ 255 + 0.055) ÷ 1.055)^2.4, a fifth root of an exact twelfth power. -/
def srgb (c : Nat) : Nat :=
  if c ≤ 10 then ratio32 (c * 100) (255 * 1292)
  else
    let x := (1000 * c + 14025) ^ 12 * 2 ^ 320
    let d := 269025 ^ 12
    let r := root5 (x / d) 65 0
    (fp32.round 1 false 0 false (2 * r + 1) (-65)).1

/-- R265: bytes of a texel format. -/
def texelBytes (t : Nat) : Nat := [1, 2, 4, 4, 2, 4, 8, 4, 8, 16, 2, 8].getD t 4

/-- R265: the channels R, G, B, A of a texel as FP32 patterns. -/
def texel (t : Nat) (bs : List Byte) : List Nat :=
  let x := leNat bs
  let b8 (i : Nat) : Nat := x / 256 ^ i % 256
  let b16 (i : Nat) : Nat := x / 65536 ^ i % 65536
  let b32 (i : Nat) : Nat := x / 2 ^ (32 * i) % 2 ^ 32
  let one := 0x3F800000
  let u8 (i : Nat) : Nat := ratio32 (b8 i) 255
  let h (i : Nat) : Nat := (fp32.pack 1 false 0 (fp16.val (b16 i))).1
  let u16 (i : Nat) : Nat := ratio32 (b16 i) 65535
  match t with
  | 0 => [u8 0, 0, 0, one]
  | 1 => [u8 0, u8 1, 0, one]
  | 2 => [u8 0, u8 1, u8 2, u8 3]
  | 3 => [srgb (b8 0), srgb (b8 1), srgb (b8 2), u8 3]
  | 4 => [h 0, 0, 0, one]
  | 5 => [h 0, h 1, 0, one]
  | 6 => [h 0, h 1, h 2, h 3]
  | 7 => [b32 0, 0, 0, one]
  | 8 => [b32 0, b32 1, 0, one]
  | 9 => [b32 0, b32 1, b32 2, b32 3]
  | 10 => [u16 0, 0, 0, one]
  | _ => [u16 0, u16 1, u16 2, u16 3]

/-- R264: an image descriptor, decoded. -/
structure Image where
  base : Nat
  w : Nat
  h : Nat
  d : Nat
  levels : Nat
  tfmt : Nat
  kind : Nat
  pitch : Nat
  deriving DecidableEq, Repr, Inhabited

/-- R264, R269: decodes an image descriptor; none when it is refused. -/
def image (bs : List Byte) (dim : Nat) : Option Image :=
  let q (i : Nat) : Nat := leNat ((bs.drop (8 * i)).take 8)
  let im : Image := { base := q 0, w := bits (q 1) 15 0 + 1, h := bits (q 1) 31 16 + 1, d := bits (q 1) 47 32 + 1,
                      levels := bits (q 1) 51 48, tfmt := bits (q 1) 61 56, kind := bits (q 1) 63 62, pitch := bits (q 2) 31 0 }
  if im.kind = dim && decide (im.tfmt ≤ 11) && bits (q 1) 55 52 == 0 && bits (q 2) 63 32 == 0 &&
      [3, 4, 5, 6, 7].all (fun i => q i == 0) && im.base % 128 == 0 && im.pitch % 128 == 0 &&
      decide (im.w * texelBytes im.tfmt ≤ im.pitch) && (im.kind != 0 || im.h == 1) && (decide (2 ≤ im.kind) || im.d == 1) then
    some im
  else none

/-- One mip level: its base, dimensions, row and slice pitch. -/
structure Level where
  base : Nat
  w : Nat
  h : Nat
  d : Nat
  row : Nat
  slice : Nat
  deriving DecidableEq, Repr, Inhabited

/-- R264: level k of an image. -/
def Image.level (im : Image) : Nat → Level
  | 0 => { base := im.base, w := im.w, h := im.h, d := im.d, row := im.pitch, slice := im.pitch * im.h }
  | k + 1 =>
    let p := im.level k
    let w := max 1 (im.w / 2 ^ (k + 1))
    let h := max 1 (im.h / 2 ^ (k + 1))
    let row := (w * texelBytes im.tfmt + 127) / 128 * 128
    { base := (p.base + p.slice * p.d + 127) / 128 * 128, w := w, h := h,
      d := if im.kind = 3 then max 1 (im.d / 2 ^ (k + 1)) else im.d, row := row, slice := row * h }

/-- R264: the address of a texel. -/
def Image.addr (im : Image) (k x y z : Nat) : Nat :=
  let v := im.level k
  v.base + z * v.slice + y * v.row + x * texelBytes im.tfmt

/-- R266: a sampler descriptor, decoded. -/
structure Sampler where
  linear : Bool
  mip : Nat
  mode : List Nat
  border : List Nat
  deriving DecidableEq, Repr, Inhabited

/-- R266: decodes a sampler descriptor; none when a reserved value stands in it. -/
def sampler (bs : List Byte) : Option Sampler :=
  let q (i : Nat) : Nat := leNat ((bs.drop (4 * i)).take 4)
  let x := q 0
  let ms := [bits x 6 4, bits x 9 7, bits x 12 10]
  if decide (bits x 1 0 ≤ 1) && decide (bits x 3 2 ≤ 2) && ms.all (· ≤ 3) && bits x 31 13 == 0 && [1, 2, 3].all (fun i => q i == 0) then
    some { linear := bits x 1 0 == 1, mip := bits x 3 2, mode := ms, border := [q 4, q 5, q 6, q 7] }
  else none

/-- R268: one weighted texel: its level and place (none is the border colour) and its weight num × 2^ex. -/
structure Tap where
  lvl : Nat
  at_ : Option (Nat × Nat × Nat)
  num : Nat
  ex : Int
  deriving DecidableEq, Repr, Inhabited

/-- R268: an index in an axis of size n under an address mode; none is the border colour. -/
def wrapIndex (mode n : Nat) (i : Int) : Option Nat :=
  match mode with
  | 0 => some (i % (n : Int)).toNat
  | 1 => some (clampInt 0 (n - 1) i).toNat
  | 2 =>
    let j := (i % (2 * n : Int)).toNat
    some (if j < n then j else 2 * n - 1 - j)
  | _ => if 0 ≤ i && i < n then some i.toNat else none

/-- R268: the indices of a normalised coordinate with their weights in 256ths. -/
def axisTaps (lin : Bool) (mode n : Nat) (neg : Bool) (m : Nat) (e : Int) : List (Option Nat × Nat) :=
  let sh := (1 - min e 0).toNat
  let one : Int := (2 ^ sh : Nat)
  let x : Int := scaleTo neg m e (-(sh : Int)) * n
  if lin then
    let x := x - (2 ^ (sh - 1) : Nat)
    let i := x / one
    let f := (x % one * 256 / one).toNat
    [(wrapIndex mode n i, 256 - f), (wrapIndex mode n (i + 1), f)]
  else [(wrapIndex mode n (x / one), 256)]

/-- R268: the layer a coordinate selects. -/
def layerOf (n : Nat) (neg : Bool) (m : Nat) (e : Int) : Nat := (clampInt 0 (n - 1) (roundInt 1 0 neg m e).1).toNat

/-- R268: the taps of one level, of weight `t` 256ths. -/
def levelTaps (im : Image) (sm : Sampler) (cs : List Fv) (k t : Nat) : List Tap :=
  let v := im.level k
  let axis (i n : Nat) : List (Option Nat × Nat) :=
    match cs.getD i default with
    | .fin neg m e => axisTaps sm.linear (sm.mode.getD i 0) n neg m e
    | _ => []
  let xs := axis 0 v.w
  let ys := if im.kind = 0 then [(some 0, 256)] else axis 1 v.h
  let zs : List (Option Nat × Nat) :=
    if im.kind = 3 then axis 2 v.d
    else if im.kind = 2 then (match cs.getD 2 default with
      | .fin neg m e => [(some (layerOf v.d neg m e), 256)]
      | _ => [])
    else [(some 0, 256)]
  (xs.flatMap fun x => ys.flatMap fun y => zs.map fun z =>
    ({ lvl := k, at_ := match x.1, y.1, z.1 with
        | some a, some b, some c => some (a, b, c)
        | _, _, _ => none
       num := x.2 * y.2 * z.2 * t, ex := -32 } : Tap)).filter fun p => p.num != 0

/-- R268: the levels a λ uses with their weights in 256ths. -/
def levelsOf (im : Image) (mip : Nat) (lam : Fv) : List (Nat × Nat) :=
  match lam with
  | .fin neg m e =>
    -- λ clamped to [0, LEVELS], in 2^sh-ths
    let sh := (1 - min e 0).toNat
    let one : Int := (2 ^ sh : Nat)
    let x := clampInt 0 (im.levels * one) (scaleTo neg m e (-(sh : Int)))
    if mip = 0 then [(0, 256)]
    else if mip = 1 then [((roundInt 1 0 false x.toNat (-(sh : Int))).1.toNat, 256)]
    else
      let k := (x / one).toNat
      let t := (x % one * 256 / one).toNat
      [(k, 256 - t), (min (k + 1) im.levels, t)]
  | _ => []

/-- R268: the exact weighted sum of a channel, rounded once. -/
def channelSum (vs : List (Nat × Tap)) : Nat :=
  let terms := vs.map fun v => (Fv.mul (fp32.val v.1) (.fin false v.2.num v.2.ex)).1
  match terms with
  | [] => 0
  | t :: ts => (fp32.pack 1 false 0 (ts.foldl (fun a b => (Fv.add 1 a b).1) t)).1

/-- The texel reads of taps. -/
def Image.reads (im : Image) (taps : List Tap) : List Nat := taps.filterMap fun t => t.at_.map fun p => im.addr t.lvl p.1 p.2.1 p.2.2

/-- A read of `n` bytes at an address aligned to `al`, or its fault. -/
def Env.texRead (e : Env) (l va n al free : Nat) : List Byte ⊕ LaneFault :=
  if (2 ^ 57 : Nat) < va + n then .inr (.cause 0x40 (BitVec.ofNat 64 va))
  else if va % al != 0 then .inr (.cause 0x41 (BitVec.ofNat 64 va))
  else match e.s.rangeFault e.wv.ctxn va n 0 e.wv.core with
    | some f => .inr (.xlate f)
    | none => .inl (e.s.gread e.wv.ctxn e.w l va n free)

/-- The image descriptor a lane names. -/
def Env.imageOf (e : Env) (f : FE) (l free : Nat) : Image ⊕ LaneFault :=
  let va := e.src64 f.b l
  match e.texRead l va 64 64 free with
  | .inr x => .inr x
  | .inl bs => match image bs (f.imm.toNat % 4) with
    | none => .inr (.cause 0x46 (BitVec.ofNat 64 va))
    | some im => .inl im

/-- Coordinate registers by DIM. -/
def dimRegs (dim : Nat) : Nat := [1, 2, 3, 3].getD dim 3

/-- The texels of taps, channel by channel, or the fault of a texel read. -/
def Env.texels (e : Env) (im : Image) (border : List Nat) (l free : Nat) : List Tap → List (List Nat × Tap) ⊕ LaneFault
  | [] => .inl []
  | t :: ts =>
    let one : List Nat ⊕ LaneFault := match t.at_ with
      | none => .inl border
      | some p => match e.texRead l (im.addr t.lvl p.1 p.2.1 p.2.2) (texelBytes im.tfmt) 1 free with
        | .inr x => .inr x
        | .inl bs => .inl (texel im.tfmt bs)
    match one with
    | .inr x => .inr x
    | .inl c => match e.texels im border l free ts with
      | .inr x => .inr x
      | .inl r => .inl ((c, t) :: r)

/-- Coordinate `i` of a lane. -/
def Env.coord (e : Env) (f : FE) (i l : Nat) : Nat := e.src constF32 (BitVec.ofNat 8 (f.a.toNat + i)) l

/-- R268: the four channels of `TEX` in a lane. -/
def Env.texLane (e : Env) (f : FE) (free l : Nat) : List Nat ⊕ LaneFault :=
  match e.imageOf f l free with
  | .inr x => .inr x
  | .inl im =>
    let sva := e.src64 f.c l
    match e.texRead l sva 32 32 free with
    | .inr x => .inr x
    | .inl sb => match sampler sb with
      | none => .inr (.cause 0x47 (BitVec.ofNat 64 sva))
      | some sm =>
        let n := dimRegs (f.imm.toNat % 4)
        let cs := (List.range n).map fun i => fp32.val (e.coord f i l)
        let lam := if f.imm.getLsbD 2 then fp32.val (e.coord f n l) else .fin false 0 0
        let finite : Fv → Bool
          | .fin .. => true
          | _ => false
        if !(lam :: cs).all finite then .inl (List.replicate 4 fp32.nan)
        else
          let taps := (levelsOf im sm.mip lam).flatMap fun k => if k.2 = 0 then [] else levelTaps im sm cs k.1 k.2
          match e.texels im sm.border l free taps with
          | .inr x => .inr x
          | .inl vs => .inl ((List.range 4).map fun ch => channelSum (vs.map fun v => (v.1.getD ch 0, v.2)))

/-- TEXF's four channels in a lane (R268). -/
def Env.texfLane (e : Env) (f : FE) (free l : Nat) : List Nat ⊕ LaneFault :=
  match e.imageOf f l free with
  | .inr x => .inr x
  | .inl im =>
    let k := e.src constInt f.c l
    let cd (i : Nat) : Int := if i < dimRegs im.kind then sx 32 (e.src constInt (BitVec.ofNat 8 (f.a.toNat + i)) l) else 0
    if im.levels < k then .inl [0, 0, 0, 0]
    else
      let v := im.level k
      let inside (x : Int) (n : Nat) : Bool := decide (0 ≤ x) && decide (x < n)
      if inside (cd 0) v.w && inside (cd 1) v.h && inside (cd 2) v.d then
        match e.texRead l (im.addr k (cd 0).toNat (cd 1).toNat (cd 2).toNat) (texelBytes im.tfmt) 1 free with
        | .inr x => .inr x
        | .inl bs => .inl (texel im.tfmt bs)
      else .inl [0, 0, 0, 0]

/-- TEX and TEXF: `xr` further coordinate registers; C is an address pair or a 32-bit level. -/
def formTexImm (f : FE) (tex : Bool) : Form :=
  let n := dimRegs (f.imm.toNat % 4) + bn (tex && f.imm.getLsbD 2)
  { rsv := bits f.imm.toNat 15 3 == 0 && (tex || !f.imm.getLsbD 2)
    ops := [{ dst 0 f.d 4 kV with align := 4 }, { src 1 f.a n kVWonly with align := 1 }, src 2 f.b 2 kVW,
            if tex then src 3 f.c 2 kVW else src 3 f.c] }
/-- The frame of the image instructions. -/
def texRun (fm : Form) (f : FE) (g : Env → Nat → Nat → List Nat ⊕ LaneFault) (s : State) : Out :=
  issueAfter fm f.pred [] (some f.mod.toNat) s fun e =>
    let (b, s) := e.s.fresh 4096
    match checkLanes e.L fun l => g e (b + 128 * l) l with
    | (rs, []) =>
      e.long (some f.mod.toNat) false (fun l =>
        { regs := (List.range 4).flatMap fun i => e.put f.d i l (((mget rs l).getD []).getD i 0) }) s
    | (_, fs) => e.laneFault e.s 0 fs
/-- TEX. -/
def formTex (f : FE) : Form := formTexImm f true
/-- TEX (R267, R268). -/
def execTex (f : FE) (s : State) : Out := texRun (formTex f) f (fun e => e.texLane f) s
/-- TEXF. -/
def formTexf (f : FE) : Form := formTexImm f false
/-- TEXF (R267, R268). -/
def execTexf (f : FE) (s : State) : Out := texRun (formTexf f) f (fun e => e.texfLane f) s

end Sys2Proof.Machine
end

