-- ==== Sys2Proof/Machine/Clause.lean ====
section
/-! DEFINITION. A whole clause at decode (R45 to R56): each instruction's form, the placement rules, the register rule of
R52, the latch rule of R339, and fetching a clause. -/
namespace Sys2Proof.Machine

/-- The form of an instruction and its predicate; an event has none. -/
def formOf (i : Instr) : Option (Form × BitVec 4) :=
  match i with
  | .nop f => some (formBare f, f.pred)
  | .bra f => some (formBra f, f.pred)
  | .brx f => some (formBrx f, f.pred)
  | .call f => some (formCall f, f.pred)
  | .callx f => some (formCallx f, f.pred)
  | .ret f => some (formBrx f, f.pred)
  | .meet f => some (formMeet f, f.pred)
  | .mvmeet f => some (formMvmeet f, f.pred)
  | .jmop f => some (formJmop f, f.pred)
  | .exit f => some (formBare f, f.pred)
  | .yield f => some (formBare f, f.pred)
  | .sleep f => some (formSleep f, f.pred)
  | .region f => some (formRegion f, f.pred)
  | .spawn f => some (formSpawn f, f.pred)
  | .launch f => some (formLaunch f, f.pred)
  | .waitkids f => some (formBare f, f.pred)
  | .mov f => some (formMov f, f.pred)
  | .movi f => some (formMovi f, f.pred)
  | .movw f => some (formMovw f, f.pred)
  | .sel f => some (formSel f, f.pred)
  | .iadd f => some (formArith f, f.pred)
  | .iaddc f => some (formCarry f, f.pred)
  | .isub f => some (formArith f, f.pred)
  | .isubb f => some (formCarry f, f.pred)
  | .imul f => some (formArith f, f.pred)
  | .imulh f => some (formS f, f.pred)
  | .imad f => some (formMad f, f.pred)
  | .imadw f => some (formImadw f, f.pred)
  | .iaddi f => some (formDAI f, f.pred)
  | .imin f => some (formS f, f.pred)
  | .imax f => some (formS f, f.pred)
  | .iabs f => some (formSat1 f, f.pred)
  | .ineg f => some (formSat1 f, f.pred)
  | .isad f => some (formMad f, f.pred)
  | .idp4 f => some (formIdp f, f.pred)
  | .idp2 f => some (formIdp f, f.pred)
  | .shl f => some (formShift f, f.pred)
  | .shr f => some (formShift f, f.pred)
  | .sar f => some (formShift f, f.pred)
  | .fsh f => some (formFsh f, f.pred)
  | .rot f => some (formS f, f.pred)
  | .lop3 f => some (formLop3 f, f.pred)
  | .andi f => some (formDAI f, f.pred)
  | .ori f => some (formDAI f, f.pred)
  | .xori f => some (formDAI f, f.pred)
  | .bfe f => some (formS f, f.pred)
  | .bfi f => some (formBfi f, f.pred)
  | .popc f => some (formUn f, f.pred)
  | .clz f => some (formUn f, f.pred)
  | .ctz f => some (formUn f, f.pred)
  | .brev f => some (formUn f, f.pred)
  | .iset f => some (formIset f, f.pred)
  | .iseti f => some (formIseti f, f.pred)
  | .plop f => some (formPlop f, f.pred)
  | .vote f => some (formVote f, f.pred)
  | .shfl f => some (formShfl f, f.pred)
  | .bcast f => some (formBcast f, f.pred)
  | .lea f => some (formLea f, f.pred)
  | .iaddw f => some (formIaddw f, f.pred)
  | .shw f => some (formShw f, f.pred)
  | .cvti f => some (formCvti f, f.pred)
  | .prmt f => some (formBfi f, f.pred)
  | .fadd f => some (formF2 f, f.pred)
  | .fmul f => some (formF2 f, f.pred)
  | .ffma f => some (formFfma f, f.pred)
  | .fmin f => some (formFmm f, f.pred)
  | .fmax f => some (formFmm f, f.pred)
  | .fclmp f => some (formFclmp f, f.pred)
  | .fset f => some (formFset f 1 7, f.pred)
  | .frnd f => some (formFrnd f, f.pred)
  | .faddi f => some (formFi f, f.pred)
  | .fmuli f => some (formFi f, f.pred)
  | .fclass f => some (formFclass f, f.pred)
  | .fscale f => some (formFscale f, f.pred)
  | .fexpt f => some (formDecomp f, f.pred)
  | .fmant f => some (formDecomp f, f.pred)
  | .dadd f => some (formD2 f, f.pred)
  | .dmul f => some (formD2 f, f.pred)
  | .dfma f => some (formDfma f, f.pred)
  | .dmin f => some (formDmm f, f.pred)
  | .dmax f => some (formDmm f, f.pred)
  | .dset f => some (formFset f 2 7, f.pred)
  | .drnd f => some (formDrnd f, f.pred)
  | .hadd2 f => some (formH2 f, f.pred)
  | .hmul2 f => some (formH2 f, f.pred)
  | .hfma2 f => some (formHfma2 f, f.pred)
  | .hmin2 f => some (formHmm f, f.pred)
  | .hmax2 f => some (formHmm f, f.pred)
  | .hset2 f => some (formFset f 1 15, f.pred)
  | .rcp f => some (formSfu f true true false, f.pred)
  | .rsq f => some (formSfu f false true false, f.pred)
  | .sqrt f => some (formSfu f true false false, f.pred)
  | .exp2 f => some (formSfu f false true false, f.pred)
  | .log2 f => some (formSfu f false false false, f.pred)
  | .sincy f => some (formSfu f false false false, f.pred)
  | .coscy f => some (formSfu f false false false, f.pred)
  | .tanh f => some (formSfu f false false false, f.pred)
  | .sigm f => some (formSfu f false false false, f.pred)
  | .drcp f => some (formSfu f true true true, f.pred)
  | .drsq f => some (formSfu f false true true, f.pred)
  | .f2i f => some (formF2i f, f.pred)
  | .i2f f => some (formI2f f, f.pred)
  | .f2f f => some (formF2f f, f.pred)
  | .f2fp f => some (formF2fp f, f.pred)
  | .mmaF16 f => some (formMma 0x70 f, f.pred)
  | .mmaBf16 f => some (formMma 0x71 f, f.pred)
  | .mmaE4 f => some (formMma 0x72 f, f.pred)
  | .mmaE5 f => some (formMma 0x73 f, f.pred)
  | .mmaZb8 f => some (formMma 0x74 f, f.pred)
  | .mmaZb5 f => some (formMma 0x75 f, f.pred)
  | .mmaZb3 f => some (formMma 0x76 f, f.pred)
  | .mmaI8 f => some (formMma 0x77 f, f.pred)
  | .zbpack f => some (formZbpack f, f.pred)
  | .zbunp f => some (formZbunp f, f.pred)
  | .zbexp f => some (formZbexp f, f.pred)
  | .ld f => some (formLd f, f.pred)
  | .st f => some (formSt f, f.pred)
  | .ldl f => some (formLdl f, f.pred)
  | .stl f => some (formStl f, f.pred)
  | .ldlw f => some (formLdlw f, f.pred)
  | .ldp f => some (formLdp f, f.pred)
  | .stp f => some (formStp f, f.pred)
  | .ldc f => some (formLdc f, f.pred)
  | .atom f => some (formAtom f true, f.pred)
  | .acas f => some (formAcas f true, f.pred)
  | .atoml f => some (formAtom f false, f.pred)
  | .acasl f => some (formAcas f false, f.pred)
  | .fence f => some (formFence f, f.pred)
  | .pref f => some (formPref f, f.pred)
  | .cctl f => some (formCctl f, f.pred)
  | .ldz f => some (formSeg f false, f.pred)
  | .stz f => some (formSeg f true, f.pred)
  | .fput f => some (formFput f, f.pred)
  | .fget f => some (formFget f, f.pred)
  | .ftry f => some (formFtry f, f.pred)
  | .lcopy f => some (formLcopy f, f.pred)
  | .lcopyo f => some (formLcopyo f, f.pred)
  | .tcopy f => some (formTcopy f, f.pred)
  | .tcopyo f => some (formTcopyo f, f.pred)
  | .tred f => some (formTred f, f.pred)
  | .tag f => some (formTag f, f.pred)
  | .tagq f => some (formTagq f, f.pred)
  | .acinit f => some (formAcinit f, f.pred)
  | .acadd f => some (formAcadd f, f.pred)
  | .acwait f => some (formAcwait f, f.pred)
  | .tex f => some (formTex f, f.pred)
  | .texf f => some (formTexf f, f.pred)
  | .bar f => some (formBar f, f.pred)
  | .barg f => some (formBarg f, f.pred)
  | .elect f => some (formElect f, f.pred)
  | .pbind f => some (formPbind f, f.pred)
  | .pld f => some (formPld f, f.pred)
  | .pldx f => some (formPldx f, f.pred)
  | .pst f => some (formPst f, f.pred)
  | .pstp f => some (formPstp f, f.pred)
  | .pstep f => some (formPstep f, f.pred)
  | .pqry f => some (formPqry f, f.pred)
  | .dock f => some (formDock f, f.pred)
  | .rtrace f => some (formRtrace f, f.pred)
  | .renq f => some (formRenq f, f.pred)
  | .rretire f => some (formRretire f, f.pred)
  | .rld f => some (formRld f, f.pred)
  | .rst f => some (formRst f, f.pred)
  | .rhit f => some (formRhit f, f.pred)
  | .rkey f => some (formRkey f, f.pred)
  | .racc f => some (formRacc f, f.pred)
  | .rstat f => some (formRstat f, f.pred)
  | .shld f => some (formShld f, f.pred)
  | .shset f => some (formShset f, f.pred)
  | .shget f => some (formShget f, f.pred)
  | .mxgemm f => some (formMxgemm f, f.pred)
  | .mxconv f => some (formMxconv f, f.pred)
  | .mxelt f => some (formMxelt f, f.pred)
  | .mxlda f => some (formMxlda f, f.pred)
  | .mxsta f => some (formMxsta f, f.pred)
  | .mxwait f => some (formMxwait f, f.pred)
  | .mxqry f => some (formMxqry f, f.pred)
  | .srd f => some (formSrd f, f.pred)
  | .swr f => some (formSwr f, f.pred)
  | .trap f => some (formTrap f, f.pred)
  | .tret f => some (formTret f, f.pred)
  | .measure f => some (formMeasure f, f.pred)
  | .clock f => some (formClock f, f.pred)
  | .ecnt f => some (formEcnt f, f.pred)
  | .signal f => some (formSignal f, f.pred)
  | .fifomapWrite _ _ => none
  | .issueSelect _ _ => none
  | .resultLands _ _ => none
  | .parkRelease _ _ => none
  | .takeTrap _ => none
  | .clauseReplay _ => none
  | .sleepExpiry _ => none
  | .teamAdmit _ => none
  | .gangPlace _ => none
  | .teamPark _ => none
  | .teamUnpark _ => none
  | .teamRetire _ => none
  | .octantModeSwitch _ _ _ => none
  | .octantDrainComplete _ _ => none
  | .lcopyComplete _ => none
  | .lcopyoComplete _ => none
  | .tcopyArrival _ _ => none
  | .tredArrival _ _ => none
  | .tcopyoComplete _ => none
  | .tileTransferAcknowledged _ => none
  | .mxeCommandStart _ => none
  | .mxeCommandComplete _ => none
  | .engineWatchdog _ => none
  | .mxeIslandPowerUp _ => none
  | .childGridDecode _ => none
  | .gridRetire _ => none
  | .graphNodeComplete _ _ _ => none
  | .nopPacket _ => none
  | .launchPacket _ => none
  | .graphPacket _ => none
  | .flowStart _ => none
  | .flowQuiesce _ => none
  | .flowStop _ => none
  | .copyPacket _ => none
  | .signalPacket _ => none
  | .waitPacket _ => none
  | .pstepPacket _ => none
  | .measurePacket _ => none
  | .receiptPacket _ => none
  | .fencePacket _ => none
  | .energyBudget _ => none
  | .energyAllowance _ => none
  | .markerPacket _ => none
  | .packetComplete _ _ => none
  | .waitReread _ => none
  | .waitTimeout _ => none
  | .queueSlotGrant _ => none
  | .queueMappingDone _ => none
  | .queueUnmap _ => none
  | .queueUnmapDone _ => none
  | .wakeRegisterWrite _ => none
  | .mbxbaseWrite _ => none
  | .mbxdoorWrite _ => none
  | .createContext => none
  | .suspend => none
  | .resume => none
  | .destroy => none
  | .receiptContext => none
  | .partition => none
  | .createQueue => none
  | .destroyQueue => none
  | .resetQueue => none
  | .logbookRead => none
  | .logbookClear => none
  | .keyRead => none
  | .contextQuiesced _ => none
  | .chainAppend _ => none
  | .aliasGenerationCreate => none
  | .preempt _ => none
  | .preemptComplete _ => none
  | .contextRestore _ => none
  | .rssizeWrite _ => none
  | .pfresolveRetry _ => none
  | .pfresolveFail _ => none
  | .invalidateRange _ => none
  | .invalidateContext _ => none
  | .invalidationComplete => none
  | .hostRegisterWrite _ _ => none
  | .dbgstopWrite _ => none
  | .lnkctlEnableSet _ => none
  | .lnkctlEnableClear _ => none
  | .lnkctlRetrain _ => none
  | .pageWalkComplete _ _ _ _ => none
  | .binPatienceExpiry _ => none
  | .batchDelivery _ => none
  | .berthRetarget _ => none
  | .spillReturn _ => none
  | .rootTaskCreate _ => none
  | .nodeStep _ => none
  | .ebcShareInterval _ _ => none
  | .energyCounterTick => none
  | .energyAttribution _ => none
  | .wearRefresh => none
  | .correctableError _ => none
  | .uncorrectableError _ _ _ _ => none
  | .unitSelfTestComplete _ _ => none
  | .pilotException _ _ _ _ => none
  | .pilotWatchdog _ => none
  | .pilotComplexRestart => none
  | .packageReset => none
  | .powerOn => none
  | .linkTrained _ _ => none
  | .linkTrainingTimeout _ => none
  | .linkRetrainTrigger _ => none
  | .linkRetrainTimeout _ => none
  | .hawserFlitReceive _ _ => none
  | .hawserNakReceive _ _ => none
  | .meshPacketDrop _ => none
  | .meshResend _ => none
  | .cxlMemAccess _ _ _ => none
  | .powerLoss => none
  | .mxeIslandPowerDown _ => none
  | .peerPackageReset => none
  | .firmwareUpdate _ _ => none
  | .reservedKindPacket _ => none
  | .unassignedMailboxOpcode => none

/-! ## Placement (R51, R52) -/

/-- R51: branches, by opcode: BRA, BRX, CALL, CALLX, RET, TRET. -/
def isBranch (op : Nat) : Bool := (decide (1 ≤ op) && decide (op ≤ 5)) || op == 0xE3
/-- R51: the opcodes that stand last in their clause. -/
def endsClause (op : Nat) : Bool :=
  isBranch op ||
    [0x09, 0x0A, 0x0B, 0x0D, 0x0E, 0x0F, 0x88, 0x89, 0x8A, 0x8B, 0x91, 0x92, 0x93, 0x94, 0x95, 0x96, 0x97, 0x98, 0x9C, 0xB0, 0xB1,
     0xB6, 0xB7, 0xB8, 0xC0, 0xC2, 0xD3, 0xD4, 0xD5, 0xD6, 0xD7, 0xE2, 0xE4, 0xE7].contains op
/-- R52: the instructions that can start a replay. -/
def canReplay (op : Nat) (f : Form) : Bool :=
  (decide (0x80 ≤ op) && decide (op ≤ 0x9F)) || (decide (0xB3 ≤ op) && decide (op ≤ 0xB9)) ||
    (decide (0xC0 ≤ op) && decide (op ≤ 0xC9)) || (decide (0xD0 ≤ op) && decide (op ≤ 0xD9)) ||
    [0xE4, 0xE7, 0x0D, 0x0E, 0xE0, 0xE1].contains op || f.ops.any Opd.indexed

/-- One instruction of a clause at decode: its word, opcode, form and predicate. -/
structure Slot where
  word : DWord
  op : Nat
  form : Form
  pred : BitVec 4

/-- R55 step 2: the cause an instruction word raises in a clause of a class with an allocation, or the instruction. -/
def slotOf (cls alloc : Nat) (w : DWord) : Slot ⊕ Nat :=
  let op := (opOf w).toNat
  if op = 0xFF then .inr 0x01
  else match (decodeWord w).bind formOf, opClass op with
    | some (f, p), some c =>
      if cls != 15 && cls != c then .inr 0x03
      else match f.cause p alloc with
        | some k => .inr k
        | none => .inl { word := w, op := op, form := f, pred := p }
    | _, _ => .inr 0x02

/-- Whether two register lists share one. -/
def shares (a b : List RegId) : Bool := a.any b.contains

/-- R52 over a clause: `before` are the registers earlier instructions read. -/
def regRule (alloc : Nat) : List RegId → List Slot → Bool
  | _, [] => true
  | before, x :: t =>
    let rd := x.form.reads x.pred alloc
    let wr := x.form.writes alloc
    !shares wr before && !(shares wr rd && t.any fun y => canReplay y.op y.form) && regRule alloc (before ++ rd) t

/-- R51: what must stand last does, and BRT says whether the last one is a branch. -/
def lastRule (brt : Bool) : List Slot → Bool
  | [] => true
  | [x] => brt == isBranch x.op
  | x :: t => !endsClause x.op && lastRule brt t

/-- R339: the latch over a clause: `held` is the opcode and byte-select of what fills it. -/
def latchRule : Option (Nat × Nat) → List Slot → Bool
  | _, [] => true
  | held, x :: t =>
    if 0x70 ≤ x.op && x.op ≤ 0x77 then
      let f := F3.of x.word
      let me := (x.op, if mmaZb x.op then f.fmt.toNat / 4 else 0)
      (match held with
       | some h => h == me
       | none => true) && latchRule (if f.reuse then some me else none) t
    else latchRule held t

/-- R55 step 2 over the instructions: the slots, or the first cause with its index. -/
def slotsOf (cls alloc : Nat) : Nat → List DWord → List Slot ⊕ (Nat × Nat)
  | _, [] => .inl []
  | n, w :: t => match slotOf cls alloc w with
    | .inr c => .inr (c, n)
    | .inl x => match slotsOf cls alloc (n + 1) t with
      | .inr c => .inr c
      | .inl xs => .inl (x :: xs)

/-- R55: the first cause a clause raises at decode, with the index of R56, none for a legal one; `all` says that the
words are the whole clause. -/
def clauseCause (h : Header) (alloc : Nat) (ws : List DWord) (all : Bool := true) : Option (Nat × Nat) :=
  if !h.rsv then some (0x04, 0xFF)
  else if !(decide (h.cls ≤ 5) || h.cls == 15) then some (0x03, 0xFF)
  else match slotsOf h.cls alloc 0 ws with
    | .inr c => some c
    | .inl xs => if !all || (lastRule h.brt xs && regRule alloc [] xs && latchRule none xs) then none else some (0x06, 0xFF)

/-- The index of the first MMA of a clause (R338). -/
def firstMma : Nat → List DWord → Option Nat
  | _, [] => none
  | n, w :: t => let op := (opOf w).toNat; if 0x70 ≤ op && op ≤ 0x77 then some n else firstMma (n + 1) t

/-! ## Fetching a clause (R55) -/

/-- A clause fetched: header word and instruction words; a translation fault or a decode fault with its index, each with the
instruction count for the fall-through address (log 156 where no header can be read). -/
inductive ClauseFetch where
  | ok (head : DWord) (words : List DWord)
  | xlate (f : TFault) (count : Nat)
  | bad (cause index count : Nat)
  deriving DecidableEq, Repr, Inhabited

/-- Fetches the words of a clause from index `n`, up to the first that cannot be fetched. -/
def State.fetchWords (s : State) (c va ag count : Nat) : Nat → Nat → List DWord × Option ClauseFetch
  | _, 0 => ([], none)
  | n, k + 1 => match s.fetch c (va + 8 * (n + 1)) ag with
    | .framing => ([], some (.bad 0x01 n count))
    | .bad f => ([], some (.xlate f count))
    | .word w => let (ws, x) := s.fetchWords c va ag count (n + 1) k; (w :: ws, x)

/-- R55: fetches and checks the clause at an address for a core; `k` of an answer is what the continue point counts past the header (R184):
without a header to read, one, and for a word without the mark of a header, its bits [51:48] and one (log 156). -/
def State.fetchClause (s : State) (c va ag alloc : Nat) : ClauseFetch :=
  match s.fetch c va ag with
  | .framing => .bad 0x01 0xFF 1
  | .bad f => .xlate f 1
  | .word hw => match headerOf hw with
    | none => .bad 0x01 0xFF (bits hw.toNat 51 48 + 1)
    | some h =>
      let (ws, x) := s.fetchWords c va ag h.count 0 h.count
      match clauseCause h alloc ws x.isNone, x with
      | some (k, n), _ => .bad k n h.count
      | none, some x => x
      | none, none => .ok hw ws

end Sys2Proof.Machine
end

