-- ==== Sys2Proof/Machine/Issue.lean ====
section
/-! DEFINITION. Issue selection (R154), results landing (R49), the end of parks (R50, R148), pending traps, replays and
sleeps (R53, R164, R427). -/
namespace Sys2Proof.Machine

/-! ## ISSUE_SELECT (R47, R154, R173) -/

/-- R154: the effective team priority of a wave (R395 for a berth). -/
def State.prioOf (s : State) (wv : Wave) : Nat :=
  let t := s.teamOf wv
  let cap := (s.ctx wv.ctxn).desc.prio
  if t.berthTeam then cap else min cap (s.gridOf t).prio

/-- The READY waves a quadrant may choose: not while a unit that they or the fetch of their clause need is under test (R445). -/
def State.ready (s : State) (core quad : Nat) : List (Nat × Wave) :=
  s.waves.filter fun w => w.2.core == core && w.2.quad == quad && w.2.st == .ready && w.2.clause.isNone &&
    (s.teamOf w.2).st == .resident && (s.ctx w.2.ctxn).runs && !s.coreTested core quad &&
    !s.rangeWaits w.2.ctxn ((w.2.lane ((lowest w.2.lastSet).getD 0)).pc).toNat 8 3 core

/-- R154: the order of choice, the least first. -/
def State.issueRank (s : State) (resident : Nat) (w : Nat × Wave) : Nat :=
  let old := decide (16 * resident ≤ w.2.waited)
  (bn (!old) * 4 + (if old then 0 else 3 - s.prioOf w.2 % 4)) * 2 ^ 128 + (2 ^ 64 - 1 - min w.2.waited (2 ^ 64 - 1)) * 2 ^ 64 + w.2.ctxNo

/-- R426, R429: a boundary trap of the next clause: breakpoint or debug-stop. -/
def Wave.stopHere (wv : Wave) (pc : DWord) : Option Nat :=
  if wv.trapped then none
  else if wv.dbg.ctl.getLsbD 1 && !wv.dbg.brkSkip && pc == wv.dbg.brkh ++ wv.dbg.brkl then some 0x00
  else if wv.dbg.stepPending then some 0x07
  else if wv.dbg.stopPending then some 0x0F
  else none

/-- R47: a clause begins to issue; a replayed breakpoint's mark goes with the first issue outside a trap (R429). -/
def Wave.startClause (wv : Wave) (pc head : DWord) (ws : List DWord) : Wave :=
  { wv with
    st := .issuing, waited := 0, dbg := { wv.dbg with brkSkip := wv.dbg.brkSkip && wv.trapped }
    lanes := mapIx (fun l ln => if inMask wv.lastSet l then ln.takeUp pc else ln) 0 wv.lanes
    clause := some { hdr := pc, head := head, words := ws, idx := 0, set := wv.lastSet, cond := none, rotate := false, pcs := [],
                     depths := [], ends := none, dropRec := 0, latch := [], freed := [], trap := wv.trapped,
                     sr0 := wv.lanes.map (·.srcnt) } }

/-- R47, R55, R338: a chosen wave issues its next clause, or takes what stops it. -/
def State.issueClause (s : State) (w : Nat) : State :=
  let wv := s.wave w
  let pc := (wv.lane ((lowest wv.lastSet).getD 0)).pc
  let info (n : Nat) : Word := BitVec.ofNat 32 n
  let nxt (n : Nat) : DWord := pc + BitVec.ofNat 64 (8 * (n + 1))
  let handler := wv.trapped && pc == (s.ctx wv.ctxn).desc.trapbase
  let lost (c : Nat) : State := s.ctxFault wv.ctxn 0x09
    { xpc := pc.toNat, xinfo := c, launch := s.launchOf wv, unit := wv.unit }
  match s.fetchClause wv.ctxn pc.toNat wv.core wv.alloc with
  | .xlate f k =>
    if resolvable f.kind then s.waitFaults w 3 [(f, wv.lastSet)] (nxt k)
    else if let some pa := s.goneFrame wv.ctxn f wv.core then s.frameLost wv.ctxn pa
    else if handler then lost (0x48 + f.kind)
    else s.takeTrap w wv.lastSet pc (nxt k) false (xlateCond f 3 wv.lastSet)
  | .bad c n k =>
    if handler && c == 0x01 then lost c
    else s.takeTrap w wv.lastSet pc (nxt k) false { cause := c, lanes := wv.lastSet, addr := 0, info := info n, after := false }
  | .ok head ws =>
    match wv.stopHere pc, firstMma 0 ws with
    | some c, _ =>
      let s := s.updWave w fun x => { x with dbg := { x.dbg with
        stepPending := x.dbg.stepPending && c != 0x07, stopPending := x.dbg.stopPending && c != 0x0F } }
      s.takeTrap w wv.lastSet pc pc (c != 0) { cause := c, lanes := wv.lastSet, addr := 0, info := 0xFF, after := c != 0 }
    | none, some n =>
      if wv.lastSet != BitVec.allOnes 32 then
        s.takeTrap w wv.lastSet pc (nxt ws.length) false { cause := 0x29, lanes := wv.lastSet, addr := 0, info := info n, after := false }
      else { (s.updWave w fun x => x.startClause pc head ws) with cur := w }
    | none, none => { (s.updWave w fun x => x.startClause pc head ws) with cur := w }

/-- ISSUE_SELECT (R154); the clause's instructions are the issue clocks of its context (R440, log 163). -/
def execIssueSelect (core quad : Nat) (s : State) : Out :=
  .next (if s.cur != 0 && (s.wave s.cur).clause.isSome then s
    else
      let rs := s.ready core quad
      match leastBy (s.issueRank (s.quadWaves core quad).length) rs with
      | none => s
      | some (w, _) =>
        let t := s.issueClause w
        (if (t.wave w).clause.isSome then
          rs.foldl (fun (t : State) x => if x.1 = w then t.addBusy (core / 4) (t.wave w).ctxn ((t.wave w).clause.map (·.words.length) |>.getD 0) else t.updWave x.1 fun y => { y with waited := y.waited + 1 }) t
        else t).tick)

/-! ## RESULT_LANDS (R49) -/

/-- A flight lands after the older results of its wave that carry no token of their own; a FENCE after every older one, since it completes
when each is acknowledged (R235, R412). -/
def Wave.mayLand (wv : Wave) (i : Nat) : Bool :=
  match wv.flights[i]? with
  | none => false
  | some f => if f.fence then i == 0 else (wv.flights.take i).all fun g => g.tok.isSome || g.hold != 0
/-- RESULT_LANDS (R49). -/
def execResultLands (wave i : Nat) (s : State) : Out :=
  .next (match mget s.waves wave with
    | none => s
    | some wv => match wv.flights[i]? with
      | none => s
      | some f =>
        if !wv.mayLand i then s
        else (s.tick.updWave wave fun _ => ({ wv with flights := wv.flights.eraseIdx i }).landFlight f).boundaryAt false wave)

/-! ## PARK_RELEASE (R50, R148) -/

/-- What the end of a wait delivers: the lanes that waited no longer, the words of each, flags for all of them, and flags of single lanes. -/
structure Released where
  lanes : List (Nat × List Nat) := []
  flags : Flags := 0
  own : List (Nat × Flags) := []
  regs : Option (List RegWrite) := none

/-- The place a parked lane captured. -/
def parkPlace (ws : List Nat) : LPlace := { team := ws.getD 0 0, off := ws.getD 1 0 }

/-- The lanes of a park that take the words `g` gives. -/
def freeLanes (p : Park) (ok : List Nat → Bool) (g : List Nat → List Nat) : Released :=
  { lanes := (p.lanes.filter fun l => ok l.2).map fun l => (l.1, g l.2) }

/-- R251, R290, R231: a parked local load: the lanes at FIFO windows go together, each other lane when its line lets it. -/
def State.loadRelease (s : State) (w : Bool) (f : FM) (behind : LaneMask) (p : Park) : Released × State :=
  let m := f.mod.toNat % 8
  let n := sizeOf8 m
  let (b, s) := s.fresh 1024
  let (fl, rest) := p.lanes.partition fun l => s.inFifo (parkPlace l.2)
  let now := rest.filter fun l => !s.loadWaits w (parkPlace l.2) && !inMask behind l.1
  let ops := windowOps (fl.map fun l => (l.1, parkPlace l.2)) n fun _ => none
  let (pops, s') := if s.fifoReady (ops.map (·.2)) && fl.all (fun l => !inMask behind l.1) then fifoRun ops s else ([], s)
  ({ lanes := pops.map (fun x => (x.1, loadWords m x.2)) ++
      now.map fun l => (l.1, loadWords m (s.lread (parkPlace l.2) n (b + 32 * l.1))) }, s')

/-- The lanes of a park in their turn: not held behind an earlier access of the lane (R231). -/
def inTurn (behind : LaneMask) (p : Park) : List (Nat × List Nat) := p.lanes.filter fun l => !inMask behind l.1
/-- R231, R247: the lanes of a held global store or read-modify-write that go now, by their places. -/
def globalTurn (behind : LaneMask) (p : Park) : List (Nat × List Nat) :=
  ascending (fun l _ => !inMask behind l) (fun a b => a.getD 1 0 == b.getD 1 0) p.lanes []
/-- R231, R238, R247: the lanes of a held local access of `n` bytes that go now: no engine owns their line. -/
def State.localTurn (s : State) (n : Nat) (behind : LaneMask) (p : Park) : List (Nat × List Nat) :=
  ascending (fun l x => !inMask behind l && (s.ownFault (parkPlace x) n 0).isNone) (fun a b => a.take 2 == b.take 2) p.lanes []
/-- Lanes that wait no longer and take no result. -/
def freed (ls : List (Nat × List Nat)) : Released := { lanes := ls.map fun l => (l.1, []) }

/-- R290, R231, R247: a parked local store: the lanes at FIFO windows go together; another lane stores in its turn, when no engine owns its
line (R238) and no lower lane of its bytes still waits. -/
def State.storeRelease (s : State) (f : FM) (behind : LaneMask) (p : Park) : Released × State :=
  let n := sizeOf8 (f.mod.toNat % 8)
  let bytes (l : Nat × List Nat) : List Byte := leBytes n (l.2.getD 2 0)
  let (fl, rest) := p.lanes.partition fun l => s.inFifo (parkPlace l.2)
  let now := s.localTurn n behind { p with lanes := rest }
  let ops := windowOps (fl.map fun l => (l.1, parkPlace l.2)) n fun l => (mget fl l).map fun x => bytes (l, x)
  let go := s.fifoReady (ops.map (·.2)) && fl.all fun l => !inMask behind l.1
  let s := if go then (fifoRun ops s).2 else s
  ({ lanes := ((if go then fl else []) ++ now).map fun l => (l.1, []) }, now.foldl (fun s l => s.lwrite (parkPlace l.2) (bytes l)) s)

/-- R231: a load that was held; what each lane captured is its address and its place (R281). -/
def State.heldLoad (s : State) (w : Nat) (f : FM) (behind : LaneMask) (p : Park) : Released × State :=
  let m := f.mod.toNat % 8
  let n := sizeOf8 m
  let (b, s) := s.fresh 1024
  ({ lanes := (inTurn behind p).map fun l =>
      (l.1, loadWords m (s.readHeld (s.wave w).ctxn w l.1 (l.2.headD 0) n (b + 32 * l.1) [l.2.getD 1 0])) }, s)

/-- R231: a store that was held. -/
def State.heldStore (s : State) (w : Nat) (f : FM) (behind : LaneMask) (p : Park) : Released × State :=
  let n := sizeOf8 (f.mod.toNat % 8)
  let ls := globalTurn behind p
  (freed ls, ls.foldl (fun s l => s.writeHeld (s.wave w).ctxn w l.1 (l.2.headD 0) [l.2.getD 1 0] (leBytes n (l.2.getD 2 0))) s)

/-- R231: a load of private memory that was held. -/
def State.heldPrivLoad (s : State) (w : Nat) (f : FM) (behind : LaneMask) (p : Park) : Released × State :=
  let m := f.mod.toNat % 8
  let (b, s) := s.fresh 1024
  ({ lanes := (inTurn behind p).map fun l => (l.1, loadWords m ((s.wave w).privRead l.1 (l.2.headD 0) (sizeOf8 m) (b + 32 * l.1))) }, s)
/-- R231: a store to private memory that was held. -/
def State.heldPrivStore (s : State) (w : Nat) (f : FM) (behind : LaneMask) (p : Park) : Released × State :=
  let ls := inTurn behind p
  (freed ls, ls.foldl (fun s l => privWrite w l.1 (l.2.headD 0) (leBytes (sizeOf8 (f.mod.toNat % 8)) (l.2.getD 1 0)) 0 s) s)

/-- The result words and flags of a read-modify-write that was held. -/
def rmwReleased (rs : List (Nat × Nat × Flags)) : Released :=
  { lanes := rs.map fun r => (r.1, [r.2.1 % 2 ^ 32, r.2.1 / 2 ^ 32])
    own := rs.map fun r => (r.1, r.2.2) }

/-- R231: the lanes of a global read-modify-write that was held, in ascending order, at their places. -/
def heldRmws (c w n : Nat) (g : Rmw) : List (Nat × List Nat) → State → List (Nat × Nat × Flags) × State
  | [], s => ([], s)
  | l :: t, s =>
    let (b, s) := s.fresh 8
    let x := leNat (s.readHeld c w l.1 (l.2.headD 0) n b [l.2.getD 1 0])
    let (y, fl) := g l.1 x
    let s := match y with
      | some v => s.writeHeld c w l.1 (l.2.headD 0) [l.2.getD 1 0] (leBytes n v)
      | none => s
    let (r, s) := heldRmws c w n g t s
    ((l.1, x, fl) :: r, s)
/-- R231: a global read-modify-write that was held. -/
def State.heldRmw (s : State) (w : Nat) (f : FM) (n : Nat) (cas : Bool) (behind : LaneMask) (p : Park) : Released × State :=
  let ls := globalTurn behind p
  let (rs, s) := heldRmws (s.wave w).ctxn w n (fun l => rmwOf f cas (((mget ls l).getD []).drop 2)) ls s
  (rmwReleased rs, s)

/-- R231: a local read-modify-write that was held. -/
def State.heldRmwLocal (s : State) (f : FM) (n : Nat) (cas : Bool) (behind : LaneMask) (p : Park) : Released × State :=
  let ls := s.localTurn n behind p
  let (rs, s) := localRmw n (fun l => rmwOf f cas (((mget ls l).getD []).drop 2)) (ls.map fun l => (l.1, parkPlace l.2)) s
  (rmwReleased rs, s)

/-- The places of held local lanes. -/
def heldPlaces (ls : List (Nat × List Nat)) : List (Nat × LPlace) := ls.map fun l => (l.1, parkPlace l.2)
/-- The operand that a held local lane captured. -/
def heldWord (ls : List (Nat × List Nat)) (l : Nat) : Nat := ((mget ls l).getD []).getD 2 0

/-- R263: a held segment, stored in the turn of all its lanes. -/
def State.heldSegment (s : State) (w : Nat) (behind : LaneMask) (p : Park) : Released × State :=
  match p.lanes with
  | [] => ({}, s)
  | (l, ws) :: _ =>
    if p.lanes.any fun x => inMask behind x.1 then ({}, s)
    else (freed p.lanes, s.writeHeld (s.wave w).ctxn w l (ws.headD 0) (ws.drop 3) (leBytes (ws.getD 1 0) (ws.getD 2 0)))

/-- R364: a held `SHLD`: the sixteen words of its register. -/
def State.heldShape (s : State) (w : Nat) (f : FE) (behind : LaneMask) (p : Park) : Released × State :=
  match p.lanes with
  | [] => ({}, s)
  | (l, ws) :: _ =>
    let n := feBits f 3 0
    if inMask behind l || (f.imm.getLsbD 4 && s.loadWaits false (parkPlace ws)) then ({}, s)
    else
      let (b, s) := s.fresh 64
      let bs := if f.imm.getLsbD 4 then s.lread (parkPlace ws) 64 b else s.readHeld (s.wave w).ctxn w l (ws.headD 0) 64 b [ws.getD 1 0]
      ({ lanes := [(l, [])], regs := some (shWrites n bs) }, s)

/-- R311: the lanes of a parked FGET that take, in ascending order; a lane whose line an engine owns meanwhile waits on (log 26). -/
def fgetRelease (seq : Nat) : List (Nat × List Nat) → State → List (Nat × List Nat) × State
  | [], s => ([], s)
  | l :: t, s =>
    let p := parkPlace l.2
    if s.futureFull p && !s.futureQueued seq p && (s.ownFault p 16 0).isNone then
      let (v, s) := s.futureTake p
      let (r, s) := fgetRelease seq t s
      ((l.1, [v % 2 ^ 32, v / 2 ^ 32]) :: r, s)
    else fgetRelease seq t s

/-- R50: what a park's condition lets go now; `behind` are the lanes held behind earlier accesses (R231). -/
def State.release (s : State) (w : Nat) (behind : LaneMask) (p : Park) : Released × State :=
  match p.instr with
  | .spawn _ => match s.spawnRoom w with
    | none => ({}, s)
    | some (r, q) => ({ lanes := p.lanes.map fun l => (l.1, [r]) }, s.spawnWave w r q p.lanes)
  | .ld f => s.heldLoad w f behind p
  | .st f => s.heldStore w f behind p
  | .ldp f => s.heldPrivLoad w f behind p
  | .stp f => s.heldPrivStore w f behind p
  | .stz _ => s.heldSegment w behind p
  | .signal f =>
    let ls := globalTurn behind p
    (freed ls, ls.foldl (fun s l => s.signalHeld w f l.1 (l.2.headD 0) [l.2.getD 1 0] (l.2.getD 2 0) (l.2.getD 3 0)) s)
  | .tag f =>
    let ls := s.localTurn 128 behind p
    (freed ls, tagRun f (heldPlaces ls) s)
  | .tagq _ =>
    let ls := inTurn behind p
    ({ lanes := ls.map fun l => (l.1, [s.tagWord (parkPlace l.2)]) }, pinPlaces (heldPlaces ls) s)
  | .acinit _ =>
    let ls := s.localTurn 16 behind p
    (freed ls, acinitRun (heldWord ls) (heldPlaces ls) s)
  | .acadd f =>
    let ls := s.localTurn 16 behind p
    let (rs, s) := acaddRun (f.mod.getLsbD 0) (heldWord ls) (heldPlaces ls) s
    ({ lanes := rs.map fun r => (r.1, [r.2]) }, s)
  | .atom f => s.heldRmw w f (atomWidth f.mod.toNat) false behind p
  | .acas f => s.heldRmw w f (if f.mod.getLsbD 0 then 8 else 4) true behind p
  | .atoml f => s.heldRmwLocal f (atomWidth f.mod.toNat) false behind p
  | .acasl f => s.heldRmwLocal f (if f.mod.getLsbD 0 then 8 else 4) true behind p
  | .ldl f => s.loadRelease false f behind p
  | .ldlw f => s.loadRelease true f behind p
  | .stl f => s.storeRelease f behind p
  | .fence _ => ({ lanes := (inTurn behind p).map fun l => (l.1, []) }, s)
  | .acwait _ =>
    (freeLanes { p with lanes := inTurn behind p } (fun x => (s.loc (parkPlace x).team).ctrDone (parkPlace x).off)
      fun x => [(s.loc (parkPlace x).team).ctrWord (parkPlace x).off 1], s)
  | .fget _ => let (ls, s) := fgetRelease p.seq (inTurn behind p) s; ({ lanes := ls }, s)
  | .shld f => s.heldShape w f behind p
  | .mxwait _ =>
    let before := ((p.lanes.headD (0, [])).2).getD 0 0
    if s.cmds.any fun k => k.2.wave == w && decide (k.1 < before) then ({}, s)
    else
      let d := s.mxReport w before
      ({ lanes := p.lanes.map fun l => (l.1, [d.word]), flags := d.flags }, s.mxClear w before)
  | .renq f => match (s.wave w).berth with
    | none => ({}, s)
    | some b => match s.renq (s.wave w).ctxn b.flow ((s.wave w).core / 4) (renqTask f) p.lanes p.seq with
      | none => ({}, s)
      | some s => ({ lanes := p.lanes.map fun l => (l.1, [okWord]) }, s)
  | _ => ({}, s)

/-- R50: the registers of a park's lanes take their words: a register's captured value is the index of its word, a
predicate keeps its own. -/
def Park.results (p : Park) (r : Released) : List RegWrite :=
  match r.regs with
  | some ws => ws.filter fun x => p.dst.any fun y => y.same x
  | none => p.dst.filterMap fun x =>
    match mget r.lanes x.lane with
    | none => none
    | some ws => some (if x.file = .p then x else { x with val := BitVec.ofNat 32 (ws.getD x.val.toNat 0) })

/-- PARK_RELEASE (R148): the lanes whose condition holds go on; with the last of them the token is released. While the team is parked the
wait goes on (R168, R311), and the team becomes runnable (R153). -/
def execParkRelease (wave i : Nat) (s : State) : Out :=
  .next (match mget s.waves wave with
    | none => s
    | some wv => match wv.parks[i]? with
      | none => s
      | some p =>
        let (r, s') := s.release wave (if p.orders then wv.waiting Park.orders i else 0) p
        if r.lanes.isEmpty || !(s.ctx wv.ctxn).runs then s
        else if !(s.teamOf wv).onCore then s.markRunnable wv.team
        else if let some pa := p.gone s (r.lanes.map (·.1)) then s.frameLost wv.ctxn pa
        else
          let ws := p.results r
          let fl := p.flags ++ (if r.flags = 0 then [] else r.lanes.map fun l => (l.1, r.flags)) ++ r.own.filter fun x => x.2 != 0
          let rest := p.lanes.filter fun l => (mget r.lanes l.1).isNone
          let s' := s'.tick
          if rest.isEmpty then
            (s'.updWave wave fun x =>
              { x with parks := x.parks.eraseIdx i
                       flights := x.flights ++ [{ tok := p.tok, hold := p.hold, writes := ws, flags := fl, fence := p.isFence }] }).boundaryAt false wave
          else
            s'.updWave wave fun x =>
              { x with parks := updAt x.parks i fun y => { y with lanes := rest, flags := fl, dst := y.dst.filter fun d => (mget r.lanes d.lane).isNone }
                       flights := x.flights ++ [{ tok := none, hold := 0, writes := ws, flags := [] }] })

/-! ## TAKE_TRAP, CLAUSE_REPLAY, SLEEP_EXPIRY -/

/-- TAKE_TRAP (R427, R279): a stopped clause's fault was answered `fail`; or a boundary trap is due. It waits while the team is off its core
or the context does not run (R437). A handler whose first clause cannot be fetched is lost (R427). -/
def execTakeTrap (wave : Nat) (s : State) : Out :=
  .next (match mget s.waves wave with
    | none => s
    | some wv =>
      if wv.clause.isSome || wv.faultWait != [] || !(s.ctx wv.ctxn).runs then s
      else if !(s.teamOf wv).onCore then (if wv.pend.isEmpty then s else s.markRunnable wv.team)
      else
        let pc := (wv.lane ((lowest wv.lastSet).getD 0)).pc
        match wv.pend with
        | (_, c) :: _ =>
          if wv.trapped && pc == (s.ctx wv.ctxn).desc.trapbase && bits c.info.toNat 9 8 = 3 then
            (s.updWave wave fun x => { x with pend := [] }).ctxFault wv.ctxn 0x09
              { xpc := pc.toNat, xinfo := c.cause, launch := s.launchOf wv, unit := wv.unit }
          else (s.updWave wave fun x => { x with pend := [] }).takeTrap wave wv.lastSet pc wv.pendNxt false c
        | [] => if wv.st == .ready && s.stepDue wave wv.lastSet then s.takeStep wave wv.lastSet pc else s)

/-- CLAUSE_REPLAY (R53, R279): a clause whose faults are resolved may issue again from its first instruction. -/
def execClauseReplay (wave : Nat) (s : State) : Out :=
  .next (match mget s.waves wave with
    | none => s
    | some wv => if wv.clause.isSome || wv.faultWait != [] || wv.pend != [] || wv.st != .parked then s else s.boundaryAt false wave)

/-- SLEEP_EXPIRY (R164), also of the interval a trap interrupted. -/
def execSleepExpiry (wave : Nat) (s : State) : Out :=
  .next (match mget s.waves wave with
    | none => s
    | some wv =>
      let past (t : Option Nat) : Bool := t.any fun t => decide (t ≤ s.now)
      if past wv.sleep || past wv.xsleep then
        (s.tick.updWave wave fun x => { x with sleep := x.sleep.filter fun t => !decide (t ≤ s.now)
                                               xsleep := x.xsleep.filter fun t => !decide (t ≤ s.now) }).boundaryAt false wave
      else s)

end Sys2Proof.Machine
end

