-- ==== Sys2Proof/Machine/Mailbox.lean ====
section
/-! DEFINITION. The host mailbox (R116) and its commands: contexts (R74 to R79, R95), queues (R102, R112), the Logbook and the
key store (R117, R118); the measurement chain's appends (R84, R85); registers of the host with rows of their own. -/
namespace Sys2Proof.Machine

/-! ## The ring (R116) -/

/-- MBXBASE_WRITE (R116). -/
def execMbxbaseWrite (v : DWord) (s : State) : Out :=
  .next (s.hostWrite (.mbxbase v) fun s => { s with host := { s.host with mbxbase := v, submitted := 0, taken := 0 } })
/-- MBXDOOR_WRITE (R116): a value that does not exceed the taken count changes nothing. -/
def execMbxdoorWrite (v : DWord) (s : State) : Out :=
  .next (s.hostWrite (.mbxdoor v) fun s => if v.toNat ≤ s.host.taken then s else { s with host := { s.host with submitted := v.toNat } })

/-- The entry the device takes next. -/
def State.mbxEntry (s : State) : List Byte := s.pread true (s.host.mbxbase.toNat + 64 * (s.host.taken % 256)) 64
/-- The entry is taken. -/
def State.mbxTaken (s : State) : State := { s with host := { s.host with taken := s.host.taken + 1 } }
/-- The command at hand completes with a status. -/
def State.mbxDone (s : State) (code detail : Nat) : State := (s.mbxStatus s.host.taken code detail).mbxTaken
/-- The area of `n` bytes that an operand names in host memory: aligned, inside the 52-bit physical space. -/
def hostArea (a align n : Nat) : Bool := a % align == 0 && decide (a + n ≤ 2 ^ 52)
/-- The descriptor of `n` bytes that an operand names by its device physical address (log 20). -/
def Dev.area (d : Dev) (a n : Nat) : Bool := a % n == 0 && decide (d.base ≤ a) && decide (a + n ≤ d.base + Config.hbmBytes)

/-- R116: takes the next entry when its opcode is one of `ops`. `mask` says which bits of a byte carry an operand; `chk` lists
the operands' conditions with their offsets; the least failing offset completes the command malformed. A command that must wait
is not taken. -/
def mailbox (ops : Nat → Bool) (mask : Nat → Nat) (chk : State → List Byte → List (Bool × Nat)) (run : State → List Byte → State)
    (s : State) : Out :=
  .next (
    let e := s.mbxEntry
    if !s.hostUp || s.host.bootstat != 1 || s.dev.pilotDown.isSome || s.host.submitted ≤ s.host.taken || s.awaits .mbx || !ops (field e 0 1) then s
    else
      let free (k : Nat) : Nat := if k = 0 || (4 ≤ k && k < 8) then 255 else mask k
      let res := ((List.range 64).filter fun k => Nat.land (field e k 1) (255 - free k) != 0)
      let bad := res ++ ((chk s e).filter fun x => !x.1).map (·.2)
      let s' := match leastBy id bad with
        | some k => s.mbxDone 8 (0x8000 + k)
        | none => run s e
      if s'.host.taken = s.host.taken && !s'.awaits .mbx then s else s'.tick)

/-- The bytes of an 8-byte operand at an offset. -/
def maskAt (off n k : Nat) : Nat := if off ≤ k && k < off + n then 255 else 0
/-- The bytes of a 12-bit id at 0x08. -/
def maskId (k : Nat) : Nat := if k = 8 then 255 else if k = 9 then 15 else 0
/-- The 12-bit id of an entry. -/
def entryId (e : List Byte) : Nat := field e 8 2 % 4096

/-- UNASSIGNED_MAILBOX_OPCODE (R116). -/
def execUnassignedMailboxOpcode (s : State) : Out :=
  mailbox (fun o => !([1, 2, 3, 4, 5, 6, 0x10, 0x11, 0x12, 0x20, 0x21, 0x22] : List Nat).contains o) (fun _ => 255) (fun _ _ => [])
    (fun s _ => s.mbxDone 8 0x8000) s

/-! ## Contexts (R74 to R78) -/

/-- The state of a context; one never created is DESTROYED. -/
def State.ctxSt (s : State) (c : Nat) : CtxState := ((mget s.ctxs c).map (·.st)).getD .destroyed
/-- R74: the descriptor in 128 bytes. -/
def ctxDescOf (d : List Byte) : CtxDesc :=
  let w (o : Nat) : Nat := field d o 8
  { asroot := Nat.land (w 0) 0x000FFFFFFFFFF000, pairctx := bitAt (w 8) 34, rcpt := bitAt (w 8) 33, meas := bitAt (w 8) 32
    prio := bits (w 8) 25 24, part := bits (w 8) 23 16, trapbase := BitVec.ofNat 64 (w 0x10), allow := w 0x18 % 2 ^ 32
    planetab := w 0x20, stagecnt := bits (w 0x28) 31 16, planecnt := w 0x28 % 65536, stagetab := w 0x30, logbase := w 0x38
    loglen := w 0x40 % 2 ^ 32, spillbase := w 0x48, spillsize := w 0x50, nonce := BitVec.ofNat 256 (field d 0x58 32) }
/-- R75: a power of two from 64 to 16,777,216. -/
def logLenOk (n : Nat) : Bool := (List.range 19).any fun k => n == 64 * 2 ^ k
/-- R75: the conditions on a descriptor in ascending offset. -/
def State.descChecks (s : State) (d : List Byte) : List (Bool × Nat) :=
  let w (o : Nat) : Nat := field d o 8
  let x := ctxDescOf d
  [(bits (w 0) 63 52 == 0 && bits (w 0) 11 0 == 0, 0),
   (bits (w 8) 63 35 == 0 && bits (w 8) 31 26 == 0 && bits (w 8) 15 12 == 0 && s.ctxSt (w 8 % 4096) == .destroyed &&
     s.dev.mask x.part != 0 && (!x.rcpt || x.meas) && (!x.pairctx || s.dev.paired), 8),
   (w 0x10 % 8 == 0, 0x10), (w 0x18 / 2 ^ 32 == 0, 0x18), (w 0x20 % 64 == 0, 0x20),
   (w 0x28 / 2 ^ 32 == 0 && decide (x.stagecnt ≤ 4096) && decide (x.planecnt ≤ 256), 0x28),
   (w 0x30 % 64 == 0, 0x30), (!x.meas || w 0x38 % 128 == 0, 0x38),
   (w 0x40 / 2 ^ 32 == 0 && (!x.meas || logLenOk x.loglen), 0x40), (w 0x48 % 0x200000 == 0, 0x48),
   (w 0x50 % 0x200000 == 0, 0x50), (w 0x78 == 0, 0x78)]

/-- R76, R83: a new context. -/
def State.newCtx (s : State) (id : Nat) (d : CtxDesc) : Ctx :=
  { st := .created, desc := d, chain := chainHead0 id d.part (s.dev.mask d.part).toNat s.keys.fwDigest d.nonce, count := 0
    receipts := 0, nextLaunch := 1, nextCode := 1, measured := [], events := 0, summary := 0, home := s.dev.index, serial := s.keys.creates + 1
    cmd := none, preempting := false, saved := false, firstEvent := none, appends := [], objs := [], regions := [], energy := 0
    hist := [], avgEst := [], residentSince := 0 }

/-- R77, R83, R87: an accepted descriptor makes a context, the log's digest and, on a pair, the peer's FIRMWARE record. -/
def State.createCtx (s : State) (id : Nat) (d : CtxDesc) : State :=
  let s1 := { s with ctxs := mset s.ctxs id (s.newCtx id d), keys := { s.keys with creates := s.keys.creates + 1 } }
  let s2 := if d.pairctx then s1.record1 id { type := 7, subject := s.keys.fwVersion.toNat, addr := 0, len := 0, aux := 1,
                                               digest := s.dev.peerDigest, waiter := .none } else s1
  if !d.meas then s2.mbxDone 0 0
  else match s1.rangeFault id (d.logbase + 16) 48 1 with
    | some f => if resolvable f.kind then s.cpWait id f 1 .mbx else s.mbxDone 7 f.cause
    | none => (s2.svwrite id (d.logbase + 16) (digestBytes s.keys.fwDigest)).mbxDone 0 0

/-- A command of a context waits for an earlier one of the same context (R78). -/
def State.cmdPending (s : State) (c : Nat) : Bool := ((mget s.ctxs c).bind (·.cmd)).isSome

/-- CREATE_CONTEXT (R75). -/
def execCreateContext (s : State) : Out :=
  mailbox (· == 0x01) (maskAt 8 8) (fun s e => [(s.dev.area (field e 8 8) 128, 8)]) (fun s e =>
    let d := s.pread false (field e 8 8) 128
    let id := field d 8 2 % 4096
    if s.cmdPending id then s
    else match (s.descChecks d).find? fun x => !x.1 with
      | some (_, off) => s.mbxDone 8 off
      | none => s.createCtx id (ctxDescOf d)) s

/-- A context command with the id at 0x08: when none is pending, `run` by the context's state. -/
def ctxCommand (op : Nat) (run : State → Nat → CtxState → State) (s : State) : Out :=
  mailbox (· == op) maskId (fun _ _ => []) (fun s e =>
    let c := entryId e
    if s.cmdPending c then s else run s c (s.ctxSt c)) s

/-- R112: the queues of a context leave their slots when it is QUIESCING. -/
def Queue.suspend (q : Queue) : Queue :=
  match q.st with
  | .idleUnmapped | .runnableUnmapped => { q with st := .suspended }
  | .mapping | .mappedActive | .mappedIdle => { q with st := .unmapping, unmapTo := .suspended }
  | .unmapping => if q.unmapTo = .unmapped then { q with unmapTo := .suspended } else q
  | _ => q
/-- R77: an ACTIVE context begins to quiesce, for SUSPEND or DESTROY. -/
def State.quiesce (s : State) (c : Nat) (destroy : Bool) : State :=
  let slot := s.host.taken
  ({ s with queues := mmap s.queues fun _ q => if q.ctx = c then q.suspend else q }.updCtx c fun x =>
    { x with st := .quiescing, cmd := some { slot := slot, destroy := destroy }, preempting := true, saved := false }).mbxTaken

/-- SUSPEND (R77). -/
def execSuspend (s : State) : Out :=
  ctxCommand 0x02 (fun s c st => if st == .active then s.quiesce c false else s.mbxDone 6 0) s

/-- RESUME (R77): the queues return to the mapping states; CONTEXT_RESTORE brings the teams back (R438). -/
def execResume (s : State) : Out :=
  ctxCommand 0x03 (fun s c st =>
    if st == .suspended then
      let s' := s.updCtx c fun x => { x with st := .active }
      ({ s' with queues := mmap s.queues fun k (q : Queue) => if q.ctx = c && q.st == QState.suspended then { q with st := s.unmapped k } else q }).mbxDone 0 0
    else s.mbxDone 6 0) s

/-- R421: the pair is trained when a Hawser port is open, the digests agree and neither package holds a context. -/
def State.tryPair (s : State) : State :=
  let open_ (p : Nat) : Bool :=
    let st := (s.ports.getD p default).st
    st == .up || st == .degraded
  let free := Config.peerFree s.ctr
  let s := { s with dev := { s.dev with peerFree := free } }
  if (open_ 1 || open_ 2) && s.dev.peerDigest == s.keys.fwDigest && free && s.ctxs.all (fun c => c.2.st == .destroyed) then
    { s with dev := { s.dev with paired := true, high := s.dev.index == 1 } }
  else if !s.dev.paired && s.ctxs.all (fun c => c.2.st == .destroyed) then { s with dev := { s.dev with high := false } }
  else s

/-- R77: DESTROYED: everything the context had is scrubbed; its queues go with it. -/
def State.scrub (s : State) (c : Nat) : State :=
  let s := s.stopWork c
  let qs := mkeys s.queues fun q => q.ctx == c
  { (s.updCtx c fun x => { x with st := .destroyed, cmd := none, preempting := false, saved := false, appends := [], objs := [],
                                  regions := [], avgEst := [], hist := [] }) with
    grids := s.grids.filter fun g => g.2.ctx != c
    flows := s.flows.filter fun f => f.2.ctx != c
    queues := mmap s.queues fun _ q => if q.ctx = c then { q with st := .destroyed, slot := none, pkts := [], doneIdx := [] } else q
    host := { s.host with latch := s.host.latch.filter fun q => !qs.contains q }
    page := { s.page with tlb := s.page.tlb.filter fun t => t.ctx != c } }.tryPair

/-- DESTROY (R77). -/
def execDestroy (s : State) : Out :=
  ctxCommand 0x04 (fun s c st =>
    match st with
    | .active => s.quiesce c true
    | .created | .suspended | .faulted => if (mget s.ctxs c).isSome then (s.scrub c).mbxDone 0 0 else s.mbxDone 6 0
    | _ => s.mbxDone 6 0) s

/-- CONTEXT_QUIESCED (R77): no team resident, copies drained, MXE commands stopped. -/
def execContextQuiesced (c : Nat) (s : State) : Out :=
  .next (
    let x := s.ctx c
    let idle := !s.cmds.any fun k => k.2.ctx == c && k.2.st == .running
    if x.st == .quiescing && x.saved && idle && (s.heldTeams c).isEmpty then
      let s := { s with queues := mmap s.queues fun _ (q : Queue) =>
        if q.ctx = c && q.st == QState.unmapping && q.unmapTo == UnmapTo.suspended then { q with st := .suspended, slot := none } else q }
      let s := s.updCtx c fun x => { x with st := .suspended, cmd := none }
      let s := match x.cmd with
        | some k => (if k.destroy then s.scrub c else s).mbxStatus k.slot 0 0
        | none => s
      s.tick
    else s)

/-- RECEIPT_CONTEXT (R95, R77, R101): a receipt of a FAULTED context, taken when all of its EVENT records are in the chain. -/
def execReceiptContext (s : State) : Out :=
  mailbox (· == 0x05) (fun k => max (maskId k) (max (maskAt 0x10 8 k) (maskAt 0x20 32 k)))
    (fun _ e => [(field e 0x10 8 % 4096 == 0 && decide (field e 0x10 8 + 4096 ≤ 2 ^ 57), 0x10)]) (fun s e =>
    let c := entryId e
    let dest := field e 0x10 8
    if s.cmdPending c then s
    else if s.ctxSt c != .faulted then s.mbxDone 6 0
    else if !(s.ctx c).desc.rcpt then s.mbxDone 3 0
    else match s.agentFault c dest 4096 1 with
      | some f => if resolvable f.kind then s.cpWait c f 1 .mbx else s.mbxDone 8 0x8010
      | none =>
        if (s.ctx c).appends.any (·.type == 8) then s
        else match s.receipt c dest ((e.drop 0x20).take 32) with
        | (false, s) => s.mbxDone 4 0
        | (true, s) => s.mbxDone 0 0) s

/-- PARTITION (R79). -/
def execPartition (s : State) : Out :=
  mailbox (· == 0x06) (fun k => if k = 8 then 7 else if k = 12 then 255 else 0) (fun _ _ => []) (fun s e =>
    let p := field e 8 1
    let m := BitVec.ofNat 8 (field e 12 1)
    let new := mapIx (fun i x => if i = p then m else x &&& ~~~m) 0 s.dev.masks
    let affected (i : Nat) : Bool := new.getD i 0 != s.dev.masks.getD i 0
    if s.ctxs.any fun c => c.2.st != .destroyed && affected c.2.desc.part then s.mbxDone 9 0
    else ({ s with dev := { s.dev with masks := new } } : State).mbxDone 0 0) s

/-! ## Queues (R102, R112) -/

/-- R102: the conditions on a queue descriptor in ascending offset. -/
def queueChecks (d : List Byte) : List (Bool × Nat) :=
  let w (o : Nat) : Nat := field d o 8
  [(w 0 % 4096 == 0, 0), (w 8 / 2 ^ 32 == 0 && bits (w 8) 15 12 == 0, 8), (w 0x10 % 64 == 0, 0x10),
   (decide (6 ≤ w 0x18) && decide (w 0x18 ≤ 16), 0x18), (w 0x28 == 0 && w 0x30 == 0 && w 0x38 == 0, 0x28)]
/-- R102: a new queue; WRITE is what the control block holds. -/
def queueOf (d : List Byte) (c write : Nat) : Queue :=
  let w (o : Nat) : Nat := field d o 8
  { ctx := c, priv := bitAt (w 8) 19, hostRing := bitAt (w 8) 18, prio := bits (w 8) 17 16, ring := w 0, ctl := w 0x10
    logSize := w 0x18, irqMsg := BitVec.ofNat 64 (w 0x20), st := .idleUnmapped, slot := none, unmapTo := .unmapped, write := write
    decode := 0, retire := 0, faultStatus := 0, fsOwed := false, pkts := [], doneIdx := [], mappedAt := 0, idleAt := 0 }

/-- CREATE_QUEUE (R102). -/
def execCreateQueue (s : State) : Out :=
  mailbox (· == 0x10) (maskAt 8 8) (fun s e => [(s.dev.area (field e 8 8) 64, 8)]) (fun s e =>
    let d := s.pread false (field e 8 8) 64
    let c := bits (field d 8 8) 31 20
    let q := field d 8 2 % 4096
    let ctl := field d 0x10 8
    let st := s.ctxSt c
    match (queueChecks d).find? fun x => !x.1 with
    | some (_, off) => s.mbxDone 8 off
    | none =>
      if s.cmdPending c then s
      else if !(st == .created || st == .active || st == .suspended) then s.mbxDone 6 0
      else if ((mget s.queues q).map (·.st != .destroyed)).getD false then s.mbxDone 9 0
      else match s.blockFault c ctl with
        | some (f, acc) => if resolvable f.kind then s.cpWait c f acc .mbx else s.mbxDone 8 0x10
        | none =>
          let x := queueOf d c (s.svnum c ctl 8)
          ({ (s.svwrite c (ctl + 8) (List.replicate 32 0)) with queues := mset s.queues q x }.unlatch q).mbxDone 0 0) s

/-- A queue command with the id at 0x08. -/
def queueCommand (op : Nat) (run : State → Nat → Queue → State) (s : State) : Out :=
  mailbox (· == op) maskId (fun _ _ => []) (fun s e =>
    match mget s.queues (entryId e) with
    | none => s.mbxDone 6 0
    | some x => if x.st == .destroyed then s.mbxDone 6 0 else run s (entryId e) x) s

/-- DESTROY_QUEUE (R112). -/
def execDestroyQueue (s : State) : Out :=
  queueCommand 0x11 (fun s q x =>
    if x.retire < x.decode then s.mbxDone 9 0
    else match x.st with
      | .idleUnmapped | .runnableUnmapped | .suspended | .faulted =>
        ((s.updQueue q fun y => { y with st := .destroyed, slot := none }).unlatch q).mbxDone 0 0
      | .mappedIdle | .mappedActive => (s.updQueue q fun y => { y with st := .unmapping, unmapTo := .destroyed }).mbxDone 0 0
      | _ => s.mbxDone 6 0) s

/-- RESET_QUEUE (R112, R106). -/
def execResetQueue (s : State) : Out :=
  queueCommand 0x12 (fun s q x =>
    if x.st != .faulted || s.ctxSt x.ctx == .faulted then s.mbxDone 6 0
    else match s.blockFault x.ctx x.ctl with
      | some (f, acc) => if resolvable f.kind then s.cpWait x.ctx f acc .mbx else s.mbxDone 7 f.cause
      | none =>
        let w := s.svnum x.ctx x.ctl 8
        let s := s.updQueue q fun y => { y with st := .idleUnmapped, slot := none, unmapTo := .unmapped, write := w, decode := w,
                                                 retire := w, fsOwed := false, pkts := [], doneIdx := [] }
        let s := (s.svwrite x.ctx (x.ctl + 8) (leBytes 8 w)).svwrite x.ctx (x.ctl + 0x10) (leBytes 8 w)
        ((s.putFaultStatus q 0).settleQueue q).mbxDone 0 0) s

/-! ## The Logbook and the key store (R117, R118) -/

/-- R118: the 1 MiB of the Logbook; a slot that holds no record reads as zeros. -/
def HostUnit.logbook (h : HostUnit) : List Byte :=
  leBytes 4 h.logIdx ++ leBytes 4 h.logCount ++ List.replicate 4088 0 ++
    (List.range 255).flatMap fun i => (mget h.logRecs i).getD (List.replicate 4096 0)
/-- LOGBOOK_READ (R118). -/
def execLogbookRead (s : State) : Out :=
  mailbox (· == 0x20) (maskAt 8 8) (fun _ e => [(hostArea (field e 8 8) 4096 0x100000, 8)]) (fun s e =>
    (s.pwrite true (field e 8 8) s.host.logbook).mbxDone 0 0) s
/-- LOGBOOK_CLEAR (R118). -/
def execLogbookClear (s : State) : Out :=
  mailbox (· == 0x21) (fun _ => 0) (fun _ _ => []) (fun s _ =>
    ({ s with host := { s.host with logCount := 0 } } : State).mbxDone 0 0) s

/-- KEY_READ (R117). -/
def execKeyRead (s : State) : Out :=
  mailbox (· == 0x22) (maskAt 8 16) (fun s e =>
    let item := field e 8 1
    let gen := field e 12 4
    [(decide (item ≤ 3) && field e 9 3 == 0, 8), (if item = 2 then (mget s.keys.genDigests gen).isSome else gen == 0, 12),
     (hostArea (field e 16 8) 4096 0x4000, 16)]) (fun s e =>
    let bs := s.keys.item (field e 8 1) (field e 12 4)
    (s.pwrite true (field e 16 8) (leBytes 8 bs.length ++ leBytes 8 0 ++ bs)).mbxDone 0 0) s

/-! ## CHAIN_APPEND (R84, R85) -/

/-- R97: EVENTS, saturating. -/
def bumpEvents (x : DWord) : DWord := if x.toNat % 65536 = 0xFFFF then x else x + 1
/-- R84: the oldest record that waits enters the chain: the index it takes and the context after. -/
def Ctx.append (x : Ctx) (r : ChainRec) : Ctx :=
  let r := if r.type = 8 then { r with subject := x.events } else r
  { x with chain := chainNext x.chain r x.count, count := x.count + 1, appends := x.appends.drop 1
           events := if r.type = 8 then x.events + 1 else x.events
           summary := if r.type = 8 then bumpEvents x.summary else x.summary }
/-- R85: the entry and the head are written to the log. -/
def State.logAppend (s : State) (c : Nat) (r : ChainRec) : State :=
  let x := s.ctx c
  let r := if r.type = 8 then { r with subject := x.events } else r
  (s.svwrite c (x.desc.logbase + 128 + 128 * (x.count % x.desc.loglen)) (r.entry x.count)).svwrite c x.desc.logbase (leBytes 8 (x.count + 1))
/-- R91: what waits on an append goes on. -/
def State.appended (s : State) (c idx : Nat) (w : Waiter) : State :=
  let s : State := match w with
    | .flight v tok ds => (s.landOn v tok (ds.map fun (r : RegWrite) => { r with val := BitVec.ofNat 32 (idx % 2 ^ 28) })).boundaryAt false v
    | _ => s
  (s.settleGrids c).settleFlows c
/-- R85: the log of a context is full. -/
def State.logFull (s : State) (c : Nat) : Bool :=
  let x := s.ctx c
  (x.count + 2 ^ 64 - s.svnum c (x.desc.logbase + 8) 8) % 2 ^ 64 == x.desc.loglen
/-- The faults of a log append: the tail, the entry, the head. -/
def State.logFault (s : State) (c : Nat) : Option (TFault × Access) :=
  let x := s.ctx c
  let at_ (a n : Nat) (acc : Access) : Option (TFault × Access) := (s.agentFault c a n acc).map fun f => (f, acc)
  (at_ (x.desc.logbase + 8) 8 0).orElse fun _ =>
    (at_ (x.desc.logbase + 128 + 128 * (x.count % x.desc.loglen)) 128 1).orElse fun _ => at_ x.desc.logbase 8 1

/-- CHAIN_APPEND (R84, R85): a log that cannot be written sends the context to FAULTED; what a FAULTED context still appends
goes to the chain. -/
def execChainAppend (c : Nat) (s : State) : Out :=
  .next (match (s.ctx c).appends with
    | [] => s
    | r :: _ =>
      let idx := (s.ctx c).count
      if s.serviceTested 0x9A || s.page.faults.any fun f => f.ctx == c && f.agents.contains .log then s
      else match s.logFault c with
        | some (f, acc) =>
          if resolvable f.kind then s.cpWait c f acc .log
          else if (s.ctx c).st == .active || (s.ctx c).st == .quiescing || (s.ctx c).st == .suspended then
            (s.ctxFault c 0xA7 { xaddr := f.va, xinfo := f.kind, unit := 0xFFFF9A }).tick
          else ((s.updCtx c (·.append r)).appended c idx r.waiter).tick
        | none =>
          if s.logFull c then s
          else (((s.logAppend c r).updCtx c (·.append r)).appended c idx r.waiter).tick)

/-! ## Registers of the host (R387, R429) -/

/-- RSSIZE_WRITE (R387): ignored while any context exists; only a multiple of 32 from 32 to 256 is a size. -/
def execRssizeWrite (v : DWord) (s : State) : Out :=
  .next (s.hostWrite (.rssize v) fun s =>
    let n := v.toNat % 512
    if s.ctxs.all (fun c => c.2.st == .destroyed) && n % 32 == 0 && decide (32 ≤ n) && decide (n ≤ 256) then
      { s with host := { s.host with rssize := n } }
    else s)

/-- DBGSTOP_WRITE (R429). -/
def execDbgstopWrite (v : DWord) (s : State) : Out :=
  .next (s.hostWrite (.dbgstop v) fun s =>
    (s.wavesOf (v.toNat % 4096)).foldl
      (fun (s : State) w => s.updWave w fun x => { x with dbg := { x.dbg with stopPending := true } }) s)

end Sys2Proof.Machine
end

