-- ==== Sys2Proof/Machine/Pages.lean ====
section
/-! DEFINITION. The host and the walkers (R277 to R282): answers to fault records, invalidations, the registers of R281, and
walks that end on their own. -/
namespace Sys2Proof.Machine

/-! ## Answers (R279, R282) -/

/-- An unanswered record that the host has seen. -/
def State.faultNamed (s : State) (tok : Nat) : Option FaultRec := s.page.faults.find? fun f => f.token == tok && f.written
/-- A record is answered; one that waits for room in the ring may be written. -/
def State.dropFault (s : State) (tok : Nat) : State :=
  { s with page := { s.page with faults := s.page.faults.filter fun f => f.token != tok } }

/-- R279: an agent is answered retry. A wave replays when its last record is answered; a traversal and a queue go on; the
others make their access again. -/
def State.retryAgent (tok : Nat) (s : State) (a : FaultAgent) : State :=
  match a with
  | .wave w =>
    let wv := s.wave w
    if !wv.faultWait.contains tok then s
    else
      let rest := wv.faultWait.filter (· != tok)
      let s := s.updWave w fun x => { x with faultWait := rest, pend := if rest.isEmpty then [] else mdel x.pend tok }
      if rest.isEmpty then { s with agenda := s.agenda ++ [.clauseReplay w] } else s
  | .ray r => s.updRec r fun x => { x with waits := false }
  | .queue q => if (s.queue q).fsOwed then s.putFaultStatus q (s.queue q).faultStatus else s.settleQueue q
  | _ => s

/-- R279: the record of a MEASURE's buffer was answered fail: the clause the wave stands at ends with MEASURE (R93). -/
def State.measureAt (s : State) (w : Nat) : Bool :=
  let wv := s.wave w
  match s.fetchClause wv.ctxn (wv.lane ((lowest wv.lastSet).getD 0)).pc.toNat wv.core wv.alloc with
  | .ok _ ws => ((ws.getLast?).map fun x => (opOf x).toNat == 0xE4).getD false
  | _ => false

/-- R279: a fault record is of a page of a measured buffer, or of one that a waiting MEASURE names. -/
def State.onMeasured (s : State) (f : FaultRec) : Bool :=
  (s.ctx f.ctx).measured.any (fun b => decide (b.1 < f.page + f.size) && decide (f.page < b.1 + b.2)) ||
    f.agents.any fun a => match a with
      | .wave w => f.access != 3 && s.measureAt w
      | _ => false
/-- R84, R279: the EVENT of a fault that waves or an engine command are answered fail for on such a page; what packets, rays and logs append
at a failure is their own. -/
def State.failEvent (s : State) (f : FaultRec) : State :=
  let who := f.agents.findSome? fun a => match a with
    | .wave w => some (0x48, s.wave w, (s.wave w).unit)
    | .cmd n => (mget s.cmds n).map fun k => (0x50, s.wave k.wave, 0xFFFF40 + k.cluster)
    | _ => none
  match who with
  | some (base, wv, unit) =>
    if s.onMeasured f then s.event f.ctx (base + f.kind) { xaddr := f.va, launch := s.launchOf wv, unit := unit } else s
  | none => s

/-- R279: a wave is answered fail: the trap its fault becomes is due, with the lanes and the address of the record answered (log 169). -/
def State.failWave (s : State) (f : FaultRec) (w : Nat) : State :=
  let wv := s.wave w
  if !wv.faultWait.contains f.token then s
  else
    let s := s.updWave w fun x => { x with faultWait := [], pend := x.pend.filter fun p => p.1 == f.token }
    { s with agenda := s.agenda ++ [.takeTrap w] }

/-- R106, R279: a packet is answered fail: its work ends with the status the access fails with; a completion write that
fails is not made; a STOP ends its graph. -/
def State.failPkt (s : State) (q i cause : Nat) : State :=
  match mget (s.queue q).pkts i with
  | none => s
  | some p => match p.done with
    | some _ => s.passStage q i (some cause)
    | none =>
      if p.kind = 0x03 && p.word 0x38 % 4 = 2 then
        (match s.flows.find? fun f => f.2.stops.contains (q, i) with
         | some f => s.flowFail q i f.1 cause
         | none => s.pktDone q i 7 cause)
      else s.pktDone q i p.onFail.1 (if p.onFail.1 = 7 then cause else p.onFail.2)

/-- R116: the mailbox command at hand is answered fail. -/
def State.failMbx (s : State) (cause : Nat) : State :=
  let op := field s.mbxEntry 0 1
  if op = 0x05 then s.mbxDone 8 0x8010 else if op = 0x10 then s.mbxDone 8 0x10 else s.mbxDone 7 cause

/-- R85, R279: a log write is answered fail. -/
def State.failLog (s : State) (f : FaultRec) : State :=
  let x := s.ctx f.ctx
  if x.st == .active || x.st == .quiescing || x.st == .suspended then s.ctxFault f.ctx 0xA7 { xaddr := f.va, xinfo := f.kind, unit := 0xFFFF9A }
  else match x.appends with
    | r :: _ => (s.updCtx f.ctx (·.append r)).appended f.ctx x.count r.waiter
    | [] => s

/-- R279: an agent is answered fail. -/
def State.failAgent (f : FaultRec) (s : State) (a : FaultAgent) : State :=
  let cause := 0x50 + f.kind
  match a with
  | .wave w => s.failWave f w
  | .ray r => s.loseRay r cause f.va
  | .cmd n => match mget s.cmds n with
    | some k => if k.st == .running then s.stopCmd n k cause else s
    | none => s
  | .queue q =>
    let x := s.queue q
    if x.fsOwed then s.updQueue q fun y => { y with fsOwed := false }
    else if x.st == .faulted || x.st == .destroyed then s else s.queueFail q cause
  | .pkt q i => s.failPkt q i cause
  | .node q i n => (s.pktBad q i 7 cause).nodeDone q i n
  | .grid g => match mget s.grids g with
    | some x => if x.teams = 0 then s.childFail g else s.gridRetired g (some cause)
    | none => s
  | .log => s.failLog f
  | .mbx => s.failMbx cause
  | .service => s

/-- R114: an agent of the command processor, with the queue that the event of its answer names; none for another agent. -/
def State.pilotAgent (s : State) (a : FaultAgent) : Option (Option Nat) :=
  match a with
  | .queue q | .pkt q _ | .node q _ _ => some (some q)
  | .grid g => some (some ((mget s.grids g).getD default).origin.queue)
  | .mbx => some none
  | _ => none
/-- R279, R114: an answer reaches an agent; one of the command processor takes it as an event of kind fault. -/
def State.answerAgent (retry : Bool) (f : FaultRec) (s : State) (a : FaultAgent) : State :=
  match s.pilotAgent a with
  | some q => s.post 2 q (.answer retry f a)
  | none => if retry then State.retryAgent f.token s a else State.failAgent f s a
/-- R279: a pilot takes an answer. -/
def State.takeAnswer (s : State) (retry : Bool) (f : FaultRec) (a : FaultAgent) : State :=
  (if retry then State.retryAgent f.token s a else State.failAgent f s a).tick

/-- PFRESOLVE_RETRY (R279). -/
def execPfresolveRetry (tok : Nat) (s : State) : Out :=
  .next (s.hostWrite (.retry tok) fun s => match s.faultNamed tok with
    | none => s
    | some f => f.agents.foldl (State.answerAgent true f) (s.dropFault tok))
/-- PFRESOLVE_FAIL (R279). -/
def execPfresolveFail (tok : Nat) (s : State) : Out :=
  .next (s.hostWrite (.fail tok) fun s => match s.faultNamed tok with
    | none => s
    | some f => f.agents.foldl (State.answerAgent false f) ((s.failEvent f).dropFault tok))

/-! ## Invalidations and registers (R281) -/

/-- A write of INVCMD: an invalidation starts, with INVADDR as it is. -/
def State.startInv (s : State) (v : DWord) : State := { s with page := { s.page with invs := s.page.invs ++ [(s.page.invaddr, v)] } }
/-- INVALIDATE_RANGE (R281): INVCMD with bit 16 clear. -/
def execInvalidateRange (v : DWord) (s : State) : Out := .next (if v.getLsbD 16 then s else s.hostWrite (.invalidate v) (·.startInv v))
/-- INVALIDATE_CONTEXT (R281): INVCMD with bit 16 set. -/
def execInvalidateContext (v : DWord) (s : State) : Out := .next (if v.getLsbD 16 then s.hostWrite (.invalidate v) (·.startInv v) else s)
/-- R281: a cached translation that an invalidation removes. -/
def TlbEnt.removedBy (t : TlbEnt) (a v : Nat) : Bool :=
  t.ctx == v % 4096 && (bitAt v 16 || (decide (t.va < a + pageSize (bits v 15 12)) && decide (a < t.va + t.size)))
/-- R281: an access of the context of an invalidation, of a copy or a held one of a lane, that was translated before and is still to be
made in the range. -/
def State.storesOwed (s : State) (a v : Nat) : Bool :=
  let meets (x n : Nat) : Bool := bitAt v 16 || (decide (x < a + pageSize (bits v 15 12)) && decide (a < x + n))
  s.copies.any (fun j => j.2.ctx == v % 4096 && j.2.owes && j.2.chunks.any fun x => meets x.addr x.len) || s.heldIn (v % 4096) fun _ x n => meets x n
/-- INVALIDATION_COMPLETE (R281): the oldest invalidation completes when every access that used a translation it removes is performed. -/
def execInvalidationComplete (s : State) : Out :=
  .next (match s.page.invs with
    | [] => s
    | (a, v) :: t =>
      if s.storesOwed a.toNat v.toNat then s
      else
        { s with page := { s.page with invs := t, invdone := (s.page.invdone + 1) % 2 ^ 64
                                       tlb := s.page.tlb.filter fun e => !e.removedBy a.toNat v.toNat }, ctr := s.ctr + 1 })

/-- HOST_REGISTER_WRITE (R281): the registers with no row of their own; a write elsewhere changes nothing. -/
def execHostRegisterWrite (off : Nat) (v : DWord) (s : State) : Out :=
  .next (s.hostWrite (.register off v) fun s =>
    if off = 0x2000 then { s with page := { s.page with pfrbase := v } }
    else if off = 0x2010 then { s with page := { s.page with pfrtail := v } }.flushRing
    else if off = 0x2020 then { s with page := { s.page with invaddr := v } }
    else s)

/-- R278: the TLB of an agent: of a core, of the cluster of a Lighter, a traversal unit or an MXE; a service agent has none. -/
def agentOf (agent : Nat) : Nat :=
  if agent < 256 then agent
  else
    let i := agent % 256
    if i < 0x80 then 256 + i % 64 else svc
/-- R278: an entry enters one TLB; in a full one it replaces another, which one is open. -/
def State.fillOne (s : State) (owner : Nat) (p : TlbEnt) : State :=
  let n := (s.page.tlb.filter fun t => t.owner == owner).length
  let full := (if owner < 256 then 64 else 4096) ≤ n
  let rest := if full then
      let mine := s.page.tlb.filter fun t => t.owner == owner
      s.page.tlb.filter (fun t => t.owner != owner) ++ mine.eraseIdx (Config.tlbVictim s.ctr % n)
    else s.page.tlb
  { s with page := { s.page with tlb := rest ++ [{ p with owner := owner }] } }
/-- R278: a walk for a core fills its TLB and its cluster's; one for an engine its cluster's; a service agent keeps nothing. -/
def State.fill (s : State) (ag : Nat) (p : TlbEnt) : State :=
  if ag < 256 then (if s.page.tlb.any fun t => t.owner == 256 + ag / 4 && t.ctx == p.ctx && t.va == p.va then s else s.fillOne (256 + ag / 4) p).fillOne ag p
  else if ag < svc then s.fillOne ag p
  else s

/-- PAGE_WALK_COMPLETE (R278, R279): a walk for an agent fills the caches, or writes a fault record; an agent below 256 is a core,
one from 256 on an engine or service agent of island agent − 256. -/
def execPageWalkComplete (c va acc agent : Nat) (s : State) : Out :=
  .next (
    let x := s.ctx c
    let live := (mget s.ctxs c).isSome && x.st != .destroyed
    if !live || 2 ^ 57 ≤ va || 4 ≤ acc || (s.cached c va (agentOf agent)).isSome then s
    else match walk s c x.desc.part va acc 4 x.desc.asroot with
      | .ok _ _ page => (s.fill (agentOf agent) page).tick
      | .bad k lv sz =>
        if !resolvable k then s
        else
          let core := if agent < 256 then agent else 0xFF
          let island := if agent < 256 then agent / 4 else agent % 256
          (s.raiseFault c { va := va, kind := k, level := lv, size := sz } acc core island .service).2.tick)

end Sys2Proof.Machine
end

