-- ==== Sys2Proof/Machine/Link.lean ====
section
/-! DEFINITION. Links: the states of the three ports (R422 to R424), Hawser flits (R417, R418), drops on the mesh (R410), the
training of a pair (R421), accesses of the host over CXL.mem (R415, R416), and the Logbook's crash records (R118). -/
namespace Sys2Proof.Machine

/-! ## Crash records (R118) -/

/-- R119: a queue in flight. -/
def Queue.inFlight (q : Queue) : Bool :=
  q.st != .destroyed && (q.st == .mapping || q.st == .mappedActive || q.st == .unmapping || decide (q.retire < q.decode))
/-- R118: what a crash record tells: the pilot, the kind, and the cause, program counter and address of its exception, open where there is
none. -/
structure Crash where
  pilot : Nat
  kind : Nat
  exc : Option (Nat × Nat × Nat) := none
/-- A free 64-bit value (log 1). -/
def freeDouble (n : Nat) : Nat := (Config.freeWord n).toNat + 2 ^ 32 * (Config.freeWord (n + 1)).toNat
/-- R118: the event in hand: kind and queue id; of the mailbox, or where no pilot holds one, what is told is open. -/
def State.inHand (s : State) (c : Crash) (free : Nat) : Nat :=
  let x := Nat.land (Config.freeWord free).toNat 0x0FFF00FF
  match s.host.events with
  | e :: _ => if c.kind = 4 then x else e.kind % 256 + 65536 * (e.queue.getD (x / 65536) % 4096)
  | [] => x
/-- R118: the bytes of a crash record; its last part is firmware-private. -/
def State.crashBytes (s : State) (c : Crash) (free : Nat) : List Byte :=
  let qs := (mkeys s.queues Queue.inFlight).take 256
  let (cause, pc, addr) := c.exc.getD (freeDouble (free + 1), freeDouble (free + 3), freeDouble (free + 5))
  let body := [0x4C, 0x4E, 0x43, 0x52, 0x41, 0x53, 0x48, 0x31] ++ leBytes 8 s.host.logSeq ++ leBytes 4 s.keys.bootCount ++
    leBytes 1 c.pilot ++ leBytes 1 c.kind ++ leBytes 2 0 ++ leBytes 8 cause ++ leBytes 8 pc ++ leBytes 8 addr ++ leBytes 8 s.now ++
    leBytes 8 (s.inHand c free) ++ digestBytes s.keys.fwDigest ++ leBytes 4 qs.length ++ leBytes 4 0 ++
    (List.range 256).flatMap (fun i => leBytes 2 (qs.getD i 0)) ++ leBytes 3460 (Config.crashPrivate s.host.logSeq).toNat
  body ++ leBytes 4 (crc32 body).toNat
/-- R118: writes a crash record, round robin. -/
def State.crash (s : State) (c : Crash) : State :=
  let (b, s) := s.fresh 7
  let h := s.host
  { s with host := { h with logRecs := mset h.logRecs (h.logIdx % 255) (s.crashBytes c b), logIdx := (h.logIdx + 1) % 255
                            logCount := min 255 (h.logCount + 1), logSeq := h.logSeq + 1 } }

/-! ## Flits (R417, R418) -/

/-- CRC-64 with the polynomial of ECMA-182, one byte (log 18). -/
def crc64Byte (c : DWord) (b : Byte) : DWord :=
  (List.range 8).foldl (fun c _ => if c.getLsbD 63 then (c <<< 1) ^^^ 0x42F0E1EBA9EA3693 else c <<< 1) (c ^^^ (b.zeroExtend 64 <<< 56))
/-- CRC-64 of bytes. -/
def crc64 (bs : List Byte) : DWord := bs.foldl crc64Byte 0
/-- R417: bits of a flit. -/
def flitBits (f : BitVec 2048) (hi lo : Nat) : Nat := bits f.toNat hi lo
/-- R417: the CRC of a flit holds. -/
def flitOk (f : BitVec 2048) : Bool := (crc64 (leBytes 248 f.toNat)).toNat == flitBits f 2047 1984
/-- R417, R5: the reserved fields of a flit are zero and its type is assigned (log 158). -/
def flitLegal (f : BitVec 2048) : Bool :=
  decide (flitBits f 13 10 ≤ 4) && flitBits f 15 14 == 0 && flitBits f 31 26 == 0 && flitBits f 63 48 == 0
/-- R417: the flit with a number, a type, an acknowledgement, returned slots (requests in the low byte) and message slots. -/
def flitOf (seq type ack cred : Nat) (slots : BitVec 1920) : BitVec 2048 :=
  let body := seq % 1024 + type % 16 * 2 ^ 10 + ack % 1024 * 2 ^ 16 + cred % 65536 * 2 ^ 32 + slots.toNat * 2 ^ 64
  BitVec.ofNat 2048 (body + (crc64 (leBytes 248 body)).toNat * 2 ^ 1984)
/-- A 16-bit count, saturating (R424). -/
def sat16 (n : Nat) : Nat := min 0xFFFF n

/-- R422: a port that is open to traffic. -/
def Port.isOpen (p : Port) : Bool := p.st == .up || p.st == .degraded
/-- R418: the port may send a new flit: it is open, and fewer than 512 flits wait for their acknowledgement. -/
def Port.canSend (p : Port) : Bool := p.isOpen && decide (p.unacked.length < 512)
/-- R417, R418: a message goes out in the next flit, which is kept until it is acknowledged. -/
def Port.put (p : Port) (cred : Nat) (m : Nat × BitVec 1920) : Port :=
  let f := flitOf p.nextSeq m.1 p.acked cred m.2
  { p with nextSeq := (p.nextSeq + 1) % 1024, unacked := p.unacked ++ [f], out := p.out ++ [f] }
/-- The messages that wait go out in order while flits may be sent. -/
def Port.pump (cred : Nat) : List (Nat × BitVec 1920) → Port → Port
  | [], p => { p with queued := [] }
  | m :: t, p => if p.canSend then Port.pump cred t (p.put cred m) else { p with queued := m :: t }
/-- R418: a message is sent, behind those that wait. -/
def Port.send (p : Port) (cred : Nat) (m : Nat × BitVec 1920) : Port := Port.pump cred (p.queued ++ [m]) p
/-- R418: what remains unacknowledged after a sequence number. -/
def afterAck (ack : Nat) (fs : List (BitVec 2048)) : List (BitVec 2048) :=
  match fs.findIdx? fun f => flitBits f 9 0 == ack with
  | some i => fs.drop (i + 1)
  | none => fs
/-- R418: flits are acknowledged; what waits goes on. -/
def Port.acks (p : Port) (cred ack : Nat) : Port := Port.pump cred p.queued { p with unacked := afterAck ack p.unacked }
/-- R418: a NAK: every flit after the one it names is sent again, before anything new. -/
def Port.nak (p : Port) (cred now ack : Nat) : Port :=
  let fs := afterAck ack p.unacked
  Port.pump cred p.queued { p with unacked := fs, out := p.out ++ fs, replays := sat16 (p.replays + 1)
                                   replayTimes := (p.replayTimes.filter fun t => decide (now < t + 1000000)) ++ [now] }
/-- R418: a flit that fails is discarded with a NAK; the next in order is taken: what it acknowledges and returns, and its message, which
is acknowledged in turn. -/
def Port.receive (p : Port) (cred now : Nat) (f : BitVec 2048) : Port :=
  let type := flitBits f 13 10
  let ack := flitBits f 25 16
  if !flitOk f || !flitLegal f || flitBits f 9 0 != p.expected then p.send cred (3, 0)
  else
    let p := { p with expected := (flitBits f 9 0 + 1) % 1024, acked := flitBits f 9 0, reqCred := p.reqCred + flitBits f 39 32
                      rspCred := p.rspCred + flitBits f 47 40 }
    let p := if type = 3 then p.nak cred now ack else p.acks cred ack
    if type = 1 || type = 4 then { p with delivered := p.delivered ++ [f] }.send cred (2, 0) else p
/-- R418, R423: the messages of flits, to be sent again over another port. -/
def messagesOf (fs : List (BitVec 2048)) : List (Nat × BitVec 1920) :=
  (fs.filter fun f => flitBits f 13 10 == 1 || flitBits f 13 10 == 4).map fun f =>
    (flitBits f 13 10, BitVec.ofNat 1920 (flitBits f 1983 64))

/-! ## Port states (R422 to R424) -/

/-- A port. -/
def State.port (s : State) (p : Nat) : Port := s.ports.getD p default
/-- Changes a port. -/
def State.updPort (s : State) (p : Nat) (f : Port → Port) : State := { s with ports := updAt s.ports p f }
/-- A port goes to a state now; it has no width where it carries nothing (R424). -/
def State.portTo (s : State) (p : Nat) (st : LinkState) : State :=
  s.updPort p fun x => { x with st := st, since := s.now, width := if st == .down || st == .failed || st == .training then 0 else x.width }
/-- R417: the slots returned in a flit that goes out now (log 158). -/
def State.cred (s : State) : Nat := (Config.flitCredits s.ctr).toNat
/-- R418: the port that the messages of a line use: of its address, or the one that is open when only one is. -/
def State.linePort (s : State) (pa : Nat) : Nat :=
  let k := 1 + (bits pa 7 7 + bits pa 12 12) % 2
  if !(s.port k).isOpen && (s.port (3 - k)).isOpen then 3 - k else k
/-- R420: a message for the peer whose layout the reference leaves open: its slots are free (log 158). -/
def State.tellPeer (s : State) (type pa : Nat) : State :=
  let (b, s) := s.fresh 60
  let slots := BitVec.ofNat 1920 (leNat ((List.range 60).flatMap fun i => leBytes 4 (Config.freeWord (b + i)).toNat))
  s.updPort (s.linePort pa) fun x => x.send s.cred (type, slots)

/-- R14, R423: the pair breaks: the contexts that span it go to FAULTED, and each package of a card keeps to half the total. -/
def State.breakPair (s : State) (cause unit : Nat) : State :=
  let s := (mkeys s.ctxs fun c => c.desc.pairctx).foldl (fun s c => s.ctxError c cause { unit := unit }) s
  { s with dev := { s.dev with paired := false }
           energy := if s.dev.pairCard then { s.energy with share0 := 600000, share1 := 600000 } else s.energy }

/-- R423: the effects of a port that is FAILED or taken DOWN: with the host port every ACTIVE context; with one Hawser port its traffic moves
to the other; with both the pair breaks. -/
def State.portLost (s : State) (p : Nat) : State :=
  if p = 0 then
    let s := { s with host := { s.host with waiting := [] } }
    let s := (mkeys s.ctxs fun c => c.st == .active).foldl (fun s c => s.ctxFault c 0xA4 { unit := 0xFFFF9B }) s
    s.crash { pilot := 0xFF, kind := 4 }
  else
    let x := s.port p
    let y := s.port (3 - p)
    let s := s.updPort p fun x => { x with unacked := [], queued := [] }
    if y.st == .down || y.st == .failed then (if s.dev.paired then s.breakPair 0xA3 (0xFFFF9B + p) else s)
    else (messagesOf x.unacked ++ x.queued).foldl (fun s m => s.updPort (3 - p) (·.send s.cred m)) s
/-- R422: what a port is in after it failed: DOWN when its enable bit is clear. -/
def Port.failedTo (p : Port) : LinkState := if p.enable then .failed else .down
/-- R422, R423, R447: a port becomes FAILED; with the host port the package is reset next (log 148). -/
def State.portFails (s : State) (p : Nat) : State :=
  let s := (s.portTo p (s.port p).failedTo).portLost p
  if p = 0 then { s with agenda := s.agenda ++ [.packageReset] } else s
/-- R422: a port whose enable bit is clear is taken DOWN once its traffic has drained. -/
def State.drainPort (s : State) (p : Nat) : State :=
  let x := s.port p
  if !x.enable && x.isOpen && x.unacked.isEmpty && x.queued.isEmpty then (s.portTo p .down).portLost p else s

/-- R417, R422: a port begins a new sequence when it trains from DOWN (log 158). -/
def Port.anew (p : Port) : Port :=
  { p with nextSeq := 0, expected := 0, acked := 1023, unacked := [], queued := [], reqCred := 0, rspCred := 0, replayTimes := [] }
/-- LNKCTL_ENABLE_SET (R422): a port that is DOWN trains. -/
def execLnkctlEnableSet (p : Nat) (s : State) : Out :=
  .next (s.hostWrite (.enableSet p) fun s =>
    let s := s.updPort p fun x => { x with enable := true }
    if (s.port p).st == .down && decide (p < 3) then (s.updPort p (·.anew)).portTo p .training else s)
/-- LNKCTL_ENABLE_CLEAR (R422, R423): a port that carries traffic drains first. -/
def execLnkctlEnableClear (p : Nat) (s : State) : Out :=
  .next (s.hostWrite (.enableClear p) fun s =>
    let old := (s.port p).st
    let s := s.updPort p fun x => { x with enable := false, retrainReq := false }
    if 3 ≤ p then s
    else if old == .down || old == .failed then s.portTo p .down
    else if old == .training then (s.portTo p .down).portLost p
    else s.drainPort p)
/-- R422: a port that is open retrains. -/
def State.retrain (s : State) (p : Nat) : State :=
  if (s.port p).isOpen then
    (s.updPort p fun x => { x with retrains := sat16 (x.retrains + 1), retrainReq := false, replayTimes := [] }).portTo p .retraining
  else s
/-- LNKCTL_RETRAIN (R422): the request is taken when the port is open. -/
def execLnkctlRetrain (p : Nat) (s : State) : Out :=
  .next (s.hostWrite (.retrain p) fun s => (s.updPort p fun x => { x with retrainReq := true }).retrain p)
/-- LINK_RETRAIN_TRIGGER (R422): loss of lock, 16 replays of the host port within 1 ms, or a request that waits. -/
def execLinkRetrainTrigger (p : Nat) (s : State) : Out := .next (s.retrain p).tick

/-- R422: the state a port trains to with lanes or modules; none is not trained. -/
def trainedTo (p width : Nat) : Option LinkState :=
  if p = 0 then (if width = 4 then some .up else if width = 3 then some .degraded else none)
  else if width = 16 then some .up else if 8 ≤ width && width < 16 then some .degraded else none
/-- LINK_TRAINED (R422, R421): traffic opens; identities were exchanged; what waits for acknowledgement is sent again, then what waits to be
sent; the packages tell each other whether they hold contexts. -/
def execLinkTrained (p width : Nat) (s : State) : Out :=
  .next (match trainedTo p width with
    | none => s
    | some st =>
      let old := (s.port p).st
      if !(old == .training || old == .retraining) then s
      else
        let s := (s.updPort p fun x => { x with width := width }).portTo p st
        let s := s.updPort p fun x => Port.pump s.cred x.queued { x with out := if old == .retraining then x.out ++ x.unacked else x.out }
        let s := if p = 0 then s else ({ s with dev := { s.dev with peerDigest := Config.peerDigest s.ctr } }.tellPeer 4 0).tryPair
        (s.drainPort p).tick)
/-- LINK_TRAINING_TIMEOUT (R422): not trained within 100 ms. -/
def execLinkTrainingTimeout (p : Nat) (s : State) : Out :=
  .next (let x := s.port p
    if x.st == .training && decide (x.since + 100000000 ≤ s.now) then (s.portFails p).tick else s)
/-- LINK_RETRAIN_TIMEOUT (R422): not trained within 10 ms: again, or FAILED at the third time within 1 s. -/
def execLinkRetrainTimeout (p : Nat) (s : State) : Out :=
  .next (
    let x := s.port p
    if x.st == .retraining && decide (x.since + 10000000 ≤ s.now) then
      let ts := (x.failTimes.filter fun t => decide (s.now < t + 1000000000)) ++ [s.now]
      let s := s.updPort p fun y => { y with failTimes := ts }
      let s := if 3 ≤ ts.length then s.portFails p else s.portTo p .retraining
      s.tick
    else s)

/-- R422: 16 replays of a port within 1 ms retrain it; a port that is to be taken DOWN goes when it has drained. -/
def State.afterFlit (s : State) (p : Nat) : State :=
  if 16 ≤ (s.port p).replayTimes.length then s.retrain p else s.drainPort p
/-- HAWSER_FLIT_RECEIVE (R418); a control message may tell that the peer holds no context any more (R421). -/
def execHawserFlitReceive (p : Nat) (f : BitVec 2048) (s : State) : Out :=
  .next (if (p = 1 || p = 2) && (s.port p).isOpen then
    let n := (s.port p).delivered.length
    let s := (s.updPort p (·.receive s.cred s.now f)).afterFlit p
    let s := if n < (s.port p).delivered.length && flitBits f 13 10 == 4 then s.tryPair else s
    s.tick
  else s)
/-- HAWSER_NAK_RECEIVE (R418). -/
def execHawserNakReceive (p : Nat) (ack : BitVec 10) (s : State) : Out :=
  .next (if (p = 1 || p = 2) && (s.port p).isOpen then
    ((s.updPort p (·.nak s.cred s.now ack.toNat)).afterFlit p).tick else s)

/-- PEER_PACKAGE_RESET (R430, R423): the unit is the peer link's first port (log 161). -/
def execPeerPackageReset (s : State) : Out :=
  .next (if s.dev.paired then (s.breakPair 0xAE 0xFFFF9C).tick else s)

/-! ## Registers that the host reads (R281, R387, R424, R443, R447) -/

/-- R424: the code of a link state. -/
def LinkState.code : LinkState → Nat
  | .down => 0 | .training => 1 | .up => 2 | .degraded => 3 | .retraining => 4 | .failed => 5
/-- R424: LNKSTAT0 to LNKSTAT2. -/
def State.lnkstat (s : State) (p : Nat) : Nat :=
  let x := s.port p
  x.st.code + x.width % 256 * 2 ^ 8 + sat16 x.replays * 2 ^ 16 + sat16 x.retrains * 2 ^ 32
/-- R424: LNKCTL. -/
def State.lnkctl (s : State) : Nat :=
  (List.range 3).foldl (fun a p => a + bn (s.port p).enable * 2 ^ p + bn (s.port p).retrainReq * 2 ^ (8 + p)) 0
/-- R443: WEARn. -/
def EnergyUnit.wearn (e : EnergyUnit) (n : Nat) : Nat := (e.wear.getD n 0).toNat + bn (e.retiredIslands.contains n) * 2 ^ 32
/-- R415: what the host reads at an offset of BAR 0; where no register that can be read lies, zero (log 160). -/
def State.barRead (s : State) (off : Nat) : Nat :=
  if off = 0x10 then s.host.bootstat.toNat
  else if off = 0x1000 then s.host.mbxbase.toNat
  else if off = 0x1008 then s.host.submitted
  else if off = 0x1010 then s.host.rssize
  else if off = 0x2000 then s.page.pfrbase.toNat
  else if off = 0x2008 then s.page.pfrhead
  else if off = 0x2010 then s.page.pfrtail.toNat
  else if off = 0x2020 then s.page.invaddr.toNat
  else if off = 0x2030 then s.page.invdone
  else if 0x3000 ≤ off && off ≤ 0x3010 && off % 8 = 0 then s.lnkstat ((off - 0x3000) / 8)
  else if off = 0x3018 then s.lnkctl
  else if 0x5000 ≤ off && off < 0x5500 && off % 8 = 0 then s.energy.wearn ((off - 0x5000) / 8)
  else if off = 0x5800 then s.energy.ce
  else if off = 0x5808 then s.energy.ue
  else 0

/-! ## The mesh (R410) -/

/-- R7, R8: where a core stands on the compute die, and the slice beneath it on the cache die (`die` 1): column, row, die. -/
def meshAt (core die : Nat) : Nat × Nat × Nat := (2 * (core / 4 % 8) + core % 2, 2 * (core / 32) + core % 4 / 2, die)
/-- The places after `a` on the way to `b` along a row or column. -/
def meshSteps (a b : Nat) : List Nat :=
  (List.range (max a b - min a b)).map fun i => if a ≤ b then a + i + 1 else a - i - 1
/-- R409: the routers a packet passes after its source: across by X, then by Y; between the dies it crosses the compute die, and goes up
first or down last. -/
def meshRoute (a b : Nat × Nat × Nat) : List (Nat × Nat × Nat) :=
  let z := if a.2.2 = 1 && b.2.2 = 1 then 1 else 0
  (if z < a.2.2 then [(a.1, a.2.1, z)] else []) ++ (meshSteps a.1 b.1).map (fun x => (x, a.2.1, z)) ++
    (meshSteps a.2.1 b.2.1).map (fun y => (b.1, y, z)) ++ (if z < b.2.2 then [b] else [])
/-- The clocks of the mesh. -/
def State.meshClk (s : State) : Nat := s.clk 256
/-- R410: the source interface of a packet; packet k takes entry k mod 64 of its retry buffer, so that a source has at most 64 (log 95). -/
def meshSource (k : Nat) : Nat := k / 64
/-- MESH_PACKET_DROP (R410): a NACK: the packet waits 16 · 2^min(k − 1, 5) clocks after its k-th; from the fifth on it is
escalated, and an escalated packet is never dropped. -/
def execMeshPacketDrop (k : Nat) (s : State) : Out :=
  .next (
    let p := (mget s.mesh k).getD { nacks := 0, waiting := false, resendAt := 0, escalated := false, age := s.ctr }
    if p.waiting || p.escalated then s
    else
      let n := p.nacks + 1
      { s with mesh := mset s.mesh k { p with nacks := n, waiting := true, resendAt := s.meshClk + 16 * 2 ^ min (n - 1) 5
                                              escalated := decide (5 ≤ n) }
               ctr := s.ctr + 1 })
/-- R410: no escalated packet on its way is older than one. -/
def State.oldestEscalated (s : State) (p : MeshPkt) : Bool := s.mesh.all fun q => !q.2.escalated || q.2.waiting || decide (p.age ≤ q.2.age)
/-- MESH_RESEND (R410): after its wait a packet is sent again; one on its way is delivered and its destination acknowledges it, which frees its
entry: escalated ones oldest first (log 95). -/
def execMeshResend (k : Nat) (s : State) : Out :=
  .next (match mget s.mesh k with
    | none => s
    | some p =>
      if p.waiting then
        (if s.meshClk < p.resendAt then s else { s with mesh := mset s.mesh k { p with waiting := false }, ctr := s.ctr + 1 })
      else if p.escalated && !s.oldestEscalated p then s
      else { s with mesh := mdel s.mesh k, ctr := s.ctr + 1 })

/-! ## CXL.mem (R415, R416) -/

/-- A physical address of device memory lies in a translated range of a context. -/
def State.holdsPa (s : State) (c va n pa k : Nat) : Bool :=
  (piecesOf va n).any fun p => match s.translate c p.1 0 with
    | .ok false x _ => decide (x < pa + k) && decide (pa < x + p.2)
    | _ => false
/-- R329: the effect of a host's store on a region whose copies it touches is open: both copies and the flags become free values. -/
def State.spoilRegion (s : State) (c g : Nat) : State :=
  let r := (mget (s.ctx c).regions g).getD default
  let n := r.decl.bytes
  let (b, s) := s.fresh (2 * n + 1)
  let bytes (o : Nat) : List Byte := (List.range n).map fun i => freeByte (b + o + i)
  let f := Config.freeWord (b + 2 * n)
  ((s.vwrite c r.baseA (bytes 0)).vwrite c r.baseB (bytes n)).updCtx c fun x => { x with regions := mupd x.regions g fun y =>
    { y with ovf := f.getLsbD 0, inv := f.getLsbD 1, coll := f.getLsbD 2 } }
/-- The regions that 8 bytes of device memory lie in. -/
def State.regionsAt (s : State) (a : Nat) : List (Nat × Nat) :=
  s.ctxs.flatMap fun c => (c.2.regions.filter fun g =>
    s.holdsPa c.1 g.2.baseA g.2.decl.bytes a 8 || s.holdsPa c.1 g.2.baseB g.2.decl.bytes a 8).map fun g => (c.1, g.1)

/-- R128, R242: a device address lies in a loaded code object of some context: no agent changes it (log 132). -/
def State.codeHolds (s : State) (a : Nat) : Bool :=
  s.ctxs.any fun c => c.2.objs.any fun o => s.holdsPa c.1 o.addr ((o.len + 0xFFF) / 0x1000 * 0x1000) a 8
/-- R160, R228: the private bytes of waves that lie in `n` bytes of device memory, by context and virtual address. -/
def State.privsAt (s : State) (a : Nat) (n : Nat := 8) : List (Nat × Nat) :=
  (dedup (s.waves.filterMap fun w =>
    let g := s.gridOf (s.teamOf w.2)
    if g.privSize = 0 then none else some (w.2.ctxn, g.privBase, 32 * g.privSize * g.privTeams * g.entry.waves))).flatMap fun r =>
    (piecesOf r.2.1 r.2.2).flatMap fun p => match s.translate r.1 p.1 0 with
      | .ok false x _ => ((List.range n).filter fun i => decide (x ≤ a + i) && decide (a + i < x + p.2)).map fun i => (r.1, p.1 + (a + i - x))
      | _ => []
/-- R416: what a store of the host at a device physical address does: whatever the partition; what it stores into a plane region or a
wave's private memory has an open effect there (R329, R228), and a loaded code object stays as it is (log 132). -/
def State.cxlWrite (s : State) (pa : Nat) (v : DWord) : State :=
  if s.codeHolds pa then s
  else
    let s := (s.privsAt pa).foldl (fun s x => privStore x.1 0 32 x.2 [0] 0 s) s
    (s.regionsAt pa).foldl (fun s g => s.spoilRegion g.1 g.2) (s.pwrite false pa (leBytes 8 v.toNat))
/-- R228, R329: a byte of device memory as the host reads it: one of a next copy, or of the private memory of a wave, is undefined. -/
def State.hostByte (s : State) (pa free : Nat) (b : Byte) : Byte :=
  if (s.ctxs.any fun c => c.2.regions.any fun g => s.holdsPa c.1 g.2.next g.2.decl.bytes pa 1) || !(s.privsAt pa 1).isEmpty then freeByte free else b
/-- R416: what a load of the host at a device physical address gives. -/
def State.cxlRead (s : State) (pa : Nat) : State :=
  let (b, s) := s.fresh 8
  let bs := mapIx (fun i x => s.hostByte (pa + i) (b + i) x) 0 (s.pread false pa 8)
  { s with host := { s.host with reads := s.host.reads ++ [BitVec.ofNat 64 (leNat bs)] } }
/-- CXL_MEM_ACCESS (R415, R416): the host reads or writes an aligned double word of the HDM range: the device physical address is the host
physical address less the base of the decoder (log 159). -/
def execCxlMemAccess (write : Bool) (a : Nat) (v : DWord) (s : State) : Out :=
  .next (s.hostWrite (.cxl write a v) fun s =>
    let pa := a - Config.hdmBase
    if a < Config.hdmBase || !s.dev.area pa 8 then s
    else if write then s.cxlWrite pa v
    else s.cxlRead pa)

end Sys2Proof.Machine
end

