-- ==== Sys2Proof/Machine/Health.lean ====
section
/-! DEFINITION. Energy counters and attribution (R14, R439, R440), wear (R443), errors and self-tests (R444 to R446), the Pilot
complex (R119), resets, power and firmware (R84, R99, R100, R447). -/
namespace Sys2Proof.Machine

/-! ## Energy (R14, R439, R440, R443) -/

/-- R14: the shares of a card's total for two demands: in proportion, each from 400 W to 800 W, within the packages' limits; with no
demand at all, half each (log 106). -/
def ebcShares (d0 d1 b0 b1 : Nat) : Nat × Nat :=
  let x := if d0 + d1 = 0 then 600000 else clampNat 400000 800000 (1200000 * d0 / (d0 + d1))
  (min x b0, min (1200000 - x) b1)
/-- R14: a new limit of the other package of a card lowers this package's own to fit the card's total. -/
def EnergyUnit.peerSets (e : EnergyUnit) (mw : Nat) : EnergyUnit :=
  let v := clampNat 400000 800000 mw
  { e with peerBudget := v, budget := min e.budget (1200000 - v) }
/-- EBC_SHARE_INTERVAL (R14, R420): every 1 ms on a pair card; a broken pair keeps each package to half. -/
def execEbcShareInterval (d0 d1 : Nat) (s : State) : Out :=
  .next (
    if !s.dev.pairCard then s
    else if !s.dev.paired then { s with energy := { s.energy with share0 := 600000, share1 := 600000 }, ctr := s.ctr + 1 }
    else
      let e := match Config.peerLimit s.ctr with
        | some v => s.energy.peerSets v
        | none => s.energy
      let (b0, b1) := if s.dev.index = 0 then (e.budget, e.peerBudget) else (e.peerBudget, e.budget)
      let (a, b) := ebcShares d0 d1 b0 b1
      { s with energy := { e with share0 := a, share1 := b }, ctr := s.ctr + 1 }.tellPeer 4 0)

/-- R440: energy charged to a context at a time; what is older than 100 ms is dropped from what R441 looks back on. -/
def Ctx.charge (c : Ctx) (t x : Nat) : Ctx :=
  if x = 0 then c
  else { c with energy := c.energy + x, hist := (t, x) :: c.hist.filter fun h => decide (t < h.1 + 100000000) }
/-- R440: the busy cycles of a context on an island in the interval that ends now: issue clocks, array clocks, or line transfers, which only a
context with work makes (log 163). -/
def State.busyOn (s : State) (i c : Nat) : Nat :=
  if i < 0x80 then (mget s.energy.busy (4096 * i + c)).getD 0
  else if i < 0x98 && (s.teams.any fun t => s.teamCtx t.2 == c && t.2.onCore) then Config.lineTransfers s.dev.time i c
  else 0
/-- R440: the energy of an island over an interval is divided among contexts by busy cycles; that of a service island, or without a busy
cycle, is charged to no context. -/
def State.attribute (s : State) (i : Nat) : State :=
  let e := s.energy.pending.getD i 0
  let live := mkeys s.ctxs fun c => c.st != .destroyed
  let total := live.foldl (fun a c => a + s.busyOn i c) 0
  let t : State := { s with energy := { s.energy with pending := s.energy.pending.set i 0 } }
  if 0x98 ≤ i || total = 0 then t else live.foldl (fun t c => t.updCtx c (·.charge s.dev.time (e * s.busyOn i c / total))) t
/-- R440: the end of an interval: every island whose energy was not attributed yet, and the counts of busy cycles begin again. -/
def State.attributeRest (s : State) : State :=
  let s := (List.range 160).foldl (fun (s : State) i => if s.energy.pending.getD i 0 = 0 then s else s.attribute i) s
  { s with energy := { s.energy with busy := [] } }
/-- ENERGY_ATTRIBUTION (R440): at the end of an interval of 10 µs. -/
def execEnergyAttribution (i : Nat) (s : State) : Out :=
  .next (if s.dev.time % 10000 != 0 || s.energy.pending.getD i 0 = 0 then s else (s.attribute i).tick)

/-- R15: the energy of an island in a microsecond: what it asks for; from 100 µs after a limit fell, no more than its part of the limit (in
microjoules: watts, R439), since the EBC lowers frequencies and voltages. -/
def State.drawn (s : State) (i : Nat) : Nat :=
  let t := s.dev.time
  let asks := Config.islandEnergy t i
  let all := (List.range 160).foldl (fun a k => a + Config.islandEnergy t k) 0
  if s.energy.fell.any (fun f => decide (t < f + 100000)) || 1000 * all ≤ s.powerLimit then asks else asks * s.powerLimit / (1000 * all)
/-- R15: the limit of the package as it stands, and when it fell. -/
def State.noteLimit (s : State) : State :=
  let e := s.energy
  { s with energy := { e with lastLimit := s.powerLimit, fell := if s.powerLimit < e.lastLimit then some s.dev.time else e.fell } }
/-- ENERGY_COUNTER_TICK (R439): 1 µs passes. -/
def execEnergyCounterTick (s : State) : Out :=
  .next (
    let t := s.dev.time
    let s := (if t % 10000 = 0 then s.attributeRest else s).noteLimit
    let e := s.energy
    let all := (List.range 160).foldl (fun a k => a + Config.islandEnergy t k) 0
    { s with dev := { s.dev with time := t + 1000 }
             energy := { e with islands := mapIx (fun i x => x + s.drawn i) 0 e.islands, pending := mapIx (fun i x => x + s.drawn i) 0 e.pending
                                drew := all }
             ports := updAt s.ports 0 fun p => { p with replays := sat16 (p.replays + if p.isOpen then Config.hostReplays t else 0) } })

/-- WEAR_REFRESH (R443): every 10 s. -/
def execWearRefresh (s : State) : Out :=
  .next (if s.dev.time < s.energy.wearAt + 10000000000 then s
    else { s with energy := { s.energy with wear := mapIx (fun i _ => Config.wearHours s.now i) 0 s.energy.wear, wearAt := s.dev.time }
                  ctr := s.ctr + 1 })

/-! ## Errors (R444 to R446) -/

/-- R445: a unit under test; a further error joins the test. -/
def State.startTest (s : State) (u : Nat) : State :=
  { s with energy := { s.energy with testing := if s.energy.testing.contains u then s.energy.testing else s.energy.testing ++ [u] } }
/-- R444: nanoseconds of 24 hours. -/
def dayNs : Nat := 86400000000000
/-- CORRECTABLE_ERROR (R444, R445): counted; the third in one unit within 24 h starts a self-test. -/
def execCorrectableError (u : BitVec 24) (s : State) : Out :=
  .next (
    let n := u.toNat
    let ts := (s.energy.ceTimes.filter fun x => decide (s.now < x.2 + dayNs)) ++ [(n, s.now)]
    let third := 3 ≤ (ts.filter fun x => x.1 == n).length
    let s := { s with energy := { s.energy with ce := s.energy.ce + 1, ceTimes := if third then ts.filter fun x => x.1 != n else ts }
                      ctr := s.ctr + 1 }
    if third then s.startTest n else s)

/-- R444: an error that reached a context: one EVENT record, and UE. -/
def State.ueEvent (s : State) (c cause unit launch xaddr : Nat) : State :=
  (s.event c cause { xaddr := xaddr, launch := launch, unit := unit }).summary c 16
/-- R277, R444: a frame is retired: its translations are dropped, and the contexts that hold one go to FAULTED. -/
def State.retireFrame (s : State) (pa unit : Nat) : State :=
  let f := s.dev.cell pa / 0x200000
  let hit (t : TlbEnt) : Bool :=
    let p := s.dev.cell (bits t.leaf.toNat 51 12 * 0x1000)
    !t.leaf.getLsbD 9 && decide (p / 0x200000 ≤ f) && decide (f * 0x200000 < p + t.size)
  let cs := dedup ((s.page.tlb.filter hit).map (·.ctx))
  let s := { s with page := { s.page with tlb := s.page.tlb.filter fun t => !hit t
                                          retired := if s.page.retired.contains f then s.page.retired else s.page.retired ++ [f] } }
  cs.foldl (fun s c => ((s.summary c 16).summary c 19).ctxStruck c 0xA9 pa unit) s

/-- R444: an error in a Lighter's buffer: a copy of a lane ends with no byte written, or the COPY packet at hand of a queue completes with
status 0x07 (log 133). -/
def State.copyLost (s : State) (unit cause target : Nat) : State :=
  match mget s.copies target with
  | some j =>
    let s := (s.ueEvent j.ctx cause unit (s.launchOf (s.wave j.wave)) 0).returnLines { j with consume := false }
    s.endJob target j 0x80000000
  | none => match (s.queue target).pkts.find? fun p => p.2.kind == 0x04 && !p.2.opening && p.2.done.isNone with
    | some (i, _) => (s.summary (s.queue target).ctx 16).pktDone target i 7 cause
    | none => s
/-- R428: XADDR of an uncorrectable error that a lane's access meets: the effective address of the instruction at hand; for an instruction
fetch that of its clause (log 133). -/
def Env.opAddr (e : Env) (cause l free : Nat) : DWord :=
  let fm (f : FM) (n : Nat) : DWord := BitVec.ofInt 64 ((e.src64 f.a l : Int) + f.offset * n)
  let size (f : FM) : Nat := sizeOf8 (f.mod.toNat % 8)
  if cause = 0x5F then e.cl.hdr
  else match (e.cl.words[e.cl.idx]?).bind decodeWord with
    | some (.ld f) | some (.ldc f) | some (.st f) => fm f (size f)
    | some (.atom f) => fm f (atomWidth f.mod.toNat)
    | some (.acas f) => fm f (if f.mod.getLsbD 0 then 8 else 4)
    | some (.signal f) => fm f 8
    | some (.stz f) => fm f 1
    | some (.ldz f) => fm f 16
    | some (.ldl f) | some (.ldlw f) | some (.stl f) | some (.ldp f) | some (.stp f) => e.localEa f (size f) l
    | some (.atoml f) => e.localEa f (atomWidth f.mod.toNat) l
    | some (.acasl f) => e.localEa f (if f.mod.getLsbD 0 then 8 else 4) l
    | some (.tag f) | some (.tagq f) => e.localEa f 128 l
    | some (.acinit f) | some (.acadd f) | some (.acwait f) | some (.fput f) | some (.fget f) | some (.ftry f) => e.localEa f 16 l
    | _ => BitVec.ofNat 64 (freeDouble free)
/-- R444: a precise fault of lanes of a wave's clause, which does not replay. -/
def State.ueWave (s : State) (unit cause target : Nat) (lanes : LaneMask) : State :=
  match begin_ { s with cur := target } 0x7 with
  | none => s
  | some e =>
    let ls := e.cl.set &&& lanes
    if ls = 0 then s
    else
      let (b, s) := s.fresh 2
      (s.ueEvent e.wv.ctxn cause unit (s.launchOf e.wv) 0).faultNow target e.cl cause ls
        (if cause = 0x96 then 0 else e.opAddr cause ((lowest ls).getD 0) b) none
/-- R430, R444: an uncorrectable error of context, queue or control state, which faults the context it names. -/
def ueOfState (cause : Nat) : Bool := cause = 0xAD || (0xB0 ≤ cause && cause ≤ 0xBF && !(0xB4 ≤ cause && cause ≤ 0xB6))

/-- R444: what an uncorrectable error does by its cause: to a wave's lanes, to an engine's command, to a record, to a frame, to a
context. The target is the number of what holds the damaged data (log 133). -/
def State.ueEffect (s : State) (unit cause target : Nat) (lanes : LaneMask) : State :=
  if (0x58 ≤ cause && cause ≤ 0x5F) || (0x7A ≤ cause && cause ≤ 0x7F) || cause = 0x96 then s.ueWave unit cause target lanes
  else if cause = 0x97 || (0x99 ≤ cause && cause ≤ 0x9A) || cause = 0x9C then
    match mget s.recs target with
    | none => s
    | some r =>
      let s := (s.summary r.ctx 16).loseRay target cause 0
      if cause = 0x97 then s.flowLost r.flow cause else s
  else if cause = 0x98 then (s.summary target 16).ctxStruck target cause 0 unit
  else if cause = 0x9B then s.copyLost unit cause target
  else if 0x94 ≤ cause && cause ≤ 0x9E then
    match mget s.cmds target with
    | none => s
    | some k => (s.ueEvent k.ctx cause unit (s.launchOf (s.wave k.wave)) 0).stopCmd target k cause
  else if cause = 0xA9 || (0xB4 ≤ cause && cause ≤ 0xB6) then s.retireFrame target unit
  else if ueOfState cause then (s.summary target 16).ctxStruck target cause 0 unit
  else s
/-- UNCORRECTABLE_ERROR (R444 to R446). -/
def execUncorrectableError (u : BitVec 24) (cause target : Nat) (lanes : LaneMask) (s : State) : Out :=
  .next (
    let s := { s with energy := { s.energy with ue := s.energy.ue + 1 }, ctr := s.ctr + 1 }
    (s.ueEffect u.toNat cause target lanes).startTest u.toNat)

/-- Adds numbers to a list of retired units. -/
def addAll (l new : List Nat) : List Nat := dedup (l ++ new)
/-- R445, R477, R81: a unit that fails its test is retired: a core with a core or quadrant of a cluster, a cluster with its core-cluster
island, an MXE, a slice, the slices of a cache-die quadrant, an HBM stack; every failed unit is recorded. -/
def Dev.retireUnit (d : Dev) (u : Nat) : Dev :=
  let d := { d with retiredUnits := addAll d.retiredUnits [u] }
  let i := u % 256
  let core := bits u 15 8
  if i < 0x40 then
    if core < 0xFF || bits u 23 16 != 0xFF then { d with retiredCores := addAll d.retiredCores [core] }
    else { d with retiredClusters := addAll d.retiredClusters [i], retiredMxes := addAll d.retiredMxes [i] }
  else if i < 0x80 then { d with retiredMxes := addAll d.retiredMxes [i - 0x40] }
  else if i < 0x90 then { d with retiredSlices := addAll d.retiredSlices (if core = 0xFF && bits u 23 16 = 0xFF then slicesOf (i - 0x80) else [core]) }
  else if i < 0x98 then { d with retiredHbm := addAll d.retiredHbm [i - 0x90] }
  else d
/-- R445: the islands that are retired with a unit. -/
def retiredWith (u : Nat) : List Nat :=
  let i := u % 256
  if bits u 15 8 != 0xFF then [] else if i < 0x40 then [i, 0x40 + i] else if i < 0xA0 then [i] else []
/-- The HBM stack of a device physical address. -/
def State.stackOf (s : State) (pa : Nat) : Nat := hbmStack (s.dev.cell pa / 0x200000)
/-- The contexts of copies and spilled records that use an HBM stack. -/
def State.storeOn (s : State) (n : Nat) : List Nat :=
  (s.copies.filter fun j => j.2.chunks.any fun c => c.locs.any fun x => x % 2 == 0 && s.stackOf (x / 2) == n).map (·.2.ctx) ++
    (s.recs.filter fun r => r.2.spill.any fun o => match s.translate r.2.ctx ((s.ctx r.2.ctx).desc.spillbase + o) 1 with
      | .ok false pa _ => s.stackOf pa == n
      | _ => false).map (·.2.ctx)
/-- R445: the contexts with work on a unit: teams on its cores or backed by its slices, records that traverse in its cluster, commands of its
MXE, cached translations to the frames of its stack, copies and spilled records there (log 122); on the Harbourmaster every record, on the
Assay unit every append that waits, on the Pilot cores and the translation units all teams. -/
def State.workOn (s : State) (u : Nat) : List Nat :=
  let i := u % 256
  let core := bits u 15 8
  let teams (on : Team → Bool) : List Nat := (s.teams.filter fun t => on t.2).map fun t => s.teamCtx t.2
  let mx (c : Nat) : List Nat := (s.cmds.filter fun k => k.2.cluster == c).map (·.2.ctx)
  let rays (on : Record → Bool) : List Nat := (s.recs.filter fun r => on r.2).map (·.2.ctx)
  dedup (
    if i < 0x40 then teams (fun t => t.onCore && (if core = 0xFF then decide (t.core / 4 = i) else decide (t.core = core))) ++
      (if core = 0xFF then mx i ++ rays fun r => r.st == .traversing && r.cluster == i else [])
    else if i < 0x80 then mx (i - 0x40)
    else if i < 0x90 then teams fun t => if core = 0xFF then (slicesOf (i - 0x80)).contains t.core else decide (t.core = core)
    else if i < 0x98 then
      (s.page.tlb.filter fun t => !t.leaf.getLsbD 9 && decide (s.stackOf (bits t.leaf.toNat 51 12 * 0x1000) = i - 0x90)).map (·.ctx) ++ s.storeOn (i - 0x90)
    else if i = 0x98 then rays fun _ => true
    else if i = 0x9A then mkeys s.ctxs fun c => !c.appends.isEmpty
    else if i = 0x99 || i = 0x9E then teams (·.onCore)
    else [])
/-- R81: the ACTIVE contexts of partitions that have lost every cluster. -/
def State.lostParts (s : State) : List Nat :=
  mkeys s.ctxs fun c => c.st == .active && !(List.range 64).any (s.dev.clusterIn c.desc.part)
/-- R445: a failing link acts as a FAILED port. -/
def linkOf (u : Nat) : Option Nat := if u % 256 = 0x9B then some 0 else if u % 256 = 0x9C then some 1 else if u % 256 = 0x9D then some 2 else none

/-- UNIT_SELF_TEST_COMPLETE (R445). -/
def execUnitSelfTestComplete (u : BitVec 24) (pass : Bool) (s : State) : Out :=
  .next (
    let n := u.toNat
    if !s.energy.testing.contains n then s
    else
      let s := { s with energy := { s.energy with testing := s.energy.testing.filter (· != n) }, ctr := s.ctr + 1 }
      if pass then s
      else
        let cs := s.workOn n
        let s := { s with dev := s.dev.retireUnit n, energy := { s.energy with retiredIslands := addAll s.energy.retiredIslands (retiredWith n) } }
        let s := cs.foldl (fun s c => s.ctxStruck c 0xAB 0 n) s
        let s := s.lostParts.foldl (fun s c => s.ctxFault c 0xA6 { unit := n }) s
        match linkOf n with
        | some p => if (s.port p).st == .failed then s else s.portFails p
        | none => s)

/-! ## Reset, power and firmware (R99, R100, R447) -/

/-- R447: BOOTSTAT after the boot with a count. -/
def bootstat (n : Nat) : DWord := if Config.fwVerified n then 1 else 2

/-- R447: a package reset: every context ends; the Logbook, the wake latch, the LMS counter and what counts from power-on
stay, as does memory; the packages of a card keep to half of its total until they are a pair again (R14). -/
def State.packageReset (s : State) : State :=
  let r := State.reset
  let k := s.keys.boot
  { r with
    dev := { r.dev with time := s.dev.time, born := s.dev.born, pairCard := s.dev.pairCard, index := s.dev.index
                        retiredClusters := s.dev.retiredClusters, retiredCores := s.dev.retiredCores, retiredMxes := s.dev.retiredMxes
                        retiredSlices := s.dev.retiredSlices, retiredHbm := s.dev.retiredHbm, retiredUnits := s.dev.retiredUnits }
    mem := s.mem
    hostMem := s.hostMem
    mxes := s.mxes.map fun m => (m.1, { m.2 with windows := [] })
    page := { r.page with owners := s.page.owners, retired := s.page.retired, invdone := s.page.invdone }
    host := { r.host with latch := s.host.latch, logIdx := s.host.logIdx, logCount := s.host.logCount, logSeq := s.host.logSeq
                          logRecs := s.host.logRecs, rssize := s.host.rssize, bootstat := bootstat k.bootCount, irqs := s.host.irqs, mbxIrqs := s.host.mbxIrqs, reads := s.host.reads }
    ports := r.ports.map fun p => { p with since := s.now }
    energy := if s.dev.pairCard then { s.energy with share0 := 600000, share1 := 600000 } else s.energy
    keys := k
    ctr := s.ctr + 1
    key := s.key }
/-- PACKAGE_RESET (R447). -/
def execPackageReset (s : State) : Out := .next s.packageReset

/-- POWER_LOSS (R101, R447): nothing runs until POWER_ON. -/
def execPowerLoss (s : State) : Out := .next { s with dev := { s.dev with powered := false }, ctr := s.ctr + 1 }
/-- R447, R100: the state at power-on: all but flash is lost; the LMS counter restarts at the limit. -/
def State.powerOn (s : State) : State :=
  let r := State.reset
  let k := s.keys.powerUp
  { r with
    dev := { r.dev with born := s.ctr + 1, pairCard := s.dev.pairCard, index := s.dev.index, retiredClusters := s.dev.retiredClusters
                        retiredCores := s.dev.retiredCores, retiredMxes := s.dev.retiredMxes, retiredSlices := s.dev.retiredSlices
                        retiredHbm := s.dev.retiredHbm, retiredUnits := s.dev.retiredUnits }
    hostMem := s.hostMem
    page := { r.page with retired := s.page.retired }
    host := { r.host with bootstat := bootstat k.bootCount }
    energy := { EnergyUnit.of s.dev.pairCard with retiredIslands := s.energy.retiredIslands }
    keys := k
    ctr := s.ctr + 1
    key := s.key }
/-- POWER_ON (R447). -/
def execPowerOn (s : State) : Out := .next (if s.dev.powered then s else s.powerOn)

/-- FIRMWARE_UPDATE (R84): the contexts that survive append FIRMWARE with reason 3. -/
def execFirmwareUpdate (v : BitVec 64) (d : BitVec 384) (s : State) : Out :=
  .next (
    let s := { s with keys := s.keys.update v d, ctr := s.ctr + 1 }
    (mkeys s.ctxs fun c => c.st != .destroyed).foldl (fun s c =>
      s.record1 c { type := 7, subject := v.toNat, addr := 0, len := 0, aux := 3, digest := d, waiter := .none }) s)

/-! ## The Pilot complex (R119) -/

/-- R119: the complex is reset: the event in hand is discarded, the others stay. -/
def State.pilotsDown (s : State) (cause : Nat) : State :=
  { s with dev := { s.dev with pilotDown := some cause }, host := { s.host with events := s.host.events.drop 1 } }
/-- PILOT_EXCEPTION (R119): a crash record and a reset of the complex; one during crash handling resets the package. -/
def execPilotException (pilot : Nat) (cause pc addr : DWord) (s : State) : Out :=
  .next (
    let c (kind : Nat) : Crash := { pilot := pilot, kind := kind, exc := some (cause.toNat, pc.toNat, addr.toNat) }
    if 12 ≤ pilot then s
    else if s.dev.pilotDown.isSome then (s.crash (c 3)).packageReset
    else (s.crash (c 1)).pilotsDown 0xA5)
/-- PILOT_WATCHDOG (R119): the always-on logic writes the record. -/
def execPilotWatchdog (pilot : Nat) (s : State) : Out :=
  .next (if 12 ≤ pilot || s.dev.pilotDown.isSome then s
    else (s.crash { pilot := pilot, kind := 2 }).pilotsDown 0xAA)

/-- R119: a queue in flight and its context go to FAULTED. -/
def State.pilotLost (cause : Nat) (s : State) (q : Nat) : State :=
  let c := (s.queue q).ctx
  let st := (s.ctx c).st
  let s := s.summary c 18
  let s := if st == .destroyed || st == .faulted then s else s.ctxLost c cause {}
  if (s.queue q).st == .faulted then s else s.faultQueue q 7 cause (s.queue q).decode
/-- R119: recovery of the restarted complex. -/
def State.recover (s : State) (cause : Nat) : State :=
  let lost := mkeys s.queues Queue.inFlight
  let hit := lost.map fun q => (s.queue q).ctx
  let s := lost.foldl (State.pilotLost cause) { s with dev := { s.dev with pilotDown := none } }
  let s := (mkeys s.ctxs fun c => c.st == .active).foldl (fun s c =>
    if hit.contains c then s
    else (s.record1 c { type := 7, subject := s.keys.fwVersion.toNat, addr := 0, len := 0, aux := 2, digest := s.keys.fwDigest
                        waiter := .none }).event c cause {}) s
  (mkeys s.queues fun q => q.st == .mappedIdle).foldl (fun s q => s.updQueue q fun x => { x with st := s.unmapped q, slot := none }) s
/-- PILOT_COMPLEX_RESTART (R119). -/
def execPilotComplexRestart (s : State) : Out :=
  .next (match s.dev.pilotDown with
    | none => s
    | some cause => (s.recover cause).tick)

end Sys2Proof.Machine
end

