-- ==== Sys2Proof/Machine/Dispatch.lean ====
section
/-! DEFINITION. The meaning of every instruction and event of the table: one direct call each. -/
namespace Sys2Proof.Machine

/-- What an instruction, or an event, does at a state. -/
def exec (i : Instr) (s : State) : Host.Outcome State Fault Refusal :=
  match i with
  | .nop f => Sys2Proof.Machine.execNop f s
  | .bra f => Sys2Proof.Machine.execBra f s
  | .brx f => Sys2Proof.Machine.execBrx f s
  | .call f => Sys2Proof.Machine.execCall f s
  | .callx f => Sys2Proof.Machine.execCallx f s
  | .ret f => Sys2Proof.Machine.execRet f s
  | .meet f => Sys2Proof.Machine.execMeet f s
  | .mvmeet f => Sys2Proof.Machine.execMvmeet f s
  | .jmop f => Sys2Proof.Machine.execJmop f s
  | .exit f => Sys2Proof.Machine.execExit f s
  | .yield f => Sys2Proof.Machine.execYield f s
  | .sleep f => Sys2Proof.Machine.execSleep f s
  | .region f => Sys2Proof.Machine.execRegion f s
  | .spawn f => Sys2Proof.Machine.execSpawn f s
  | .launch f => Sys2Proof.Machine.execLaunch f s
  | .waitkids f => Sys2Proof.Machine.execWaitkids f s
  | .mov f => Sys2Proof.Machine.execMov f s
  | .movi f => Sys2Proof.Machine.execMovi f s
  | .movw f => Sys2Proof.Machine.execMovw f s
  | .sel f => Sys2Proof.Machine.execSel f s
  | .iadd f => Sys2Proof.Machine.execIadd f s
  | .iaddc f => Sys2Proof.Machine.execIaddc f s
  | .isub f => Sys2Proof.Machine.execIsub f s
  | .isubb f => Sys2Proof.Machine.execIsubb f s
  | .imul f => Sys2Proof.Machine.execImul f s
  | .imulh f => Sys2Proof.Machine.execImulh f s
  | .imad f => Sys2Proof.Machine.execImad f s
  | .imadw f => Sys2Proof.Machine.execImadw f s
  | .iaddi f => Sys2Proof.Machine.execIaddi f s
  | .imin f => Sys2Proof.Machine.execImin f s
  | .imax f => Sys2Proof.Machine.execImax f s
  | .iabs f => Sys2Proof.Machine.execIabs f s
  | .ineg f => Sys2Proof.Machine.execIneg f s
  | .isad f => Sys2Proof.Machine.execIsad f s
  | .idp4 f => Sys2Proof.Machine.execIdp4 f s
  | .idp2 f => Sys2Proof.Machine.execIdp2 f s
  | .shl f => Sys2Proof.Machine.execShl f s
  | .shr f => Sys2Proof.Machine.execShr f s
  | .sar f => Sys2Proof.Machine.execSar f s
  | .fsh f => Sys2Proof.Machine.execFsh f s
  | .rot f => Sys2Proof.Machine.execRot f s
  | .lop3 f => Sys2Proof.Machine.execLop3 f s
  | .andi f => Sys2Proof.Machine.execAndi f s
  | .ori f => Sys2Proof.Machine.execOri f s
  | .xori f => Sys2Proof.Machine.execXori f s
  | .bfe f => Sys2Proof.Machine.execBfe f s
  | .bfi f => Sys2Proof.Machine.execBfi f s
  | .popc f => Sys2Proof.Machine.execPopc f s
  | .clz f => Sys2Proof.Machine.execClz f s
  | .ctz f => Sys2Proof.Machine.execCtz f s
  | .brev f => Sys2Proof.Machine.execBrev f s
  | .iset f => Sys2Proof.Machine.execIset f s
  | .iseti f => Sys2Proof.Machine.execIseti f s
  | .plop f => Sys2Proof.Machine.execPlop f s
  | .vote f => Sys2Proof.Machine.execVote f s
  | .shfl f => Sys2Proof.Machine.execShfl f s
  | .bcast f => Sys2Proof.Machine.execBcast f s
  | .lea f => Sys2Proof.Machine.execLea f s
  | .iaddw f => Sys2Proof.Machine.execIaddw f s
  | .shw f => Sys2Proof.Machine.execShw f s
  | .cvti f => Sys2Proof.Machine.execCvti f s
  | .prmt f => Sys2Proof.Machine.execPrmt f s
  | .fadd f => Sys2Proof.Machine.execFadd f s
  | .fmul f => Sys2Proof.Machine.execFmul f s
  | .ffma f => Sys2Proof.Machine.execFfma f s
  | .fmin f => Sys2Proof.Machine.execFmin f s
  | .fmax f => Sys2Proof.Machine.execFmax f s
  | .fclmp f => Sys2Proof.Machine.execFclmp f s
  | .fset f => Sys2Proof.Machine.execFset f s
  | .frnd f => Sys2Proof.Machine.execFrnd f s
  | .faddi f => Sys2Proof.Machine.execFaddi f s
  | .fmuli f => Sys2Proof.Machine.execFmuli f s
  | .fclass f => Sys2Proof.Machine.execFclass f s
  | .fscale f => Sys2Proof.Machine.execFscale f s
  | .fexpt f => Sys2Proof.Machine.execFexpt f s
  | .fmant f => Sys2Proof.Machine.execFmant f s
  | .dadd f => Sys2Proof.Machine.execDadd f s
  | .dmul f => Sys2Proof.Machine.execDmul f s
  | .dfma f => Sys2Proof.Machine.execDfma f s
  | .dmin f => Sys2Proof.Machine.execDmin f s
  | .dmax f => Sys2Proof.Machine.execDmax f s
  | .dset f => Sys2Proof.Machine.execDset f s
  | .drnd f => Sys2Proof.Machine.execDrnd f s
  | .hadd2 f => Sys2Proof.Machine.execHadd2 f s
  | .hmul2 f => Sys2Proof.Machine.execHmul2 f s
  | .hfma2 f => Sys2Proof.Machine.execHfma2 f s
  | .hmin2 f => Sys2Proof.Machine.execHmin2 f s
  | .hmax2 f => Sys2Proof.Machine.execHmax2 f s
  | .hset2 f => Sys2Proof.Machine.execHset2 f s
  | .rcp f => Sys2Proof.Machine.execRcp f s
  | .rsq f => Sys2Proof.Machine.execRsq f s
  | .sqrt f => Sys2Proof.Machine.execSqrt f s
  | .exp2 f => Sys2Proof.Machine.execExp2 f s
  | .log2 f => Sys2Proof.Machine.execLog2 f s
  | .sincy f => Sys2Proof.Machine.execSincy f s
  | .coscy f => Sys2Proof.Machine.execCoscy f s
  | .tanh f => Sys2Proof.Machine.execTanh f s
  | .sigm f => Sys2Proof.Machine.execSigm f s
  | .drcp f => Sys2Proof.Machine.execDrcp f s
  | .drsq f => Sys2Proof.Machine.execDrsq f s
  | .f2i f => Sys2Proof.Machine.execF2i f s
  | .i2f f => Sys2Proof.Machine.execI2f f s
  | .f2f f => Sys2Proof.Machine.execF2f f s
  | .f2fp f => Sys2Proof.Machine.execF2fp f s
  | .mmaF16 f => Sys2Proof.Machine.execMmaF16 f s
  | .mmaBf16 f => Sys2Proof.Machine.execMmaBf16 f s
  | .mmaE4 f => Sys2Proof.Machine.execMmaE4 f s
  | .mmaE5 f => Sys2Proof.Machine.execMmaE5 f s
  | .mmaZb8 f => Sys2Proof.Machine.execMmaZb8 f s
  | .mmaZb5 f => Sys2Proof.Machine.execMmaZb5 f s
  | .mmaZb3 f => Sys2Proof.Machine.execMmaZb3 f s
  | .mmaI8 f => Sys2Proof.Machine.execMmaI8 f s
  | .zbpack f => Sys2Proof.Machine.execZbpack f s
  | .zbunp f => Sys2Proof.Machine.execZbunp f s
  | .zbexp f => Sys2Proof.Machine.execZbexp f s
  | .ld f => Sys2Proof.Machine.execLd f s
  | .st f => Sys2Proof.Machine.execSt f s
  | .ldl f => Sys2Proof.Machine.execLdl f s
  | .stl f => Sys2Proof.Machine.execStl f s
  | .ldlw f => Sys2Proof.Machine.execLdlw f s
  | .ldp f => Sys2Proof.Machine.execLdp f s
  | .stp f => Sys2Proof.Machine.execStp f s
  | .ldc f => Sys2Proof.Machine.execLdc f s
  | .atom f => Sys2Proof.Machine.execAtom f s
  | .acas f => Sys2Proof.Machine.execAcas f s
  | .atoml f => Sys2Proof.Machine.execAtoml f s
  | .acasl f => Sys2Proof.Machine.execAcasl f s
  | .fence f => Sys2Proof.Machine.execFence f s
  | .pref f => Sys2Proof.Machine.execPref f s
  | .cctl f => Sys2Proof.Machine.execCctl f s
  | .ldz f => Sys2Proof.Machine.execLdz f s
  | .stz f => Sys2Proof.Machine.execStz f s
  | .fput f => Sys2Proof.Machine.execFput f s
  | .fget f => Sys2Proof.Machine.execFget f s
  | .ftry f => Sys2Proof.Machine.execFtry f s
  | .lcopy f => Sys2Proof.Machine.execLcopy f s
  | .lcopyo f => Sys2Proof.Machine.execLcopyo f s
  | .tcopy f => Sys2Proof.Machine.execTcopy f s
  | .tcopyo f => Sys2Proof.Machine.execTcopyo f s
  | .tred f => Sys2Proof.Machine.execTred f s
  | .tag f => Sys2Proof.Machine.execTag f s
  | .tagq f => Sys2Proof.Machine.execTagq f s
  | .acinit f => Sys2Proof.Machine.execAcinit f s
  | .acadd f => Sys2Proof.Machine.execAcadd f s
  | .acwait f => Sys2Proof.Machine.execAcwait f s
  | .tex f => Sys2Proof.Machine.execTex f s
  | .texf f => Sys2Proof.Machine.execTexf f s
  | .bar f => Sys2Proof.Machine.execBar f s
  | .barg f => Sys2Proof.Machine.execBarg f s
  | .elect f => Sys2Proof.Machine.execElect f s
  | .pbind f => Sys2Proof.Machine.execPbind f s
  | .pld f => Sys2Proof.Machine.execPld f s
  | .pldx f => Sys2Proof.Machine.execPldx f s
  | .pst f => Sys2Proof.Machine.execPst f s
  | .pstp f => Sys2Proof.Machine.execPstp f s
  | .pstep f => Sys2Proof.Machine.execPstep f s
  | .pqry f => Sys2Proof.Machine.execPqry f s
  | .dock f => Sys2Proof.Machine.execDock f s
  | .rtrace f => Sys2Proof.Machine.execRtrace f s
  | .renq f => Sys2Proof.Machine.execRenq f s
  | .rretire f => Sys2Proof.Machine.execRretire f s
  | .rld f => Sys2Proof.Machine.execRld f s
  | .rst f => Sys2Proof.Machine.execRst f s
  | .rhit f => Sys2Proof.Machine.execRhit f s
  | .rkey f => Sys2Proof.Machine.execRkey f s
  | .racc f => Sys2Proof.Machine.execRacc f s
  | .rstat f => Sys2Proof.Machine.execRstat f s
  | .shld f => Sys2Proof.Machine.execShld f s
  | .shset f => Sys2Proof.Machine.execShset f s
  | .shget f => Sys2Proof.Machine.execShget f s
  | .mxgemm f => Sys2Proof.Machine.execMxgemm f s
  | .mxconv f => Sys2Proof.Machine.execMxconv f s
  | .mxelt f => Sys2Proof.Machine.execMxelt f s
  | .mxlda f => Sys2Proof.Machine.execMxlda f s
  | .mxsta f => Sys2Proof.Machine.execMxsta f s
  | .mxwait f => Sys2Proof.Machine.execMxwait f s
  | .mxqry f => Sys2Proof.Machine.execMxqry f s
  | .srd f => Sys2Proof.Machine.execSrd f s
  | .swr f => Sys2Proof.Machine.execSwr f s
  | .trap f => Sys2Proof.Machine.execTrap f s
  | .tret f => Sys2Proof.Machine.execTret f s
  | .measure f => Sys2Proof.Machine.execMeasure f s
  | .clock f => Sys2Proof.Machine.execClock f s
  | .ecnt f => Sys2Proof.Machine.execEcnt f s
  | .signal f => Sys2Proof.Machine.execSignal f s
  | .fifomapWrite team val => Sys2Proof.Machine.execFifomapWrite team val s
  | .issueSelect core quad => Sys2Proof.Machine.execIssueSelect core quad s
  | .resultLands wave n => Sys2Proof.Machine.execResultLands wave n s
  | .parkRelease wave n => Sys2Proof.Machine.execParkRelease wave n s
  | .takeTrap wave => Sys2Proof.Machine.execTakeTrap wave s
  | .clauseReplay wave => Sys2Proof.Machine.execClauseReplay wave s
  | .sleepExpiry wave => Sys2Proof.Machine.execSleepExpiry wave s
  | .teamAdmit part => Sys2Proof.Machine.execTeamAdmit part s
  | .gangPlace part => Sys2Proof.Machine.execGangPlace part s
  | .teamPark team => Sys2Proof.Machine.execTeamPark team s
  | .teamUnpark core => Sys2Proof.Machine.execTeamUnpark core s
  | .teamRetire team => Sys2Proof.Machine.execTeamRetire team s
  | .octantModeSwitch core oct mode => Sys2Proof.Machine.execOctantModeSwitch core oct mode s
  | .octantDrainComplete core oct => Sys2Proof.Machine.execOctantDrainComplete core oct s
  | .lcopyComplete job => Sys2Proof.Machine.execLcopyComplete job s
  | .lcopyoComplete job => Sys2Proof.Machine.execLcopyoComplete job s
  | .tcopyArrival job team => Sys2Proof.Machine.execTcopyArrival job team s
  | .tredArrival job team => Sys2Proof.Machine.execTredArrival job team s
  | .tcopyoComplete job => Sys2Proof.Machine.execTcopyoComplete job s
  | .tileTransferAcknowledged job => Sys2Proof.Machine.execTileTransferAcknowledged job s
  | .mxeCommandStart cmd => Sys2Proof.Machine.execMxeCommandStart cmd s
  | .mxeCommandComplete cmd => Sys2Proof.Machine.execMxeCommandComplete cmd s
  | .engineWatchdog cmd => Sys2Proof.Machine.execEngineWatchdog cmd s
  | .mxeIslandPowerUp cluster => Sys2Proof.Machine.execMxeIslandPowerUp cluster s
  | .childGridDecode grid => Sys2Proof.Machine.execChildGridDecode grid s
  | .gridRetire grid => Sys2Proof.Machine.execGridRetire grid s
  | .graphNodeComplete queue pkt node => Sys2Proof.Machine.execGraphNodeComplete queue pkt node s
  | .nopPacket queue => Sys2Proof.Machine.execNopPacket queue s
  | .launchPacket queue => Sys2Proof.Machine.execLaunchPacket queue s
  | .graphPacket queue => Sys2Proof.Machine.execGraphPacket queue s
  | .flowStart queue => Sys2Proof.Machine.execFlowStart queue s
  | .flowQuiesce queue => Sys2Proof.Machine.execFlowQuiesce queue s
  | .flowStop queue => Sys2Proof.Machine.execFlowStop queue s
  | .copyPacket queue => Sys2Proof.Machine.execCopyPacket queue s
  | .signalPacket queue => Sys2Proof.Machine.execSignalPacket queue s
  | .waitPacket queue => Sys2Proof.Machine.execWaitPacket queue s
  | .pstepPacket queue => Sys2Proof.Machine.execPstepPacket queue s
  | .measurePacket queue => Sys2Proof.Machine.execMeasurePacket queue s
  | .receiptPacket queue => Sys2Proof.Machine.execReceiptPacket queue s
  | .fencePacket queue => Sys2Proof.Machine.execFencePacket queue s
  | .energyBudget queue => Sys2Proof.Machine.execEnergyBudget queue s
  | .energyAllowance queue => Sys2Proof.Machine.execEnergyAllowance queue s
  | .markerPacket queue => Sys2Proof.Machine.execMarkerPacket queue s
  | .packetComplete queue pkt => Sys2Proof.Machine.execPacketComplete queue pkt s
  | .waitReread queue => Sys2Proof.Machine.execWaitReread queue s
  | .waitTimeout queue => Sys2Proof.Machine.execWaitTimeout queue s
  | .queueSlotGrant queue => Sys2Proof.Machine.execQueueSlotGrant queue s
  | .queueMappingDone queue => Sys2Proof.Machine.execQueueMappingDone queue s
  | .queueUnmap queue => Sys2Proof.Machine.execQueueUnmap queue s
  | .queueUnmapDone queue => Sys2Proof.Machine.execQueueUnmapDone queue s
  | .wakeRegisterWrite queue => Sys2Proof.Machine.execWakeRegisterWrite queue s
  | .mbxbaseWrite val => Sys2Proof.Machine.execMbxbaseWrite val s
  | .mbxdoorWrite val => Sys2Proof.Machine.execMbxdoorWrite val s
  | .createContext => Sys2Proof.Machine.execCreateContext s
  | .suspend => Sys2Proof.Machine.execSuspend s
  | .resume => Sys2Proof.Machine.execResume s
  | .destroy => Sys2Proof.Machine.execDestroy s
  | .receiptContext => Sys2Proof.Machine.execReceiptContext s
  | .partition => Sys2Proof.Machine.execPartition s
  | .createQueue => Sys2Proof.Machine.execCreateQueue s
  | .destroyQueue => Sys2Proof.Machine.execDestroyQueue s
  | .resetQueue => Sys2Proof.Machine.execResetQueue s
  | .logbookRead => Sys2Proof.Machine.execLogbookRead s
  | .logbookClear => Sys2Proof.Machine.execLogbookClear s
  | .keyRead => Sys2Proof.Machine.execKeyRead s
  | .contextQuiesced ctx => Sys2Proof.Machine.execContextQuiesced ctx s
  | .chainAppend ctx => Sys2Proof.Machine.execChainAppend ctx s
  | .aliasGenerationCreate => Sys2Proof.Machine.execAliasGenerationCreate s
  | .preempt ctx => Sys2Proof.Machine.execPreempt ctx s
  | .preemptComplete ctx => Sys2Proof.Machine.execPreemptComplete ctx s
  | .contextRestore ctx => Sys2Proof.Machine.execContextRestore ctx s
  | .rssizeWrite val => Sys2Proof.Machine.execRssizeWrite val s
  | .pfresolveRetry token => Sys2Proof.Machine.execPfresolveRetry token s
  | .pfresolveFail token => Sys2Proof.Machine.execPfresolveFail token s
  | .invalidateRange val => Sys2Proof.Machine.execInvalidateRange val s
  | .invalidateContext val => Sys2Proof.Machine.execInvalidateContext val s
  | .invalidationComplete => Sys2Proof.Machine.execInvalidationComplete s
  | .hostRegisterWrite off val => Sys2Proof.Machine.execHostRegisterWrite off val s
  | .dbgstopWrite val => Sys2Proof.Machine.execDbgstopWrite val s
  | .lnkctlEnableSet port => Sys2Proof.Machine.execLnkctlEnableSet port s
  | .lnkctlEnableClear port => Sys2Proof.Machine.execLnkctlEnableClear port s
  | .lnkctlRetrain port => Sys2Proof.Machine.execLnkctlRetrain port s
  | .pageWalkComplete ctx va access agent => Sys2Proof.Machine.execPageWalkComplete ctx va access agent s
  | .binPatienceExpiry rec => Sys2Proof.Machine.execBinPatienceExpiry rec s
  | .batchDelivery slice => Sys2Proof.Machine.execBatchDelivery slice s
  | .berthRetarget wave => Sys2Proof.Machine.execBerthRetarget wave s
  | .spillReturn rec => Sys2Proof.Machine.execSpillReturn rec s
  | .rootTaskCreate flow => Sys2Proof.Machine.execRootTaskCreate flow s
  | .nodeStep rec => Sys2Proof.Machine.execNodeStep rec s
  | .ebcShareInterval demand0 demand1 => Sys2Proof.Machine.execEbcShareInterval demand0 demand1 s
  | .energyCounterTick => Sys2Proof.Machine.execEnergyCounterTick s
  | .energyAttribution island => Sys2Proof.Machine.execEnergyAttribution island s
  | .wearRefresh => Sys2Proof.Machine.execWearRefresh s
  | .correctableError unit => Sys2Proof.Machine.execCorrectableError unit s
  | .uncorrectableError unit cause target lanes => Sys2Proof.Machine.execUncorrectableError unit cause target lanes s
  | .unitSelfTestComplete unit pass => Sys2Proof.Machine.execUnitSelfTestComplete unit pass s
  | .pilotException pilot cause pc addr => Sys2Proof.Machine.execPilotException pilot cause pc addr s
  | .pilotWatchdog pilot => Sys2Proof.Machine.execPilotWatchdog pilot s
  | .pilotComplexRestart => Sys2Proof.Machine.execPilotComplexRestart s
  | .packageReset => Sys2Proof.Machine.execPackageReset s
  | .powerOn => Sys2Proof.Machine.execPowerOn s
  | .linkTrained port width => Sys2Proof.Machine.execLinkTrained port width s
  | .linkTrainingTimeout port => Sys2Proof.Machine.execLinkTrainingTimeout port s
  | .linkRetrainTrigger port => Sys2Proof.Machine.execLinkRetrainTrigger port s
  | .linkRetrainTimeout port => Sys2Proof.Machine.execLinkRetrainTimeout port s
  | .hawserFlitReceive port flit => Sys2Proof.Machine.execHawserFlitReceive port flit s
  | .hawserNakReceive port ackseq => Sys2Proof.Machine.execHawserNakReceive port ackseq s
  | .meshPacketDrop pkt => Sys2Proof.Machine.execMeshPacketDrop pkt s
  | .meshResend pkt => Sys2Proof.Machine.execMeshResend pkt s
  | .cxlMemAccess write addr val => Sys2Proof.Machine.execCxlMemAccess write addr val s
  | .powerLoss => Sys2Proof.Machine.execPowerLoss s
  | .mxeIslandPowerDown cluster => Sys2Proof.Machine.execMxeIslandPowerDown cluster s
  | .peerPackageReset => Sys2Proof.Machine.execPeerPackageReset s
  | .firmwareUpdate version digest => Sys2Proof.Machine.execFirmwareUpdate version digest s
  | .reservedKindPacket queue => Sys2Proof.Machine.execReservedKindPacket queue s
  | .unassignedMailboxOpcode => Sys2Proof.Machine.execUnassignedMailboxOpcode s

end Sys2Proof.Machine
end

