-- ==== Sys2Proof/Machine/Schedule.lean ====
section
/-! DEFINITION. What a step runs: the next instruction of the clause being issued; else an instruction held for its token (R49);
else the first event of the device that is due. One order among those the reference allows (log 14). -/
namespace Sys2Proof.Machine

/-- R47, R55: the next instruction of a wave's clause, read from the clause and decoded. -/
def State.clauseInstr (s : State) (w : Nat) : Option Instr :=
  match (s.wave w).clause with
  | none => none
  | some c => match c.words[c.idx]? with
    | none => none
    | some x => decodeWord x

/-- What a step may run: a row of the table, or one of the octants' events (R284, R289), which have names of their own since the compiler
runs no constructor with arguments beyond number 244; or an event of the Pilot cores that no row of the table names (R114);
or an access of the host that waited for its port (R422). -/
inductive Pick where
  | row (i : Instr) | octantSwitch (core oct mode : Nat) | octantDrained (core oct : Nat) | fifomap (team : Nat) (val : Word)
  | wake (q : Nat) | answer (retry : Bool) (f : FaultRec) (a : FaultAgent) | host (a : HostAct)
  deriving DecidableEq, Repr
/-- R422: the access of the host that waited: that of its row. -/
def HostAct.run : HostAct → State → Out
  | .wake q, s => execWakeRegisterWrite q s
  | .mbxbase v, s => execMbxbaseWrite v s
  | .mbxdoor v, s => execMbxdoorWrite v s
  | .rssize v, s => execRssizeWrite v s
  | .dbgstop v, s => execDbgstopWrite v s
  | .retry tok, s => execPfresolveRetry tok s
  | .fail tok, s => execPfresolveFail tok s
  | .invalidate v, s => if v.getLsbD 16 then execInvalidateContext v s else execInvalidateRange v s
  | .register off v, s => execHostRegisterWrite off v s
  | .enableSet p, s => execLnkctlEnableSet p s
  | .enableClear p, s => execLnkctlEnableClear p s
  | .retrain p, s => execLnkctlRetrain p s
  | .cxl write a v, s => execCxlMemAccess write a v s
/-- R422: the oldest access of the host that waits is made; what waits behind it goes on waiting, unless the port is lost. -/
def State.takeHost (s : State) (a : HostAct) : State :=
  match a.run { s with host := { s.host with waiting := [] } } with
  | .next t => if t.hostUp || (t.port 0).st == .retraining then { t with host := { t.host with waiting := s.host.waiting.drop 1 ++ t.host.waiting } } else t
  | _ => s
/-- The meaning of what a step runs: that of its row. -/
def Pick.run : Pick → State → Out
  | .row i, s => exec i s
  | .octantSwitch core oct mode, s => execOctantModeSwitch core oct mode s
  | .octantDrained core oct, s => execOctantDrainComplete core oct s
  | .fifomap team val, s => execFifomapWrite team val s
  | .wake q, s => .next (s.takeWake q)
  | .answer retry f a, s => .next (s.takeAnswer retry f a)
  | .host a, s => .next (s.takeHost a)

/-- R114: what the pilot that takes an event does. -/
def PilotAct.pick : PilotAct → Pick
  | .row i => .row i
  | .wake q => .wake q
  | .answer retry f a => .answer retry f a

/-- The state after a meaning that answers one. -/
def State.after (s : State) (p : Pick) : State :=
  match p.run s with
  | .next s' => s'
  | _ => s

/-- R49: the first wave whose clause was held before an instruction and can go on. -/
def State.heldWave (s : State) : Option Nat :=
  (s.waves.map (·.1)).find? fun w => match s.clauseInstr w with
    | none => false
    | some i => ({ s with cur := w }.after (.row i)).cur != 0

/-- The keys of a map. -/
def allKeys {α : Type} (m : Map α) : List Nat := m.map (·.1)

/-- R49, R50, R53, R148, R164: the events of waves. -/
def State.waveEvents (s : State) : List Instr :=
  let ws := allKeys s.waves
  ws.map .takeTrap ++ ws.map .clauseReplay ++
    ws.flatMap (fun w => (List.range (s.wave w).flights.length).map (.resultLands w)) ++
    ws.flatMap (fun w => (List.range (s.wave w).parks.length).map (.parkRelease w)) ++ ws.map .sleepExpiry

/-- R295 to R299, R350 to R361: the events of engines. -/
def State.engineEvents (s : State) : List Instr :=
  let js := allKeys s.copies
  let ts := allKeys s.teams
  js.map .lcopyComplete ++ js.map .lcopyoComplete ++ js.map .tcopyoComplete ++
    js.flatMap (fun j => ts.map (.tcopyArrival j)) ++ js.flatMap (fun j => ts.map (.tredArrival j)) ++
    js.map .tileTransferAcknowledged ++ (dedup (s.cmds.map (·.2.cluster))).map .mxeIslandPowerUp ++
    (allKeys s.cmds).map .mxeCommandComplete ++ (allKeys s.cmds).map .mxeCommandStart

/-- R154: the quadrants with waves, beginning with another one at each turn. -/
def State.issueEvents (s : State) : List Instr :=
  let qs := dedup (s.waves.map fun w => (w.2.core, w.2.quad))
  (qs.rotateLeft (s.turn % max qs.length 1)).map fun x => .issueSelect x.1 x.2

/-- R149 to R153, R436 to R438: the events of the placer. -/
def State.placerEvents (s : State) : List Instr :=
  let ps := List.range 8
  (allKeys s.teams).map .teamRetire ++ (dedup (s.teams.map (·.2.core))).map .teamUnpark ++ ps.map .gangPlace ++ ps.map .teamAdmit ++ (allKeys s.teams).map .teamPark ++
    (allKeys s.ctxs).map .preemptComplete ++ (allKeys s.ctxs).map .contextQuiesced ++ (allKeys s.ctxs).map .contextRestore ++
    (allKeys s.ctxs).map .preempt

/-- R104 to R119, R133, R143: what the command processor may do now, as events for its Pilot cores (log 134): mailbox commands, completions,
decodes, and what timers bring. -/
def State.pilotEvents (s : State) : List PilotEvent :=
  let ev (kind : Nat) (q : Option Nat) (i : Instr) : PilotEvent := { kind := kind, queue := q, act := .row i }
  let pkts := s.queues.flatMap fun q => (allKeys q.2.pkts).map fun i => (q.1, i)
  let nodes := pkts.flatMap fun x => (List.range (s.pkt x.1 x.2).nodes.length).map fun n => (x.1, x.2, n)
  let perQueue (kind : Nat) (f : Nat → List Instr) : List PilotEvent := (allKeys s.queues).flatMap fun q => (f q).map (ev kind (some q))
  ([.createContext, .suspend, .resume, .destroy, .receiptContext, .partition, .createQueue, .destroyQueue, .resetQueue, .logbookRead,
    .logbookClear, .keyRead, .unassignedMailboxOpcode] : List Instr).map (ev 4 none) ++
    pkts.map (fun x => ev 1 (some x.1) (.packetComplete x.1 x.2)) ++
    nodes.map (fun x => ev 1 (some x.1) (.graphNodeComplete x.1 x.2.1 x.2.2)) ++
    s.grids.map (fun g => ev 1 (some g.2.origin.queue) (.childGridDecode g.1)) ++
    s.grids.map (fun g => ev 1 (some g.2.origin.queue) (.gridRetire g.1)) ++
    s.flows.map (fun f => ev 1 (some f.2.queue) (.rootTaskCreate f.1)) ++
    perQueue 3 (fun q => [.waitTimeout q]) ++ perQueue 0 (fun q => [.queueMappingDone q]) ++ perQueue 0 (fun q => [.queueUnmapDone q]) ++
    s.nextQueue.toList.map (fun q => ev 0 (some q) (.queueSlotGrant q)) ++ perQueue 3 (fun q => [.queueUnmap q]) ++
    perQueue 0 fun q => [.nopPacket q, .launchPacket q, .graphPacket q, .flowStart q, .flowQuiesce q, .flowStop q, .copyPacket q,
      .signalPacket q, .waitPacket q, .pstepPacket q, .measurePacket q, .receiptPacket q, .fencePacket q, .energyBudget q,
      .energyAllowance q, .markerPacket q, .reservedKindPacket q]

/-- R375, R388, R391 to R397: the events of records. -/
def State.recordEvents (s : State) : List Instr :=
  let rs := allKeys s.recs
  rs.map .nodeStep ++ rs.map .spillReturn ++ rs.map .binPatienceExpiry ++ (List.range 8).map .batchDelivery ++ (allKeys s.waves).map .berthRetarget

/-- R281, R440, R99: the other events that come of themselves. -/
def State.otherEvents : List Instr := [.invalidationComplete, .aliasGenerationCreate, .wearRefresh] ++ (List.range 160).map .energyAttribution

/-- R284, R289: the events of bank octants: those the placer turns, drains that end, writes to FIFOMAP that waited for a frame. -/
def State.octantEvents (s : State) : List Pick :=
  s.switches.map (fun x => .octantSwitch x.1 x.2.1 x.2.2) ++ s.dev.drains.map (fun d => .octantDrained d.1 d.2.1) ++
    s.teams.filterMap fun t => t.2.loc.fifoPend.head?.map (.fifomap t.1)

/-- Whether an event does something now. -/
def State.due (s : State) (p : Pick) : Bool := s.after p != s
/-- R114, R445: the Pilot cores' next event, none while they are under test: the oldest of the event queue; when it is empty, what the command processor may do enters it. -/
def State.nextPilot (s : State) : Option (Pick × State) :=
  if s.serviceTested 0x99 then none
  else if !s.pilots then (if s.due (.row .pilotComplexRestart) then some (.row .pilotComplexRestart, s) else none)
  else
    match (if s.host.events.isEmpty then s.pilotEvents.filter fun e => s.due e.act.pick else s.host.events) with
    | e :: t => some (e.act.pick, { s with host := { s.host with events := t } })
    | [] => none

/-- The first event that is due, accesses of the host that waited before others; when none is, and after every 256 turns, a microsecond passes (R439). -/
def State.autoEvent (s : State) : Pick × State :=
  if s.turn % 256 = 255 then (.row .energyCounterTick, s)
  else if let a :: _ := (if s.hostUp then s.host.waiting else []) then (.host a, s)
  else
    match ((s.waveEvents ++ s.engineEvents).map Pick.row ++ s.octantEvents ++
        (s.placerEvents ++ (allKeys s.ctxs).map Instr.chainAppend).map Pick.row).find? s.due with
    | some p => (p, s)
    | none => match s.nextPilot with
      | some x => x
      | none => ((((s.recordEvents ++ State.otherEvents ++ s.issueEvents).map Pick.row).find? s.due).getD (.row .energyCounterTick), s)

/-- R108: every 5 µs each WAIT that holds its queue reads again. -/
def State.rereads (s : State) : List PilotEvent :=
  if s.dev.time % 5000 = 0 then
    (mkeys s.queues fun q => q.waiting.isSome).map fun q => { kind := 3, queue := some q, act := .row (.waitReread q) }
  else []

/-- What the next step runs, at which state: an event that comes first, the clause at hand, a held instruction, an event. -/
def State.nextMove (s : State) : Pick × State :=
  match s.agenda with
  | i :: t => (.row i, { s with agenda := t })
  | [] => match s.clauseInstr s.cur with
    | some i => (.row i, s)
    | none => match s.heldWave with
      | some w => (.row ((s.clauseInstr w).getD .energyCounterTick), { s with cur := w })
      | none =>
        let (p, s) := s.autoEvent
        (p, { s with turn := s.turn + 1, host := { s.host with events := s.host.events ++ (if p = .row .energyCounterTick then s.rereads else []) } })

/-! ## Placing a word where a step fetches it -/

/-- A clause whose next instruction is a word. -/
def Clause.holding (w : DWord) : Clause :=
  { hdr := 0x10000, head := headerWord 15 1 false, words := [w], idx := 0, set := BitVec.allOnes 32, cond := none, rotate := false, pcs := []
    depths := [], ends := none, dropRec := 0, latch := [], freed := [], trap := false, sr0 := List.replicate 32 0 }
/-- A lane with its registers zero. -/
def Lane.blank : Lane :=
  { pc := 0x10000, depth := 0, meet := 0, exited := false, block := .none, xblock := .none, p := 0, i0 := 0, i1 := 0, i2 := 0, i3 := 0, lsr := 0x100
    srcnt := 0, v := List.replicate 192 0, xlpc := 0, held := none, lid := -1 }
/-- A wave of 32 lanes and 192 registers, its registers zero, that is about to run a word. -/
def Wave.holding (c team : Nat) (w : DWord) : Wave :=
  { Wave.fresh team 0 0 0 c 0 0x10000 0 with
    st := .issuing, alloc := 192, lanes := List.replicate 32 Lane.blank, lastSet := BitVec.allOnes 32, turn := 0, clause := some (Clause.holding w) }
/-- A team on core 0 with 8 KiB of local store. -/
def Team.holding (g : Nat) : Team := Team.make g 0 0 0 .resident 8192 none none 0 0

/-- The machine with a word where the next step fetches it: in the clause being issued, else in the clause of a wave of a context,
a grid and a team made for it, whose page has a frame (R135). -/
def State.withWord (s : State) (w : DWord) : State :=
  let s := { s with agenda := [], dev := { s.dev with powered := true } }
  match (s.wave s.cur).clause with
  | some c => s.updWave s.cur fun x => { x with clause := some { c with words := (c.words.take c.idx) ++ w :: c.words.drop (c.idx + 1) } }
  | none =>
    let k := s.key
    let c := 0
    let g : Grid := { (default : Grid) with ctx := c, st := .running, teams := 1, nextTeam := 1, launch := 1 }
    let x : Ctx := if (mget s.ctxs c).isSome then s.ctx c else { s.newCtx c default with st := .active }
    { s with
      key := k + 3
      ctxs := mset s.ctxs c x
      grids := mset s.grids k g
      teams := mset s.teams (k + 1) (Team.holding k)
      dev := { s.dev with octants := mset s.dev.octants 0 [1, 0, 0, 0, 0, 0, 0, 0] }
      waves := mset s.waves (k + 2) (Wave.holding c (k + 1) w)
      cur := k + 2 }

end Sys2Proof.Machine
end

