-- ==== Sys2Proof/Machine/Step.lean ====
section
/-! DEFINITION. The step. -/
namespace Sys2Proof.Machine

/-- One step: what `nextMove` names, run at the state it names; nothing runs without power. -/
def step (s : State) : Host.Outcome State Fault Refusal :=
  if s.dev.powered then s.nextMove.1.run s.nextMove.2 else .fault .unpowered

/-- The machine with an instruction of the table where the next step fetches it. -/
def State.withFetchWord (s : State) (nbits w : Nat) : State := s.withWord (BitVec.ofNat 64 (w % 2 ^ nbits))

end Sys2Proof.Machine
end

