-- ==== Sys2Proof/WellFormed.lean ====
section
/-! DEFINITION. When an instruction is well formed (R55 step 2, R62, R63, R67): reserved fields zero, modifiers accepted, operands
legal for an allocation. An event is always well formed: its guard is part of its meaning. -/
namespace Sys2Proof

/-- The cause a word of this instruction raises at decode in an allocation of registers per lane; none for a legal one. -/
def Instr.decodeCause (i : Instr) (alloc : Nat) : Option Nat :=
  match Machine.formOf i with
  | some (f, p) => f.cause p alloc
  | none => none

/-- The reserved fields are zero (R62). -/
def Instr.reservedZero (i : Instr) : Bool :=
  match Machine.formOf i with
  | some (f, _) => f.rsv
  | none => true

/-- The predicate and the modifiers are accepted (R57, R61). -/
def Instr.modifiersOk (i : Instr) : Bool :=
  match Machine.formOf i with
  | some (f, p) => f.mods && p != 15
  | none => true

/-- The operands are legal (R63, R67). -/
def Instr.operandsOk (i : Instr) (alloc : Nat) : Bool :=
  match Machine.formOf i with
  | some (f, _) => (f.ops.all fun o => o.ok alloc) && !([0, 1, 2, 3, 4].any f.bad.contains)
  | none => true

/-- A well-formed instruction for an allocation. -/
def Instr.wellFormed (i : Instr) (alloc : Nat) : Bool := (i.decodeCause alloc).isNone

/-- R58: an instruction of a clause, as against an event. -/
def Instr.isWord (i : Instr) : Bool := !(encode i).isEmpty

end Sys2Proof
end

