-- ==== Sys2Proof/Safety.lean ====
section
/-! DEFINITION. What a sound state and a sound step are, in the terms claims use: memories in canonical form, an instruction
at hand, and what a completed instruction changed and left. -/
namespace Sys2Proof.Machine

/-- The memories keep their canonical form. -/
def State.memOk (s : State) : Prop := Memory.wf s.mem = true ∧ Memory.wf s.hostMem = true

/-- The local store of every team keeps its canonical form. -/
def State.localOk (s : State) : Prop := ∀ t ∈ s.teams, Memory.wf t.2.loc.data = true

/-- A step that does not stop. -/
def State.goesOn (s : State) : Prop := ∃ t, step s = .next t

/-! ## An instruction at hand -/

/-- An instruction is the next one of the clause being issued: it is well formed for the wave's allocation (R55), `e` is
what it sees, its active lanes among it (R57), and every index register its operands go through is in range (R66). -/
structure State.AtHand (s : State) (i : Instr) (e : Env) : Prop where
  sees : ∃ f p, formOf i = some (f, p) ∧ begin_ s p = some e ∧ e.indexFault f = none
  wf : i.wellFormed e.wv.alloc = true

/-! ## Destinations (R63, R65, R66) -/

/-- A lane after the `k`-th register of destination `d` took a 32-bit value in it: a `v` register, or the register its
index register reaches; `w` registers and `%zero` are no register of a lane. -/
def Env.toLane (e : Env) (d : BitVec 8) (k : Nat) (pair : Bool) (l x : Nat) (ln : Lane) : Lane :=
  if d.toNat < 0xC0 then ln.setV (d.toNat + k) (BitVec.ofNat 32 x)
  else if 0xE0 ≤ d.toNat ∧ d.toNat < 0xE4 then
    match e.wv.index l (d.toNat - 0xE0) pair with
    | some r => ln.setV (r + k) (BitVec.ofNat 32 x)
    | none => ln
  else ln

/-- The `w` registers after the `k`-th register of destination `d` took the value of the lowest active lane. -/
def Env.toFile (e : Env) (d : BitVec 8) (k : Nat) (x : Nat → Nat) (w : List Word) : List Word :=
  if 0xC0 ≤ d.toNat ∧ d.toNat < 0xE0 ∧ e.L ≠ 0 then w.set (d.toNat - 0xC0 + k) (BitVec.ofNat 32 (x e.l0)) else w

/-! ## What a completed instruction did -/

/-- A flight apart from the registers its results still go to (R50: another instruction may have taken some over). -/
def Flight.core (f : Flight) : Option Nat × LaneMask × List (Nat × Flags) := (f.tok, f.hold, f.flags)
/-- A parked operation apart from the registers its result still goes to. -/
def Park.core (p : Park) : Nat × Instr × Option Nat × LaneMask × List (Nat × List Nat) := (p.seq, p.instr, p.tok, p.hold, p.lanes)

/-- `v` is the wave `v0`, but for its count of main-file reads (R157) and the last-read marks its clause has met (R54); and,
where the wave had results outstanding, for which of them still land in registers written since (R50). -/
structure Env.Is (e : Env) (v v0 : Wave) : Prop where
  clause : ∃ c c0 : Clause, v.clause = some c ∧ v0.clause = some c0 ∧ { c with freed := c0.freed } = c0
  same : { v with clause := v0.clause, mfreads := v0.mfreads, flights := v0.flights, parks := v0.parks } = v0
  flights : v.flights.map Flight.core = v0.flights.map Flight.core
  newFlights : v.flights.drop e.wv.flights.length = v0.flights.drop e.wv.flights.length
  parks : v.parks.map Park.core = v0.parks.map Park.core
  newParks : v.parks.drop e.wv.parks.length = v0.parks.drop e.wv.parks.length
  quiet : e.s.quiet e.w e.wv = true → v.flights = v0.flights ∧ v.parks = v0.parks

/-- The copies, engine commands and contexts (with their log appends), apart from the registers that results still go to. -/
def State.outstanding (s : State) : Map CopyJob × Map MxCmd × Map Ctx :=
  (mmap s.copies fun _ j => { j with dst := [] }, mmap s.cmds fun _ k => { k with dst := [] },
    mmap s.ctxs fun _ c => { c with appends := c.appends.map fun r => match r.waiter with
      | .flight v t _ => { r with waiter := .flight v t [] }
      | _ => r })

/-- `u` is the state `s0` with the issuing wave `v0`: every other wave and every other field is as in `s0`. Where the wave had
results outstanding, the copies, engine commands and log appends among them may have lost registers written since (R50). -/
structure Env.Leaves (e : Env) (u s0 : State) (v0 : Wave) : Prop where
  wave : ∃ v : Wave, mget u.waves e.w = some v ∧ e.Is v v0
  waves : ∀ k, k ≠ e.w → mget u.waves k = mget s0.waves k
  rest : { u with waves := s0.waves, copies := s0.copies, cmds := s0.cmds, ctxs := s0.ctxs } = s0
  kept : u.outstanding = s0.outstanding
  quiet : e.s.quiet e.w e.wv = true → u.copies = s0.copies ∧ u.cmds = s0.cmds ∧ u.ctxs = s0.ctxs

/-- The instruction ran: it left `s0` with the wave `v0`, and the clause goes on behind it. -/
def Env.Gives (e : Env) (i : Instr) (s0 : State) (v0 : Wave) : Prop := ∃ u, exec i e.s = .next (e.done u) ∧ e.Leaves u s0 v0

/-- The instruction raised a fault before completion (R425): a cause, its lanes, an address and XINFO (else the instruction's
index), with none of its own effects. -/
def Env.Faults (e : Env) (i : Instr) (cause : Nat) (lanes : LaneMask) (addr : DWord := 0) (info : Option Word := none) : Prop :=
  ∃ (u : State) (c : Clause), exec i e.s = .next (u.faultNow e.w c cause lanes addr info) ∧ e.Leaves u e.s e.wv ∧
    { c with freed := e.cl.freed } = e.cl

/-- The instruction ran with results now: each active lane went through `f`, `w` are the wave's registers now, nothing else
changed. -/
def Env.Ran (e : Env) (i : Instr) (f : Nat → Lane → Lane) (w : List Word) : Prop :=
  e.Gives i e.s { e.wv with lanes := mapIx (fun l ln => if inMask e.L l then f l ln else ln) 0 e.wv.lanes, w := w }

/-- R37: a lane drew words of SR. -/
def Lane.drew (ln : Lane) (n : Nat) : Lane := { ln with srcnt := ln.srcnt + BitVec.ofNat 32 n }

/-- The instruction wrote a 32-bit destination, merged flags and drew words of SR in each active lane (R40, R65, R37). -/
def Env.Sets (e : Env) (i : Instr) (d : BitVec 8) (x : Nat → Nat) (fl : Nat → Flags := fun _ => 0) (dr : Nat → Nat := fun _ => 0) :
    Prop :=
  e.Ran i (fun l ln => ((e.toLane d 0 false l (x l) ln).flag (fl l)).drew (dr l)) (e.toFile d 0 x e.wv.w)

/-- The instruction wrote a 64-bit destination, the low word in the lower register (R67). -/
def Env.Sets64 (e : Env) (i : Instr) (d : BitVec 8) (x : Nat → Nat) (fl : Nat → Flags := fun _ => 0)
    (dr : Nat → Nat := fun _ => 0) : Prop :=
  e.Ran i (fun l ln => ((e.toLane d 1 true l (x l / 2 ^ 32) (e.toLane d 0 true l (x l) ln)).flag (fl l)).drew (dr l))
    (e.toFile d 1 (fun l => x l / 2 ^ 32) (e.toFile d 0 x e.wv.w))

/-- The instruction wrote a 32-bit destination and a predicate in each active lane; `p7` takes none (R57). -/
def Env.SetsP (e : Env) (i : Instr) (d : BitVec 8) (x : Nat → Nat) (p : Nat) (b : Nat → Bool) (fl : Nat → Flags := fun _ => 0) :
    Prop :=
  e.Ran i (fun l ln => ((e.toLane d 0 false l (x l) ln).setPred p (b l)).flag (fl l)) (e.toFile d 0 x e.wv.w)

/-- The instruction put one long-latency operation on its way, counted on token `t` or holding the next clause of its set (R49, R50):
its register results `ws` and flags `fl` land later; with no active lane nothing is on its way. What it did at once is in `s0`
and the issuing wave `v0`; `mma` marks a matrix operation (R341). -/
def Env.SendsFrom (e : Env) (i : Instr) (t : Option Nat) (hold : Bool) (ws : List RegWrite) (fl : List (Nat × Flags)) (s0 : State)
    (v0 : Wave) (mma : Bool := false) : Prop :=
  e.Gives i s0 (if e.L = 0 then v0 else
    { (v0.tokUp t) with flights := v0.flights ++ [{ tok := t, hold := e.holds hold, writes := ws, flags := fl, mma := mma }] })

/-- The same, where the issuing wave changed in nothing else. -/
def Env.Sends (e : Env) (i : Instr) (t : Option Nat) (hold : Bool) (ws : List RegWrite) (fl : List (Nat × Flags) := [])
    (s0 : State := e.s) (mma : Bool := false) : Prop :=
  e.SendsFrom i t hold ws fl s0 e.wv mma

/-- A memory instruction's operation: counted on its token, or without one holding the next clause (R49, R60). -/
def Env.Sent (e : Env) (i : Instr) (f : FM) (g : Nat → LaneOut) (s0 : State) (v0 : Wave) : Prop :=
  e.SendsFrom i (tokenOf f) (!f.tv) ((lanesOf e.L).flatMap fun l => (g l).regs)
    (((lanesOf e.L).map fun l => (l, (g l).flags)).filter fun x => x.2 != 0) s0 v0

/-- R50: lanes `ls` of an instruction wait: it parks with the registers `ws` its results go to, counted on token `t`, or holding the
next clause of the lanes `hold`. What it did at once is in `s0` and the issuing wave `v0`. -/
def Env.Waits (e : Env) (i : Instr) (t : Option Nat) (hold : LaneMask) (ls : List (Nat × List Nat)) (ws : List RegWrite) (s0 : State)
    (v0 : Wave) : Prop :=
  ∃ u, exec i e.s = .next (e.done u).bumpKey ∧ e.Leaves u s0
    { (v0.tokUp t) with parks := v0.parks ++ [{ seq := e.s.key, instr := i, tok := t, hold := hold, lanes := ls, dst := ws }] }

/-- R50: a memory instruction parks: it counts on its token, or without one holds the next clause. -/
def Env.Parks (e : Env) (i : Instr) (f : FM) (ls : List (Nat × List Nat)) (ws : List RegWrite) (s0 : State) (v0 : Wave := e.wv) : Prop :=
  e.Waits i (tokenOf f) (e.holds (!f.tv)) ls ws s0 v0

/-- R291: a copy begins: the job counts on its token, its lines are pinned and take the tag `tag`, owned by it; `n` free values
were drawn. -/
def Env.Starts (e : Env) (i : Instr) (j : CopyJob) (tag : Option Tag) (n : Nat) : Prop :=
  let s0 := { e.s with key := e.s.key + 1, ctr := e.s.ctr + n, copies := mset e.s.copies e.s.key j }
  let s1 := match tag with
    | none => s0
    | some t => (j.lines.foldl (fun u k => u.pin e.wv.team (k * 128 / 8192)) s0).updTeam e.wv.team fun x =>
        { x with loc := j.lines.foldl (fun lo k => lo.setTag k { (lo.tagAt k) with tag := t, owner := 2 * e.s.key }) x.loc }
  ∃ u, exec i e.s = .next (e.done u) ∧ e.Leaves u s1 (e.wv.tokUp (some j.tok)) ∧ mget u.copies e.s.key = some j

/-- R351, R354, R355: a matrix-engine command is queued: its team takes a window if one is free; the lines of its local operands turn DRAINING, those it fills FILLING, owned by
it and pinned; it counts on its token. -/
def Env.Queues (e : Env) (i : Instr) (f : FE) (shapes : List Shape) (block : List Word) (start : List Nat)
    (lines : List (Nat × Nat × Bool)) (outs : List (Nat × Nat)) : Prop :=
  let cmd : MxCmd :=
    { instr := i, ctx := e.wv.ctxn, wave := e.w, team := e.wv.team, cluster := e.wv.core / 4, tok := f.mod.toNat,
      dst := e.statusDst f.d, shapes := shapes, block := block, start := start, id := e.s.logicalId e.wv e.l0,
      seed := e.s.seedOf e.wv, lines := lines, outLines := outs, st := .queued, since := 0, flags := 0 }
  let owned := fun (t : Tag) (u : State) (x : Nat × Nat) =>
    (u.pin x.1 (x.2 / 64)).updTeam x.1 fun y =>
      { y with loc := y.loc.setTag x.2 { (y.loc.tagAt x.2) with tag := t, owner := 2 * e.s.key } }
  let s0 := e.s.claimWindow (e.wv.core / 4) e.wv.team
  let s1 := outs.foldl (owned .filling) ((lines.map fun x => (x.1, x.2.1)).foldl (owned .draining) { s0 with key := s0.key + 1 })
  ∃ u, exec i e.s = .next (e.done u) ∧
    e.Leaves u { s1 with cmds := mset s1.cmds e.s.key cmd } (e.wv.tokUp (some f.mod.toNat)) ∧ mget u.cmds e.s.key = some cmd

/-- At hand, and its token can count another operation (R49). -/
structure State.Room (s : State) (i : Instr) (f : FM) (e : Env) : Prop where
  hand : s.AtHand i e
  room : e.full (tokenOf f) = false

/-- Moreover no operation of its lanes waits (R231). -/
structure State.Ready (s : State) (i : Instr) (f : FM) (e : Env) : Prop extends s.Room i f e where
  order : e.behind = 0

/-- R231, R233: no access of the instruction's lanes waits. -/
def Env.settled (e : Env) : Prop := e.behind = 0

/-! ## Events of the device -/

/-- An event happened and left `u`; the next free values are others (log 1). -/
def State.Gets (s : State) (i : Instr) (u : State) : Prop := exec i s = .next u.tick

/-- R106, R112: the next packet of queue `q` may be decoded: its slot and control block can be reached, nothing holds it back, and
`p` is the copy of its 64 bytes. -/
structure State.Decodes (s : State) (q : Nat) (x : Queue) (p : Pkt) : Prop where
  queue : mget s.queues q = some x
  up : s.dev.pilotDown = none
  active : x.st = .mappedActive
  next : x.decode < x.write
  free : ∀ y ∈ x.pkts, y.2.holds = false
  waits : s.awaits (.queue q) = false
  slot : s.rangeFault x.ctx (x.ring + 64 * (x.decode % 2 ^ x.logSize)) 64 0 = none
  block : s.rangeFault x.ctx x.ctl 8 0 = none ∧ s.agentFault x.ctx (x.ctl + 8) 32 1 = none
  copy : p = Pkt.ofBytes (s.svbytes x.ctx (x.ring + 64 * (x.decode % 2 ^ x.logSize)) 64)
  barrier : bitAt (p.word 0) 14 = true → x.decode ≤ x.retire

/-- R106: the packet is copied and DECODE moves past it. -/
def State.copied (s : State) (q : Nat) (x : Queue) (p : Pkt) : State :=
  (s.updQueue q fun y => { y with decode := x.decode + 1, pkts := mset y.pkts x.decode p }).svwrite x.ctx (x.ctl + 8)
    (leBytes 8 (x.decode + 1))

/-- A packet was decoded and left `u`. -/
def State.Packet (s : State) (i : Instr) (q : Nat) (u : State) : Prop := s.Gets i (u.settleQueue q)

/-- R116: the device takes the next mailbox entry `e`, of opcode `op`. -/
structure State.Entry (s : State) (op : Nat) (e : List Byte) : Prop where
  link : s.hostUp = true
  boot : s.host.bootstat = 1
  up : s.dev.pilotDown = none
  pending : s.host.taken < s.host.submitted
  waits : s.awaits .mbx = false
  entry : e = s.pread true (s.host.mbxbase.toNat + 64 * (s.host.taken % 256)) 64
  opcode : (e.getD 0 0).toNat = op

/-- R116: bit by bit, byte `k` of an entry is reserved and nonzero, where `operands` are the bits of the command's operands. -/
def stray (operands : Nat → Nat) (e : List Byte) (k : Nat) : Prop :=
  k < 64 ∧ k ≠ 0 ∧ ¬ (4 ≤ k ∧ k < 8) ∧ Nat.land (e.getD k 0).toNat (255 - operands k) ≠ 0

/-- R116: the next entry is a command whose bits outside its operands are zero. -/
structure State.Command (s : State) (op : Nat) (operands : Nat → Nat) (e : List Byte) : Prop extends State.Entry s op e where
  zero : ∀ k, k < 64 → k ≠ 0 → ¬ (4 ≤ k ∧ k < 8) → Nat.land (e.getD k 0).toNat (255 - operands k) = 0

/-- A mailbox command at hand completed with a status, after `u` (R107, R116). -/
def State.Answers (s : State) (i : Instr) (u : State) (code detail : Nat) : Prop := s.Gets i (u.mbxDone code detail)

/-! ## Operands as words -/

/-- Operand A of an integer instruction in a lane, as a word (R63, R64). -/
def Env.wa (e : Env) (f : F3) (l : Nat) : Word := BitVec.ofNat 32 (e.src constInt f.a l)
/-- Operand B as a word. -/
def Env.wb (e : Env) (f : F3) (l : Nat) : Word := BitVec.ofNat 32 (e.src constInt f.b l)
/-- Operand C as a word. -/
def Env.wc (e : Env) (f : F3) (l : Nat) : Word := BitVec.ofNat 32 (e.src constInt f.c l)
/-- Operand A of an immediate instruction as a word. -/
def Env.wi (e : Env) (f : FI) (l : Nat) : Word := BitVec.ofNat 32 (e.src constInt f.a l)
/-- A 64-bit operand (R67). -/
def Env.wide (e : Env) (sp : BitVec 8) (l : Nat) : DWord := BitVec.ofNat 64 (e.src64 sp l)

/-- R22, R190: the integer a word stands for. -/
def numOf (signed : Bool) {w : Nat} (x : BitVec w) : Int := if signed then x.toInt else (x.toNat : Int)
/-- R22, R190: an integer result in `w` bits: wrapped, or with SAT clamped to the range of its signedness. -/
def satTo (sat signed : Bool) (w : Nat) (x : Int) : BitVec w :=
  BitVec.ofInt w (if sat then
    (if signed then max (-2 ^ (w - 1)) (min x (2 ^ (w - 1) - 1)) else max 0 (min x (2 ^ w - 1))) else x)

/-- Operands A and B of a floating-point instruction of `w` bits, after absolute value and negation (R59). -/
def Env.fa (e : Env) (f : F3) (l : Nat) : Nat := signMod 32 f.negA f.absA (e.src constF32 f.a l)
/-- Operand B in FP32. -/
def Env.fb (e : Env) (f : F3) (l : Nat) : Nat := signMod 32 f.negB f.absB (e.src constF32 f.b l)
/-- Operand A in FP64. -/
def Env.ga (e : Env) (f : F3) (l : Nat) : Nat := signMod 64 f.negA f.absA (e.srcD f.a l)
/-- Operand B in FP64. -/
def Env.gb (e : Env) (f : F3) (l : Nat) : Nat := signMod 64 f.negB f.absB (e.srcD f.b l)
/-- Half `i` of operand A, B or C of a packed-half instruction. -/
def Env.ha (e : Env) (f : F3) (i l : Nat) : Nat :=
  signMod 16 f.negA f.absA (e.src (constHalf (fmtOf f.fmt.toNat)) f.a l / 65536 ^ i % 65536)
/-- Half `i` of operand B. -/
def Env.hb (e : Env) (f : F3) (i l : Nat) : Nat :=
  signMod 16 f.negB f.absB (e.src (constHalf (fmtOf f.fmt.toNat)) f.b l / 65536 ^ i % 65536)
/-- Half `i` of operand C. -/
def Env.hc (e : Env) (f : F3) (i l : Nat) : Nat := e.src (constHalf (fmtOf f.fmt.toNat)) f.c l / 65536 ^ i % 65536

/-- An FP32 instruction: each active lane takes the pattern and the flags `r` says, and draws a word of SR under mode 6. -/
def Env.Fp (e : Env) (i : Instr) (d : BitVec 8) (rnd : BitVec 3) (r : Nat → Nat × Flags) : Prop :=
  e.Sets i d (fun l => (r l).1) (fun l => (r l).2) fun l => if e.mode true rnd.toNat l = 6 then 1 else 0
/-- An FP64 instruction. -/
def Env.Fp64 (e : Env) (i : Instr) (d : BitVec 8) (rnd : BitVec 3) (r : Nat → Nat × Flags) : Prop :=
  e.Sets64 i d (fun l => (r l).1) (fun l => (r l).2) fun l => if e.mode true rnd.toNat l = 6 then 1 else 0
/-- A packed-half instruction: both halves, flags together, two words of SR under mode 6 (R217). -/
def Env.Fp2 (e : Env) (i : Instr) (d : BitVec 8) (rnd : BitVec 3) (r : Nat → Nat → Nat × Flags) : Prop :=
  e.Sets i d (fun l => (r 0 l).1 + (r 1 l).1 * 65536) (fun l => (r 0 l).2 ||| (r 1 l).2)
    fun l => if e.mode true rnd.toNat l = 6 then 2 else 0

/-! ## Rounding (R29 to R31) -/

/-- The number a finite value stands for. -/
def Fv.num : Fv → Rat
  | .fin neg m e => (if neg then -1 else 1) * m * (2 : Rat) ^ e
  | _ => 0
/-- The number that the positive pattern `k` of a format stands for. -/
def FpFmt.at_ (t : FpFmt) (k : Nat) : Rat := (t.val k).num

/-- R29, R33: a magnitude `x` between the adjacent magnitudes `a` and `b` takes `b`; `odd` says that the pattern of `a` is odd, `w` is the
word of SR. -/
def roundsAway (mode : Nat) (neg : Bool) (w : Nat) (odd : Prop) (a x b : Rat) : Prop :=
  a < x ∧ ((mode = 1 ∧ (a + b < 2 * x ∨ a + b = 2 * x ∧ odd)) ∨ (mode = 3 ∧ neg = false) ∨ (mode = 4 ∧ neg = true) ∨
    (mode = 5 ∧ a + b ≤ 2 * x) ∨ (mode = 6 ∧ 4294967296 ≤ (w : Int) + (4294967296 * (x - a) / (b - a)).floor))

/-- R31, R39: the rounded magnitude exceeds the largest finite value, the exponent unbounded. -/
def FpFmt.exceeds (t : FpFmt) (mode : Nat) (neg : Bool) (w : Nat) (x : Rat) : Prop :=
  let b := 2 * t.at_ t.max - t.at_ (t.max - 1)
  b ≤ x ∨ roundsAway mode neg w (t.max % 2 = 1) (t.at_ t.max) x b

/-- R29, R31: what a magnitude `x` with a sign rounds to: one of the two patterns around it, or the overflow result of the mode. -/
def FpFmt.RoundsTo (t : FpFmt) (mode : Nat) (sat : Bool) (w : Nat) (neg : Bool) (x : Rat) (p : Nat) : Prop :=
  (∀ k, k < t.max → t.at_ k ≤ x → x < t.at_ (k + 1) →
    (roundsAway mode neg w (k % 2 = 1) (t.at_ k) x (t.at_ (k + 1)) → p = t.signed neg (k + 1)) ∧
    (¬ roundsAway mode neg w (k % 2 = 1) (t.at_ k) x (t.at_ (k + 1)) → p = t.signed neg k)) ∧
  (t.at_ t.max ≤ x → ¬ t.exceeds mode neg w x → p = t.signed neg t.max) ∧
  (t.exceeds mode neg w x → p = if sat = true ∨ mode = 2 ∨ (mode = 3 ∧ neg = true) ∨ (mode = 4 ∧ neg = false) then t.signed neg t.max
    else if t.ocp4 then t.nan else t.signed neg t.inf)

/-- R200: the comparison a compare instruction combines with a predicate: AND, OR or XOR with the coded predicate of C. -/
def Env.joined (e : Env) (c : BitVec 8) (r : Nat → Bool) (l : Nat) : Bool :=
  let q := (e.rp (bits c.toNat 2 0) l) ^^ bitAt c.toNat 3
  if bits c.toNat 5 4 = 0 then r l && q else if bits c.toNat 5 4 = 1 then r l || q else r l ^^ q

end Sys2Proof.Machine
end

