-- ==== Sys2Proof/Certificates/Slice0/Obligations.lean ====
section
/-! DEFINITION. The statements for the provers: what the spec's rules say of the machine, by family. -/
open Sys2Proof Sys2Proof.Machine

/-! ## The machine as a whole (R3, R45, R47, R53 to R58, R66, R68, R69) -/

/-- The state after reset: no context, queue or wave; partition 0 holds the eight units (R79), RSSIZE is 96 (R387), PFRHEAD and INVDONE
are zero (R281), the energy counters are zero (R439), the ports train (R422). The model's choices: memory lists nothing (log 2),
BOOTSTAT is 1 (log 5), and PFRTAIL and the counts of mailbox entries taken and submitted are zero (log 112). -/
def Obligations.ResetLeavesTheSpecsValues : Prop :=
  let r := State.reset
  r.ctxs = [] ∧ r.queues = [] ∧ r.grids = [] ∧ r.teams = [] ∧ r.waves = [] ∧ r.flows = [] ∧ r.recs = [] ∧ r.mem = [] ∧ r.hostMem = [] ∧
    r.dev.masks = [0xFF, 0, 0, 0, 0, 0, 0, 0] ∧ r.dev.powered = true ∧ r.dev.paired = false ∧ r.host.rssize = 96 ∧ r.host.bootstat = 1 ∧
    r.host.taken = 0 ∧ r.host.submitted = 0 ∧ r.page.pfrhead = 0 ∧ r.page.pfrtail = 0 ∧ r.page.invdone = 0 ∧ r.page.tlb = [] ∧
    (∀ i, r.energy.islands.getD i 0 = 0) ∧ (∀ p, p < 3 → ∃ x, r.ports[p]? = some x ∧ x.st = .training)

/-- The memories of the state after reset have the canonical form: they list nothing (log 2; R270 gives them no contents). -/
def Obligations.ResetMemoryIsCanonical : Prop :=
  State.reset.memOk

/-- The canonical form of the memories (R270) is kept by every step, and that of every team's local store (R285). -/
def Obligations.EveryStepKeepsMemoryCanonical : Prop :=
  (∀ s t : State, s.memOk → step s = .next t → t.memOk) ∧
  ∀ s t : State, s.localOk → step s = .next t → t.localOk

/-- R57, R58, R68, R69: every instruction of a clause has one word, which decodes to it with every field at its value; every word
that decodes is the word of its instruction. -/
def Obligations.DecodeAndEncodeAgree : Prop :=
  (∀ i : Instr, i.isWord = true → ∃ w, encode i = [w] ∧ decodeWord w = some i) ∧
  ∀ (w : DWord) (i : Instr), decodeWord w = some i → encode i = [w]

/-- R55, R68, R69: the words that are no instruction are those of the unassigned opcodes and the header marker. -/
def Obligations.UnassignedOpcodesAreRefused : Prop :=
  ∀ w : DWord,
    let op := w.toNat / 2 ^ 56
    decodeWord w = none ↔ ([0x3E, 0x3F, 0x4E, 0x4F, 0x57, 0x5E, 0x5F, 0x6B, 0x78] : List Nat).contains op = true ∨ (0x7C ≤ op ∧ op ≤ 0x7F) ∨
      (0xA0 ≤ op ∧ op ≤ 0xAF) ∨ (0xBA ≤ op ∧ op ≤ 0xBF) ∨ (0xCA ≤ op ∧ op ≤ 0xCF) ∨ (0xDA ≤ op ∧ op ≤ 0xDF) ∨ 0xE8 ≤ op

/-- Words written out in the spec's examples (R69, R183, R192, R249, R362, R55) decode to their instructions, and a header word to none. -/
def Obligations.WordsOfTheSpecDecode : Prop :=
  decodeWord 0x1C10080800000010 = some (.iaddi { pred := 1, mod := 0, d := 8, a := 8, imm := 16 }) ∧
  decodeWord 0x01000000FFFFFFFD = some (.bra { pred := 0, mod := 0, d := 0, a := 0, off := 0xFFFFFFFD }) ∧
  decodeWord 0x3472480400000064 = some (.iseti { pred := 7, mod := 2, d := 0x48, a := 4, imm := 0x64 }) ∧
  decodeWord 0x8174080200A00000 =
    some (.st { pred := 7, mod := 4, d := 8, a := 2, b := 0, scope := 5, order := 0, wk := 0, tv := false, off := 0 }) ∧
  decodeWord 0xD875290000000000 = some (.mxwait { pred := 7, mod := 5, d := 0x29, a := 0, b := 0, c := 0, imm := 0 }) ∧
  decodeWord 0xFF01000000000000 = none

/-- R47: with power and nothing that comes first, a step runs the instruction that the next word of the current wave's clause
decodes to, at that state. -/
def Obligations.AStepRunsTheDecodedInstruction : Prop :=
  ∀ (s : State) (v : Wave) (c : Clause) (w : DWord) (i : Instr), s.dev.powered = true → s.agenda = [] → mget s.waves s.cur = some v →
    v.clause = some c → c.words[c.idx]? = some w → decodeWord w = some i → step s = exec i s

/-- R45, R55: a clause is fetched as its header and the words behind it, each little-endian from the address it translates to, in
the text of a loaded code object; only a clause without a decode cause issues. R47, R53, R172, R183: behind an instruction the
clause goes on to its next one; behind the last it retires: its lanes move to where their transfers go, else to the fall-through
header, and every other lane stays. -/
def Obligations.ClausesAreFetchedAdvanceAndRetire : Prop :=
  (∀ (s : State) (c va ag alloc : Nat) (head : DWord) (ws : List DWord), s.fetchClause c va ag alloc = .ok head ws →
     ∃ h, headerOf head = some h ∧ ws.length = h.count ∧ clauseCause h alloc ws = none ∧
       ∀ k w, k ≤ ws.length → (head :: ws)[k]? = some w → (s.ctx c).inText (va + 8 * k) = true ∧
         ∃ sys pa p, s.translate c (va + 8 * k) 3 ag = .ok sys pa p ∧ w = BitVec.ofNat 64 (leNat (s.pread sys pa 8))) ∧
  (∀ (e : Env) (u : State) (v : Wave) (c : Clause), mget u.waves e.w = some v → v.clause = some c →
     (e.cl.idx + 1 < e.cl.words.length →
       e.done u = u.tick.updWave e.w fun _ => { v with clause := some { c with idx := c.idx + 1 } }) ∧
     (e.cl.words.length ≤ e.cl.idx + 1 → e.done u = u.tick.retireClause e.w) ∧
     (∀ k, c.cond = some k → ∃ y : State, u.retireClause e.w = y.takeTrap e.w c.set c.hdr c.nxt true k ∧
       ∃ x, mget y.waves e.w = some x ∧ x.clause = none) ∧
     (c.cond = none → v.dbg.ctl.getLsbD 0 = false → v.dbg.stepPending = false →
       ∃ x : Wave, u.retireClause e.w = (u.updWave e.w fun _ => x).boundary e.w ∧ x.clause = none ∧ x.st = .ready ∧
         x.perf = v.perf.filter (fun p => p.hdr != c.hdr) ∧ x.w = v.w ∧ x.flights = v.flights ∧
         ∀ l, l < v.lanes.length →
           (inMask c.set l = false → x.lane l = v.lane l) ∧
           (inMask c.set l = true →
             (x.lane l).pc = (mget c.pcs l).getD (c.hdr + 8 * BitVec.ofNat 64 (c.words.length + 1)) ∧
             (x.lane l).depth = (mget c.depths l).getD (v.lane l).depth ∧ (x.lane l).v = (v.lane l).v ∧ (x.lane l).p = (v.lane l).p)))

/-- R66: an index register reaches its base plus its index, unless that index is not below its limit, lies beyond the wave's registers,
or is odd for a 64-bit operand. Where it does, the instruction, whatever it is, raises cause 0x25 plus the number of the index register,
of the lowest lane whose operand is out of range, for exactly the active lanes that fault through the same register; a lane with two
such operands faults on the first in the order D, A, B, C (log 167). -/
def Obligations.IndexesOutOfRangeFault : Prop :=
  (∀ (v : Wave) (l n : Nat) (pair : Bool),
     let x := (v.lane l).idx n
     let r := (x.toNat / 65536 % 256) + x.toNat % 65536
     v.index l n pair = if x.toNat / 2 ^ 24 ≤ x.toNat % 65536 ∨ v.alloc ≤ r ∨ (pair = true ∧ r % 2 = 1) then none else some r) ∧
  ∀ (s : State) (i : Instr) (f : Form) (p : BitVec 4) (e : Env), formOf i = some (f, p) →
    begin_ s p = some e → (∀ t, e.full t = false) → e.behind = 0 →
    let hit := fun l => f.ops.find? fun o => decide (0xE0 ≤ o.spec ∧ o.spec < 0xE4) && (e.wv.index l (o.spec - 0xE0) (o.n == 2)).isNone
    ∀ (l : Nat) (o : Opd), inMask e.L l = true → (∀ k, k < l → inMask e.L k = true → hit k = none) → hit l = some o →
      o.spec - 0xE0 ≤ 3 ∧ ∃ ls : LaneMask, exec i s = .next (e.fault (0x25 + (o.spec - 0xE0)) ls) ∧
        ∀ k, k < 32 → (ls.getLsbD k = true ↔ inMask e.L k = true ∧ ∃ x, hit k = some x ∧ x.spec = o.spec)

/-! ## Integer and logic instructions (R191 to R206) -/

/-- R191: MOV, MOVI, MOVW and SEL write what the rule says in every active lane and leave the rest alone. R197 to R199: the
three-input truth table, immediate logic, bit fields, counts, reversal, byte permutation. R191, R197 to R199: their reserved fields, and MOVW's even pair. -/
def Obligations.MovesLogicAndBitFields : Prop :=
  (∀ (f : F3) (i : Instr), i ∈ [.lop3 f, .bfi f, .popc f, .clz f, .ctz f, .brev f, .prmt f] → i.reservedZero = true → f.mod = 0) ∧
  (∀ f : F3, (Instr.mov f).reservedZero = true → f.mod.toNat / 2 = 0 ∧ f.b = 0 ∧ f.c = 0) ∧
  (∀ f : F3, (Instr.movw f).reservedZero = true → f.mod = 0 ∧ f.c = 0) ∧
  (∀ f : F3, (Instr.bfe f).reservedZero = true → f.mod.toNat / 2 = 0) ∧
  (∀ f : F3, (Instr.sel f).reservedZero = true → f.c = 0) ∧
  (∀ f : FI, (Instr.movi f).reservedZero = true → f.mod = 0 ∧ f.a = 0) ∧
  (∀ (f : FI) (i : Instr), i ∈ [.andi f, .ori f, .xori f] → i.reservedZero = true → f.mod = 0) ∧
  (∀ (f : F3) (alloc : Nat), (Instr.movw f).operandsOk alloc = true → f.d.toNat < 0xE0 → f.d.toNat % 2 = 0) ∧
  (∀ (s : State) (e : Env),
     (∀ f : F3, s.AtHand (.mov f) e → f.mod = 0 → e.Sets (.mov f) f.d fun l => (e.wa f l).toNat) ∧
     (∀ f : F3, s.AtHand (.mov f) e → f.mod = 1 → e.Sets64 (.mov f) f.d fun l => (e.wide f.a l).toNat) ∧
     (∀ f : FI, s.AtHand (.movi f) e → e.Sets (.movi f) f.d fun _ => f.imm.toNat) ∧
     (∀ f : F3, s.AtHand (.movw f) e → e.Sets64 (.movw f) f.d fun l => (e.wb f l ++ e.wa f l).toNat) ∧
     (∀ f : F3, s.AtHand (.sel f) e →
       e.Sets (.sel f) f.d fun l => if (e.rp (f.mod.toNat % 8) l) ^^ f.mod.getLsbD 3 then (e.wa f l).toNat else (e.wb f l).toNat)) ∧
  (∀ (s : State) (e : Env),
     (∀ f : F3, s.AtHand (.lop3 f) e → ∃ r : Nat → Word, e.Sets (.lop3 f) f.d (fun l => (r l).toNat) ∧
       ∀ l i, i < 32 → (r l).getLsbD i =
         bitAt f.ext (bn ((e.wa f l).getLsbD i) + 2 * bn ((e.wb f l).getLsbD i) + 4 * bn ((e.wc f l).getLsbD i))) ∧
     (∀ f : FI, s.AtHand (.andi f) e → e.Sets (.andi f) f.d fun l => (e.wi f l &&& f.imm).toNat) ∧
     (∀ f : FI, s.AtHand (.ori f) e → e.Sets (.ori f) f.d fun l => (e.wi f l ||| f.imm).toNat) ∧
     (∀ f : FI, s.AtHand (.xori f) e → e.Sets (.xori f) f.d fun l => (e.wi f l ^^^ f.imm).toNat) ∧
     (∀ f : F3, s.AtHand (.bfe f) e → e.Sets (.bfe f) f.d fun l =>
       let pos := min ((e.wb f l).toNat % 256) 32
       let len := min ((e.wb f l).toNat / 256 % 256) (32 - pos)
       let x := (e.wa f l).extractLsb' pos len
       (if f.signed then x.signExtend 32 else x.zeroExtend 32).toNat) ∧
     (∀ f : F3, s.AtHand (.bfi f) e → ∃ r : Nat → Word, e.Sets (.bfi f) f.d (fun l => (r l).toNat) ∧
       ∀ l i, i < 32 →
         let pos := min ((e.wb f l).toNat % 256) 32
         let len := min ((e.wb f l).toNat / 256 % 256) (32 - pos)
         (r l).getLsbD i = if pos ≤ i ∧ i < pos + len then (e.wa f l).getLsbD (i - pos) else (e.wc f l).getLsbD i) ∧
     (∀ f : F3, s.AtHand (.popc f) e → e.Sets (.popc f) f.d fun l => ((List.range 32).filter (e.wa f l).getLsbD).length) ∧
     (∀ f : F3, s.AtHand (.clz f) e → ∃ n : Nat → Nat, e.Sets (.clz f) f.d n ∧
       ∀ l, n l ≤ 32 ∧ (∀ i, i < 32 → 32 - n l ≤ i → (e.wa f l).getLsbD i = false) ∧ (n l < 32 → (e.wa f l).getLsbD (31 - n l) = true)) ∧
     (∀ f : F3, s.AtHand (.ctz f) e → ∃ n : Nat → Nat, e.Sets (.ctz f) f.d n ∧
       ∀ l, n l ≤ 32 ∧ (∀ i, i < n l → (e.wa f l).getLsbD i = false) ∧ (n l < 32 → (e.wa f l).getLsbD (n l) = true)) ∧
     (∀ f : F3, s.AtHand (.brev f) e → ∃ r : Nat → Word, e.Sets (.brev f) f.d (fun l => (r l).toNat) ∧
       ∀ l i, i < 32 → (r l).getLsbD i = (e.wa f l).getLsbD (31 - i)) ∧
     (∀ f : F3, s.AtHand (.prmt f) e → ∃ r : Nat → Word, e.Sets (.prmt f) f.d (fun l => (r l).toNat) ∧
       ∀ l k, k < 4 →
         let sel : BitVec 8 := (e.wc f l).extractLsb' (8 * k) 8
         let x : BitVec 8 := (e.wb f l ++ e.wa f l).extractLsb' (8 * (sel.toNat % 8)) 8
         (r l).extractLsb' (8 * k) 8 =
           if sel.toNat / 8 % 4 = 0 then x else if sel.toNat / 8 % 4 = 1 then 0
           else if sel.toNat / 8 % 4 = 2 then (if x.getLsbD 7 then 0xFF else 0) else 0xFF))

/-- R192, R22: add, subtract, multiply, minimum, maximum, absolute value, negation, absolute difference: the exact integer of the
operands' signedness, wrapped or saturated. The reserved fields of R192. -/
def Obligations.IntegerArithmeticIsExactThenFitted : Prop :=
  (∀ (f : F3) (i : Instr), i ∈ [.iadd f, .isub f, .imul f, .imulh f, .imin f, .imax f] → i.reservedZero = true →
    f.mod.toNat / 2 = 0 ∧ f.c = 0) ∧
  (∀ (f : F3) (i : Instr), i ∈ [.imad f, .isad f] → i.reservedZero = true → f.mod.toNat / 2 = 0) ∧
  (∀ (f : F3) (i : Instr), i ∈ [.iabs f, .ineg f] → i.reservedZero = true → f.mod = 0 ∧ f.b = 0 ∧ f.c = 0) ∧
  (∀ (f : F3) (i : Instr), i ∈ [.imulh f, .imin f, .imax f] → i.reservedZero = true → f.sat = false) ∧
  (∀ f : FI, (Instr.iaddi f).reservedZero = true → f.mod = 0) ∧
  ∀ (s : State) (e : Env),
    (∀ f : F3, s.AtHand (.iadd f) e → e.Sets (.iadd f) f.d fun l =>
      (satTo f.sat f.signed 32 (numOf f.signed (e.wa f l) + numOf f.signed (e.wb f l))).toNat) ∧
    (∀ f : F3, s.AtHand (.isub f) e → e.Sets (.isub f) f.d fun l =>
      (satTo f.sat f.signed 32 (numOf f.signed (e.wa f l) - numOf f.signed (e.wb f l))).toNat) ∧
    (∀ f : F3, s.AtHand (.imul f) e → e.Sets (.imul f) f.d fun l =>
      (satTo f.sat f.signed 32 (numOf f.signed (e.wa f l) * numOf f.signed (e.wb f l))).toNat) ∧
    (∀ f : F3, s.AtHand (.imulh f) e → e.Sets (.imulh f) f.d fun l =>
      ((BitVec.ofInt 64 (numOf f.signed (e.wa f l) * numOf f.signed (e.wb f l))).extractLsb' 32 32).toNat) ∧
    (∀ f : F3, s.AtHand (.imad f) e → e.Sets (.imad f) f.d fun l =>
      (satTo f.sat f.signed 32 (numOf f.signed (e.wa f l) * numOf f.signed (e.wb f l) + numOf f.signed (e.wc f l))).toNat) ∧
    (∀ f : FI, s.AtHand (.iaddi f) e → e.Sets (.iaddi f) f.d fun l => (e.wi f l + f.imm).toNat) ∧
    (∀ f : F3, s.AtHand (.imin f) e → e.Sets (.imin f) f.d fun l =>
      (BitVec.ofInt 32 (min (numOf f.signed (e.wa f l)) (numOf f.signed (e.wb f l)))).toNat) ∧
    (∀ f : F3, s.AtHand (.imax f) e → e.Sets (.imax f) f.d fun l =>
      (BitVec.ofInt 32 (max (numOf f.signed (e.wa f l)) (numOf f.signed (e.wb f l)))).toNat) ∧
    (∀ f : F3, s.AtHand (.iabs f) e → e.Sets (.iabs f) f.d fun l => (satTo f.sat true 32 ((e.wa f l).toInt.natAbs : Int)).toNat) ∧
    (∀ f : F3, s.AtHand (.ineg f) e → e.Sets (.ineg f) f.d fun l => (satTo f.sat true 32 (-(e.wa f l).toInt)).toNat) ∧
    (∀ f : F3, s.AtHand (.isad f) e → e.Sets (.isad f) f.d fun l =>
      (satTo f.sat false 32 ((numOf f.signed (e.wa f l) - numOf f.signed (e.wb f l)).natAbs + ((e.wc f l).toNat : Int))).toNat)

/-- R193 to R195, R205: carries, borrows, wide sums and products, scaled addresses, dot products. Their reserved fields and even pairs. An inline
constant as a 64-bit operand is the model's reading (log 127). -/
def Obligations.CarriesWideSumsAndDotProducts : Prop :=
  (∀ (f : F3) (i : Instr), i ∈ [.iaddc f, .isubb f] → i.reservedZero = true →
    f.mod = 0 ∧ f.ext = 0 ∧ f.c.getLsbD 7 = false ∧ f.c.getLsbD 3 = false) ∧
  (∀ f : F3, (Instr.imadw f).reservedZero = true → f.sat = false) ∧
  (∀ (f : F3) (i : Instr), i ∈ [.idp4 f, .idp2 f, .iaddw f] → i.reservedZero = true → f.mod.toNat / 4 = 0) ∧
  (∀ f : F3, (Instr.lea f).reservedZero = true → f.c = 0 ∧ f.sat = false) ∧
  (∀ (f : F3) (alloc : Nat), (Instr.imadw f).operandsOk alloc = true → (f.d.toNat < 0xE0 →
    f.d.toNat % 2 = 0) ∧ (f.c.toNat < 0xE0 → f.c.toNat % 2 = 0)) ∧
  (∀ (f : F3) (alloc : Nat), (Instr.lea f).operandsOk alloc = true → (f.d.toNat < 0xE0 → f.d.toNat % 2 = 0) ∧ (f.a.toNat < 0xE0 →
    f.a.toNat % 2 = 0)) ∧
  ∀ (s : State) (e : Env),
    (∀ f : F3, s.AtHand (.iaddc f) e →
      let cin := fun l => if bits f.c.toNat 6 4 = 7 then 0 else bn (e.rp (bits f.c.toNat 6 4) l)
      e.SetsP (.iaddc f) f.d (fun l => (e.wa f l + e.wb f l + BitVec.ofNat 32 (cin l)).toNat) (bits f.c.toNat 2 0)
        (fun l => decide (2 ^ 32 ≤ (e.wa f l).toNat + (e.wb f l).toNat + cin l))) ∧
    (∀ f : F3, s.AtHand (.isubb f) e →
      let bin := fun l => if bits f.c.toNat 6 4 = 7 then 0 else bn (e.rp (bits f.c.toNat 6 4) l)
      e.SetsP (.isubb f) f.d (fun l => (e.wa f l - e.wb f l - BitVec.ofNat 32 (bin l)).toNat) (bits f.c.toNat 2 0)
        (fun l => decide ((e.wa f l).toNat < (e.wb f l).toNat + bin l))) ∧
    (∀ f : F3, s.AtHand (.imadw f) e → e.Sets64 (.imadw f) f.d fun l =>
      (BitVec.ofInt 64 (numOf f.signed (e.wa f l) * numOf f.signed (e.wb f l)) + e.wide f.c l).toNat) ∧
    (∀ f : F3, s.AtHand (.iaddw f) e → e.Sets64 (.iaddw f) f.d fun l =>
      let sg := !f.mod.getLsbD 1
      (satTo f.sat sg 64 (if f.mod.getLsbD 0 then numOf sg (e.wide f.a l) - numOf sg (e.wide f.b l)
        else numOf sg (e.wide f.a l) + numOf sg (e.wide f.b l))).toNat) ∧
    (∀ f : F3, s.AtHand (.lea f) e → e.Sets64 (.lea f) f.d fun l =>
      (e.wide f.a l + (if f.mod.getLsbD 3 then (e.wb f l).zeroExtend 64 else (e.wb f l).signExtend 64) <<< (f.mod.toNat % 8)).toNat) ∧
    (∀ f : F3, s.AtHand (.idp4 f) e → e.Sets (.idp4 f) f.d fun l =>
      let el := fun (sg : Bool) (x : Word) i => numOf sg (x.extractLsb' (8 * i) 8)
      let a := el (!f.mod.getLsbD 0) (e.wa f l)
      let b := el (!f.mod.getLsbD 1) (e.wb f l)
      (satTo f.sat true 32 ((e.wc f l).toInt + (a 0 * b 0 + a 1 * b 1 + a 2 * b 2 + a 3 * b 3))).toNat) ∧
    (∀ f : F3, s.AtHand (.idp2 f) e → e.Sets (.idp2 f) f.d fun l =>
      let el := fun (sg : Bool) (x : Word) i => numOf sg (x.extractLsb' (16 * i) 16)
      let a := el (!f.mod.getLsbD 0) (e.wa f l)
      let b := el (!f.mod.getLsbD 1) (e.wb f l)
      (satTo f.sat true 32 ((e.wc f l).toInt + (a 0 * b 0 + a 1 * b 1))).toNat)

/-- R196: shifts by the whole register value, funnel shifts and rotates. Their reserved fields, and the mode of SHW that is none. -/
def Obligations.ShiftsUseTheWholeAmount : Prop :=
  (∀ (f : F3) (i : Instr), i ∈ [.shl f, .shr f, .sar f] → i.reservedZero = true → f.mod = 0) ∧
  (∀ (f : F3) (i : Instr), i ∈ [.fsh f, .rot f] → i.reservedZero = true → f.mod.toNat / 2 = 0) ∧
  (∀ f : F3, (Instr.shw f).reservedZero = true → f.mod.toNat / 4 = 0) ∧
  (∀ f : F3, f.mod.toNat % 4 = 3 → (Instr.shw f).modifiersOk = false) ∧
  ∀ (s : State) (e : Env),
    (∀ f : F3, s.AtHand (.shl f) e → e.Sets (.shl f) f.d fun l => (e.wa f l <<< (e.wb f l).toNat).toNat) ∧
    (∀ f : F3, s.AtHand (.shr f) e → e.Sets (.shr f) f.d fun l => (e.wa f l >>> (e.wb f l).toNat).toNat) ∧
    (∀ f : F3, s.AtHand (.sar f) e → e.Sets (.sar f) f.d fun l => ((e.wa f l).sshiftRight (e.wb f l).toNat).toNat) ∧
    (∀ f : F3, s.AtHand (.fsh f) e → e.Sets (.fsh f) f.d fun l =>
      let x : DWord := e.wb f l ++ e.wa f l
      let n := min (e.wc f l).toNat 32
      (if f.mod.getLsbD 0 then (x <<< n).extractLsb' 32 32 else (x >>> n).extractLsb' 0 32).toNat) ∧
    (∀ f : F3, s.AtHand (.rot f) e → e.Sets (.rot f) f.d fun l =>
      let n := (e.wb f l).toNat % 32
      (if f.mod.getLsbD 0 then (e.wa f l).rotateRight n else (e.wa f l).rotateLeft n).toNat) ∧
    (∀ f : F3, s.AtHand (.shw f) e → e.Sets64 (.shw f) f.d fun l =>
      let n := (e.wb f l).toNat
      (if f.mod.toNat % 4 = 0 then e.wide f.a l <<< n else if f.mod.toNat % 4 = 1 then e.wide f.a l >>> n
        else (e.wide f.a l).sshiftRight n).toNat)

/-- R200 to R202: ISET, ISETI and PLOP. R203, R204: VOTE by its six modes; SHFL by source lane in segments; BCAST. With no active
lane nothing is written. Their reserved fields, and the modifiers and operands refused. An inline constant of a 64-bit compare is the
model's reading (log 127). -/
def Obligations.ComparesVotesAndLaneExchange : Prop :=
  (∀ f : F3, (Instr.iset f).reservedZero = true → bits f.c.toNat 7 6 = 0 ∧ f.rnd.toNat % 4 = 0 ∧ f.sat = false) ∧
  (∀ f : F3, 6 ≤ f.fmt.toNat ∨ bits f.c.toNat 5 4 = 3 → (Instr.iset f).modifiersOk = false) ∧
  (∀ f : FI, (Instr.iseti f).reservedZero = true → f.d.toNat % 8 = 0 ∧ f.mod.toNat / 8 = 0) ∧
  (∀ f : FI, f.mod.toNat % 8 = 7 ∨ 6 ≤ bits f.d.toNat 7 4 → (Instr.iseti f).modifiersOk = false) ∧
  (∀ f : F3, (Instr.plop f).reservedZero = true →
    f.mod.toNat / 8 = 0 ∧ f.d = 0 ∧ f.a.toNat / 16 = 0 ∧ f.b.toNat / 16 = 0 ∧ f.c.toNat / 16 = 0) ∧
  (∀ f : F3, f.mod.toNat % 8 = 7 → (Instr.plop f).modifiersOk = false) ∧
  (∀ f : F3, (Instr.vote f).reservedZero = true → f.mod.toNat / 8 = 0 ∧ f.a.toNat / 16 = 0 ∧ f.b.toNat / 16 = 0) ∧
  (∀ f : F3, 6 ≤ f.mod.toNat % 8 ∨ (f.b.getLsbD 3 = true ∧ (f.mod.toNat % 8 = 3 ∨ f.b.toNat % 8 = 7)) →
    (Instr.vote f).modifiersOk = false) ∧
  (∀ f : F3, (Instr.shfl f).reservedZero = true → f.mod.toNat / 4 = 0 ∧ f.ext / 16 = 0) ∧
  (∀ f : F3, f.ext % 16 = 15 → (Instr.shfl f).modifiersOk = false) ∧
  (∀ f : F3, (Instr.bcast f).reservedZero = true → f.mod.toNat / 2 = 0 ∧ (f.mod = 1 → f.b = 0)) ∧
  (∀ (f : F3) (i : Instr) (alloc : Nat), i ∈ [.shfl f, .bcast f] → i.operandsOk alloc = true → f.a.toNat < 0xE0) ∧
  (∀ (s : State) (e : Env),
     (∀ f : F3, s.AtHand (.iset f) e → f.mod.getLsbD 3 = false →
       let r := e.joined f.c fun l => icond f.fmt.toNat (numOf (!f.rnd.getLsbD 2) (e.wa f l)) (numOf (!f.rnd.getLsbD 2) (e.wb f l))
       e.SetsP (.iset f) f.d (fun l => if r l then 0xFFFFFFFF else 0) (f.mod.toNat % 8) r) ∧
     (∀ f : F3, s.AtHand (.iset f) e → f.mod.getLsbD 3 = true →
       let r := e.joined f.c fun l =>
         icond f.fmt.toNat (numOf (!f.rnd.getLsbD 2) (e.wide f.a l)) (numOf (!f.rnd.getLsbD 2) (e.wide f.b l))
       e.SetsP (.iset f) f.d (fun l => if r l then 0xFFFFFFFF else 0) (f.mod.toNat % 8) r) ∧
     (∀ f : FI, s.AtHand (.iseti f) e → e.Ran (.iseti f) (fun l ln => ln.setPred (f.mod.toNat % 8)
       (icond (bits f.d.toNat 7 4) (numOf (!bitAt f.d.toNat 3) (e.wi f l)) (numOf (!bitAt f.d.toNat 3) f.imm))) e.wv.w) ∧
     (∀ f : F3, s.AtHand (.plop f) e → e.Ran (.plop f) (fun l ln => ln.setPred (f.mod.toNat % 8)
       (bitAt f.ext (bn (e.rp (f.a.toNat % 8) l ^^ bitAt f.a.toNat 3) + 2 * bn (e.rp (f.b.toNat % 8) l ^^ bitAt f.b.toNat 3) +
         4 * bn (e.rp (f.c.toNat % 8) l ^^ bitAt f.c.toNat 3)))) e.wv.w)) ∧
  (∀ (s : State) (e : Env),
     (∀ f : F3, s.AtHand (.vote f) e →
       let yes := (lanesOf e.L).filter fun l => e.rp (f.a.toNat % 8) l ^^ bitAt f.a.toNat 3
       let all := decide (yes = lanesOf e.L)
       let any := decide (yes ≠ [])
       let p := if bitAt f.b.toNat 3 then bits f.b.toNat 2 0 else 7
       let ones := fun (b : Bool) (_ : Nat) => if b then 0xFFFFFFFF else 0
       (f.mod = 0 → e.SetsP (.vote f) f.d (ones all) p fun _ => all) ∧
       (f.mod = 1 → e.SetsP (.vote f) f.d (ones any) p fun _ => any) ∧
       (f.mod = 2 → e.SetsP (.vote f) f.d (ones (all || !any)) p fun _ => all || !any) ∧
       (f.mod = 3 → e.Sets (.vote f) f.d fun _ => (maskOf fun l => decide (l ∈ yes)).toNat) ∧
       (f.mod = 4 → e.SetsP (.vote f) f.d (fun _ => yes.length) p fun _ => any) ∧
       (f.mod = 5 → e.SetsP (.vote f) f.d (fun _ => yes.headD 32) p fun l => decide (yes.head? = some l))) ∧
     (∀ f : F3, s.AtHand (.shfl f) e →
       let w := 2 ^ min (e.wc f e.l0).toNat 5
       let b := fun l => (e.wb f l).toNat % w
       let from_ := fun l =>
         let base := l - l % w
         if f.mod = 0 then base + b l
         else if f.mod = 1 then base + (l % w + w - b l) % w
         else if f.mod = 2 then base + (l % w + b l) % w
         else base + Nat.xor (l % w) (b l)
       let wraps := fun l => if f.mod = 1 then decide (l % w < b l) else if f.mod = 2 then decide (w ≤ l % w + b l) else false
       e.SetsP (.shfl f) f.d (fun l => (e.wa f (from_ l)).toNat) (if bitAt (f.ext % 16) 3 then f.ext % 8 else 7) wraps) ∧
     (∀ f : F3, s.AtHand (.bcast f) e → e.Sets (.bcast f) f.d fun _ =>
       (e.wa f (if f.mod = 1 then e.l0 else (e.wb f e.l0).toNat % 32)).toNat))

/-- R206: the fifteen integer conversions: extensions, and narrowing that wraps or saturates, extended again to the register. Its reserved
fields, and the operation that is none. An inline constant of a 64-bit source is the model's reading (log 127). -/
def Obligations.IntegerConversions : Prop :=
  (∀ f : F3, (Instr.cvti f).reservedZero = true → f.b = 0 ∧ f.c = 0 ∧ (f.mod.toNat ≤ 5 → f.sat = false)) ∧
  (∀ f : F3, f.mod = 15 → (Instr.cvti f).modifiersOk = false) ∧
  ∀ (s : State) (e : Env) (f : F3), s.AtHand (.cvti f) e →
    let narrow := fun {w : Nat} (x : Nat → BitVec w) (ss ts : Bool) (tw : Nat) =>
      e.Sets (.cvti f) f.d fun l =>
        let y := satTo f.sat ts tw (numOf ss (x l))
        (if ts then y.signExtend 32 else y.zeroExtend 32).toNat
    (f.mod = 0 → e.Sets (.cvti f) f.d fun l => (((e.wa f l).truncate 8).signExtend 32).toNat) ∧
    (f.mod = 1 → e.Sets (.cvti f) f.d fun l => (e.wa f l).toNat % 256) ∧
    (f.mod = 2 → e.Sets (.cvti f) f.d fun l => (((e.wa f l).truncate 16).signExtend 32).toNat) ∧
    (f.mod = 3 → e.Sets (.cvti f) f.d fun l => (e.wa f l).toNat % 65536) ∧
    (f.mod = 4 → e.Sets64 (.cvti f) f.d fun l => ((e.wa f l).signExtend 64).toNat) ∧
    (f.mod = 5 → e.Sets64 (.cvti f) f.d fun l => (e.wa f l).toNat) ∧
    (f.mod = 6 → narrow (e.wa f) true true 8) ∧ (f.mod = 7 → narrow (e.wa f) true false 8) ∧
    (f.mod = 8 → narrow (e.wa f) false false 8) ∧ (f.mod = 9 → narrow (e.wa f) true true 16) ∧
    (f.mod = 10 → narrow (e.wa f) true false 16) ∧ (f.mod = 11 → narrow (e.wa f) false false 16) ∧
    (f.mod = 12 → narrow (e.wide f.a) true true 32) ∧ (f.mod = 13 → narrow (e.wide f.a) true false 32) ∧
    (f.mod = 14 → narrow (e.wide f.a) false false 32)

/-! ## Floating point (R208 to R227) -/

/-- R210, R216, R217: sums, products and fused products: the exact value of the rule, rounded once in the lane's mode (R29, R30),
with the flags of R39 (tininess after rounding, log 17), in FP32, FP64 and each half. -/
def Obligations.FloatArithmeticRoundsTheExactResultOnce : Prop :=
  ∀ (s : State) (e : Env),
    (∀ f : F3, s.AtHand (.fadd f) e → e.Fp (.fadd f) f.d f.rnd fun l => let m := e.mode true f.rnd.toNat l
      fp32.finish m f.sat (e.srWord l 0) (Fv.add m (fp32.val (e.fa f l)) (fp32.val (e.fb f l)))) ∧
    (∀ f : F3, s.AtHand (.fmul f) e → e.Fp (.fmul f) f.d f.rnd fun l => let m := e.mode true f.rnd.toNat l
      fp32.finish m f.sat (e.srWord l 0) (Fv.mul (fp32.val (e.fa f l)) (fp32.val (e.fb f l)))) ∧
    (∀ f : F3, s.AtHand (.ffma f) e → e.Fp (.ffma f) f.d f.rnd fun l => let m := e.mode true f.rnd.toNat l
      fp32.finish m f.sat (e.srWord l 0)
        (Fv.fma m (fp32.val (e.fa f l)) (fp32.val (e.fb f l)) (fp32.val (e.src constF32 f.c l)))) ∧
    (∀ f : FI, s.AtHand (.faddi f) e → e.Fp (.faddi f) f.d (f.mod.truncate 3) fun l => let m := e.mode true (f.mod.toNat % 8) l
      fp32.finish m (f.mod.getLsbD 3) (e.srWord l 0) (Fv.add m (fp32.val (e.src constF32 f.a l)) (fp32.val f.imm.toNat))) ∧
    (∀ f : FI, s.AtHand (.fmuli f) e → e.Fp (.fmuli f) f.d (f.mod.truncate 3) fun l => let m := e.mode true (f.mod.toNat % 8) l
      fp32.finish m (f.mod.getLsbD 3) (e.srWord l 0) (Fv.mul (fp32.val (e.src constF32 f.a l)) (fp32.val f.imm.toNat))) ∧
    (∀ f : F3, s.AtHand (.dadd f) e → e.Fp64 (.dadd f) f.d f.rnd fun l => let m := e.mode true f.rnd.toNat l
      fp64.finish m f.sat (e.srWord l 0) (Fv.add m (fp64.val (e.ga f l)) (fp64.val (e.gb f l)))) ∧
    (∀ f : F3, s.AtHand (.dmul f) e → e.Fp64 (.dmul f) f.d f.rnd fun l => let m := e.mode true f.rnd.toNat l
      fp64.finish m f.sat (e.srWord l 0) (Fv.mul (fp64.val (e.ga f l)) (fp64.val (e.gb f l)))) ∧
    (∀ f : F3, s.AtHand (.dfma f) e → e.Fp64 (.dfma f) f.d f.rnd fun l => let m := e.mode true f.rnd.toNat l
      fp64.finish m f.sat (e.srWord l 0) (Fv.fma m (fp64.val (e.ga f l)) (fp64.val (e.gb f l)) (fp64.val (e.srcD f.c l)))) ∧
    (∀ f : F3, s.AtHand (.hadd2 f) e → e.Fp2 (.hadd2 f) f.d f.rnd fun i l => let m := e.mode true f.rnd.toNat l
      let t := fmtOf f.fmt.toNat
      t.finish m f.sat (e.srWord l i) (Fv.add m (t.val (e.ha f i l)) (t.val (e.hb f i l)))) ∧
    (∀ f : F3, s.AtHand (.hmul2 f) e → e.Fp2 (.hmul2 f) f.d f.rnd fun i l => let m := e.mode true f.rnd.toNat l
      let t := fmtOf f.fmt.toNat
      t.finish m f.sat (e.srWord l i) (Fv.mul (t.val (e.ha f i l)) (t.val (e.hb f i l)))) ∧
    (∀ f : F3, s.AtHand (.hfma2 f) e → e.Fp2 (.hfma2 f) f.d f.rnd fun i l => let m := e.mode true f.rnd.toNat l
      let t := fmtOf f.fmt.toNat
      t.finish m f.sat (e.srWord l i) (Fv.fma m (t.val (e.ha f i l)) (t.val (e.hb f i l)) (t.val (e.hc f i l))))

/-- R211, R213, R215, R216, R217: minimum, maximum, clamp, rounding to integral, scaling, exponent and mantissa. R212, R214, R216,
R218: floating compares with NV for a signalling NaN, and the class mask. An inline
constant of FSCALE and FCLASS is read as FP32 (the model's choice, log 127). -/
def Obligations.FloatMinimaComparesAndClasses : Prop :=
  (∀ (s : State) (e : Env),
     (∀ f : F3, s.AtHand (.fmin f) e → e.Sets (.fmin f) f.d (fun l => (fp32.minmax false (f.mod == 1) (e.fa f l) (e.fb f l)).1)
       fun l => snans [fp32.val (e.fa f l), fp32.val (e.fb f l)]) ∧
     (∀ f : F3, s.AtHand (.fmax f) e → e.Sets (.fmax f) f.d (fun l => (fp32.minmax true (f.mod == 1) (e.fa f l) (e.fb f l)).1)
       fun l => snans [fp32.val (e.fa f l), fp32.val (e.fb f l)]) ∧
     (∀ f : F3, s.AtHand (.fclmp f) e →
       let lower := fun l => fp32.minmax true (f.mod == 1) (e.fa f l) (e.fb f l)
       let upper := fun l => fp32.minmax false (f.mod == 1) (lower l).1 (e.src constF32 f.c l)
       e.Sets (.fclmp f) f.d (fun l => (upper l).1) fun l => (lower l).2 ||| (upper l).2) ∧
     (∀ f : F3, s.AtHand (.dmin f) e → e.Sets64 (.dmin f) f.d (fun l => (fp64.minmax false (f.mod == 1) (e.ga f l) (e.gb f l)).1)
       fun l => snans [fp64.val (e.ga f l), fp64.val (e.gb f l)]) ∧
     (∀ f : F3, s.AtHand (.dmax f) e → e.Sets64 (.dmax f) f.d (fun l => (fp64.minmax true (f.mod == 1) (e.ga f l) (e.gb f l)).1)
       fun l => snans [fp64.val (e.ga f l), fp64.val (e.gb f l)]) ∧
     (∀ f : F3, s.AtHand (.hmin2 f) e →
       let r := fun i l => (fmtOf f.fmt.toNat).minmax false (f.mod == 1) (e.ha f i l) (e.hb f i l)
       e.Sets (.hmin2 f) f.d (fun l => (r 0 l).1 + (r 1 l).1 * 65536) fun l => (r 0 l).2 ||| (r 1 l).2) ∧
     (∀ f : F3, s.AtHand (.hmax2 f) e →
       let r := fun i l => (fmtOf f.fmt.toNat).minmax true (f.mod == 1) (e.ha f i l) (e.hb f i l)
       e.Sets (.hmax2 f) f.d (fun l => (r 0 l).1 + (r 1 l).1 * 65536) fun l => (r 0 l).2 ||| (r 1 l).2) ∧
     (∀ f : F3, s.AtHand (.frnd f) e → e.Fp (.frnd f) f.d f.rnd fun l =>
       fp32.integral (e.mode true f.rnd.toNat l) (e.srWord l 0) (e.fa f l)) ∧
     (∀ f : F3, s.AtHand (.drnd f) e → e.Fp64 (.drnd f) f.d f.rnd fun l =>
       fp64.integral (e.mode true f.rnd.toNat l) (e.srWord l 0) (e.ga f l)) ∧
     (∀ f : F3, s.AtHand (.fscale f) e → e.Fp (.fscale f) f.d f.rnd fun l =>
       fscale (e.mode true f.rnd.toNat l) f.sat (e.srWord l 0) (e.fa f l) (BitVec.ofNat 32 (e.src constF32 f.b l)).toInt) ∧
     (∀ f : F3, s.AtHand (.fexpt f) e →
       let r := fun l => match fp32.val (e.fa f l) with
         | .fin _ m x => if m = 0 then ((0x80000000 : Word), fDZ) else (BitVec.ofInt 32 ((Nat.log2 m : Int) + x), 0)
         | _ => (0x7FFFFFFF, fNV)
       e.Sets (.fexpt f) f.d (fun l => (r l).1.toNat) fun l => (r l).2) ∧
     (∀ f : F3, s.AtHand (.fmant f) e →
       let r := fun l => match fp32.val (e.fa f l) with
         | .fin neg m _ => if m = 0 then (e.fa f l, 0) else fp32.pack 1 false 0 (.fin neg m (-(Nat.log2 m : Int)))
         | .inf _ => (e.fa f l, 0)
         | .nan sn => (0x7FC00000, if sn then fNV else 0)
       e.Sets (.fmant f) f.d (fun l => (r l).1) fun l => (r l).2)) ∧
  (∀ (s : State) (e : Env),
     (∀ f : F3, s.AtHand (.fset f) e →
       let r := e.joined f.c fun l => fcond f.fmt.toNat (Fv.cmp (fp32.val (e.fa f l)) (fp32.val (e.fb f l)))
       e.SetsP (.fset f) f.d (fun l => if r l then 0xFFFFFFFF else 0) (f.mod.toNat % 8) r
         fun l => snans [fp32.val (e.fa f l), fp32.val (e.fb f l)]) ∧
     (∀ f : F3, s.AtHand (.dset f) e →
       let r := e.joined f.c fun l => fcond f.fmt.toNat (Fv.cmp (fp64.val (e.ga f l)) (fp64.val (e.gb f l)))
       e.SetsP (.dset f) f.d (fun l => if r l then 0xFFFFFFFF else 0) (f.mod.toNat % 8) r
         fun l => snans [fp64.val (e.ga f l), fp64.val (e.gb f l)]) ∧
     (∀ f : F3, s.AtHand (.hset2 f) e →
       let t := if f.mod.getLsbD 3 then bf16 else fp16
       let a := fun i l => t.val (signMod 16 f.negA f.absA (e.src (constHalf t) f.a l / 65536 ^ i % 65536))
       let b := fun i l => t.val (signMod 16 f.negB f.absB (e.src (constHalf t) f.b l / 65536 ^ i % 65536))
       let r := fun i => e.joined f.c fun l => fcond f.fmt.toNat (Fv.cmp (a i l) (b i l))
       e.SetsP (.hset2 f) f.d (fun l => (if r 1 l then 0xFFFF0000 else 0) + (if r 0 l then 0xFFFF else 0)) (f.mod.toNat % 8)
         (fun l => r 0 l && r 1 l) fun l => snans [a 0 l, b 0 l] ||| snans [a 1 l, b 1 l]) ∧
     (∀ f : F3, s.AtHand (.fclass f) e →
       let c := fun l => fclass (e.fa f l)
       e.SetsP (.fclass f) f.d c (f.mod.toNat % 8) fun l => decide (c l &&& (e.src constF32 f.b l % 1024) ≠ 0)))

/-- R29 to R31, R33, R39, R19, R21: how a value becomes a pattern of a format. The patterns are ordered by their values; a magnitude
goes to one of the two around it as the mode says (SR by its word), or overflows; tininess is told after rounding (log 17); NX where it is none of them, OF where it overflows, UF
where it is inexact and, rounded with unbounded exponent, below the smallest normal value; a NaN is canonical, NV where it signals; an
infinity is the largest finite value under SAT, and a NaN with NV in E4M3. R223 to R226: conversions between float formats and integer
types; an inline constant in C of F2FP is read as FP32 (the model's choice, log 127). -/
def Obligations.FloatConversions : Prop :=
  (∀ t ∈ [fp32, fp16, bf16, fp64, e4m3, e5m2], ∀ (mode : Nat) (sat : Bool) (w : Nat), 1 ≤ mode → mode ≤ 6 → w < 2 ^ 32 →
     t.at_ 0 = 0 ∧ t.at_ (t.bias * 2 ^ t.fb) = 1 ∧ (∀ k, k < t.max → t.at_ k < t.at_ (k + 1)) ∧
     (∀ (neg : Bool) (m : Nat) (e : Int),
       let x : Rat := m * (2 : Rat) ^ e
       let r := t.pack mode sat w (.fin neg m e)
       let low := t.at_ (2 ^ t.fb)
       let nx := ¬ ∃ k, k ≤ t.max ∧ x = t.at_ k
       t.RoundsTo mode sat w neg x r.1 ∧ (r.2.getLsbD 0 = true ↔ nx) ∧ (r.2.getLsbD 2 = true ↔ t.exceeds mode neg w x) ∧
       (r.2.getLsbD 1 = true ↔ nx ∧ x < low ∧ ¬ roundsAway mode neg w True (low - t.at_ 1 / 2) x low) ∧
       r.2.getLsbD 3 = false ∧ r.2.getLsbD 4 = false) ∧
     (∀ sn, t.pack mode sat w (.nan sn) = (t.nan, if sn then fNV else 0)) ∧
     (∀ neg, t.pack mode sat w (.inf neg) =
       (if sat then t.signed neg t.max else if t.ocp4 then t.nan else t.signed neg t.inf, if t.ocp4 then fNV else 0)) ∧
     (∀ (x : Fv) (g : Flags), t.finish mode sat w (x, g) = ((t.pack mode sat w x).1, (t.pack mode sat w x).2 ||| g))) ∧
  ∀ (s : State) (e : Env),
    (∀ f : F3, s.AtHand (.f2i f) e →
      let t := ityp (f.mod.toNat % 8)
      let r := fun l => toInt (e.mode true f.rnd.toNat l) (e.srWord l 0) t.1 t.2 ((fmtOf f.fmt.toNat).val (e.elem f f.fmt.toNat l))
      let dr := fun l => if e.mode true f.rnd.toNat l = 6 then 1 else 0
      if t.2 = 64 then e.Sets64 (.f2i f) f.d (fun l => (BitVec.ofInt 64 (r l).1).toNat) (fun l => (r l).2) dr
      else e.Sets (.f2i f) f.d (fun l => (BitVec.ofInt 32 (r l).1).toNat) (fun l => (r l).2) dr) ∧
    (∀ f : F3, s.AtHand (.i2f f) e →
      let t := ityp (f.mod.toNat % 8)
      let x := fun l => if t.2 = 64 then extInt t.1 64 (e.src64 f.a l) else extInt t.1 t.2 (e.wa f l).toNat
      let r := fun l => (fmtOf f.fmt.toNat).pack (e.mode true f.rnd.toNat l) f.sat (e.srWord l 0) (Fv.ofInt false (x l) 0)
      if f.fmt = 3 then e.Fp64 (.i2f f) f.d f.rnd r else e.Fp (.i2f f) f.d f.rnd r) ∧
    (∀ f : F3, s.AtHand (.f2f f) e →
      let r := fun l => (fmtOf f.fmt.toNat).pack (e.mode true f.rnd.toNat l) f.sat (e.srWord l 0)
        ((fmtOf f.mod.toNat).val (e.elem f f.mod.toNat l))
      if f.fmt = 3 then e.Fp64 (.f2f f) f.d f.rnd r else e.Fp (.f2f f) f.d f.rnd r) ∧
    (∀ f : F3, s.AtHand (.f2fp f) e →
      let w := f2fpWidth f.fmt.toNat
      let lo := fun l => f2fpElem f.fmt.toNat (e.mode true f.rnd.toNat l) f.sat (e.srWord l 0) (e.fa f l)
      let hi := fun l => f2fpElem f.fmt.toNat (e.mode true f.rnd.toNat l) f.sat (e.srWord l 1) (e.fb f l)
      let pair := fun l => (lo l).1 + (hi l).1 * 2 ^ w
      let k := 2 * w * (f.mod.toNat % 4)
      let c := fun l => e.src constF32 f.c l
      e.Sets (.f2fp f) f.d
        (fun l => if w = 16 then pair l
          else c l - c l / 2 ^ k % 2 ^ (2 * w) * 2 ^ k + pair l * 2 ^ k)
        (fun l => (lo l).2 ||| (hi l).2) fun l => if e.mode true f.rnd.toNat l = 6 then 2 else 0)

/-- R219: a special function counts on its token and lands later with its value and flags, one destination a lane. R221: the special
operands, of RCP and RSQ in FP32 and FP64; R220: the exact cases, the signs, RCP and SQRT correctly rounded, RSQ one of the two
neighbours; the values of the other inexact cases, within their bounds, are the implementation's (log 8). -/
def Obligations.SpecialFunctionsLandUnderTheirToken : Prop :=
  (∀ (t : FpFmt) (rcp rsq mode : Nat) (sat neg : Bool), (t, rcp, rsq) ∈ [(fp32, 0x60, 0x61), (fp64, 0x69, 0x6A)] →
     let big := t.signed neg (if sat then t.max else t.inf)
     sfu rcp mode sat (t.signed neg 0) = (big, fDZ) ∧ sfu rsq mode sat (t.signed neg 0) = (big, fDZ) ∧
     sfu rcp mode sat (t.signed neg t.inf) = (t.signed neg 0, 0) ∧
     sfu rsq mode sat (t.signed neg t.inf) = (if neg then (t.nan, fNV) else (0, 0)) ∧
     (∀ x sn, t.val x = .nan sn → sfu rcp mode sat x = (t.nan, if sn then fNV else 0) ∧ sfu rsq mode sat x = (t.nan, if sn then fNV else 0)) ∧
     ∀ x m ex, t.val x = .fin neg m ex → m ≠ 0 →
       let a : Rat := m * (2 : Rat) ^ ex
       (1 ≤ mode → mode ≤ 5 → t.RoundsTo mode sat 0 neg (1 / a) (sfu rcp mode sat x).1) ∧
       (neg = true → sfu rsq mode sat x = (t.nan, fNV)) ∧
       (neg = false →
         (∀ k, k < t.max → t.at_ k * t.at_ k * a ≤ 1 → 1 < t.at_ (k + 1) * t.at_ (k + 1) * a →
           (sfu rsq mode sat x).1 = k ∨ (sfu rsq mode sat x).1 = k + 1) ∧
         ∀ n : Int, a = (4 : Rat) ^ n → (sfu rsq mode sat x).2 = 0 ∧ t.at_ (sfu rsq mode sat x).1 = (2 : Rat) ^ (-n))) ∧
  (∀ (mode : Nat) (sat : Bool) (x : Nat),
     let r := fun op => sfu op mode sat x
     let ops := [0x62, 0x63, 0x64, 0x65, 0x66, 0x67, 0x68]
     (∀ sn, fp32.val x = .nan sn → ∀ op ∈ ops, r op = (0x7FC00000, if sn then fNV else 0)) ∧
     (x = 0 ∨ x = 0x80000000 → r 0x62 = (x, 0) ∧ r 0x63 = (0x3F800000, 0) ∧ r 0x64 = (0xFF800000, fDZ) ∧ r 0x65 = (x, 0) ∧
       r 0x66 = (0x3F800000, 0) ∧ r 0x67 = (x, 0) ∧ r 0x68 = (0x3F000000, 0)) ∧
     (x = 0x7F800000 → r 0x62 = (x, 0) ∧ r 0x63 = (if sat then 0x7F7FFFFF else x, 0) ∧ r 0x64 = (x, 0) ∧ r 0x65 = (0x7FC00000, fNV) ∧
       r 0x66 = (0x7FC00000, fNV) ∧ r 0x67 = (0x3F800000, 0) ∧ r 0x68 = (0x3F800000, 0)) ∧
     (x = 0xFF800000 → r 0x62 = (0x7FC00000, fNV) ∧ r 0x63 = (0, 0) ∧ r 0x64 = (0x7FC00000, fNV) ∧ r 0x65 = (0x7FC00000, fNV) ∧
       r 0x66 = (0x7FC00000, fNV) ∧ r 0x67 = (0xBF800000, 0) ∧ r 0x68 = (0, 0)) ∧
     ∀ neg m ex, fp32.val x = .fin neg m ex → m ≠ 0 →
       let a : Rat := m * (2 : Rat) ^ ex
       (neg = true → r 0x62 = (0x7FC00000, fNV) ∧ r 0x64 = (0x7FC00000, fNV)) ∧
       (∀ k, neg = false → 1 ≤ mode → mode ≤ 5 → k < fp32.max → fp32.at_ k * fp32.at_ k ≤ a → a < fp32.at_ (k + 1) * fp32.at_ (k + 1) →
         let mid := fp32.at_ k + fp32.at_ (k + 1)
         (r 0x62).1 = if a ≠ fp32.at_ k * fp32.at_ k ∧ (mode = 3 ∨ mode ≠ 2 ∧ mode ≠ 4 ∧ mid * mid < 4 * a) then k + 1 else k) ∧
       (∀ n : Nat, (neg = false ∧ n ≤ 127 ∨ neg = true ∧ n ≤ 149) → a = n →
         (r 0x63).2 = 0 ∧ fp32.at_ (r 0x63).1 = (2 : Rat) ^ (if neg then -(n : Int) else n)) ∧
       (neg = false → 128 ≤ a → r 0x63 = (if sat then 0x7F7FFFFF else 0x7F800000, fOF ||| fNX)) ∧
       (∀ n : Int, neg = false → a = (2 : Rat) ^ n → (r 0x64).2 = 0 ∧ (fp32.val (r 0x64).1).num = n) ∧
       (∀ n : Nat, 2 * a = n → r 0x65 = (fp32.signed neg 0, 0) ∧ r 0x66 = (if n % 2 = 0 then 0x3F800000 else 0xBF800000, 0)) ∧
       (∀ n : Nat, 4 * a = n → n % 2 = 1 →
         r 0x65 = (fp32.signed (if n % 4 = 1 then neg else !neg) 0x3F800000, 0) ∧ r 0x66 = (0, 0)) ∧
       (a < (2 : Rat) ^ (-12 : Int) → x < 0x100000000 → r 0x67 = (x, 0)) ∧ (10 ≤ a → r 0x67 = (fp32.signed neg 0x3F800000, 0)) ∧
       (neg = false → 18 ≤ a → x < 0x100000000 → r 0x68 = (0x3F800000, 0)) ∧
       (x < 0x7F800000 → sfu 0x66 mode sat (0x80000000 + x) = r 0x66 ∧
         ∀ op, op = 0x65 ∨ op = 0x67 → sfu op mode sat (0x80000000 + x) = (Nat.xor (r op).1 0x80000000, (r op).2))) ∧
  ∀ (s : State) (e : Env) (f : F3),
    let one := fun (i : Instr) (op : Nat) => s.AtHand i e → e.full (some f.mod.toNat) = false →
      let r := fun l => sfu op (e.mode false f.rnd.toNat l) f.sat (e.fa f l)
      e.Sends i (some f.mod.toNat) false ((lanesOf e.L).flatMap fun l => e.put f.d 0 l (r l).1)
        (((lanesOf e.L).map fun l => (l, (r l).2)).filter fun x => x.2 != 0)
    let two := fun (i : Instr) (op : Nat) => s.AtHand i e → e.full (some f.mod.toNat) = false →
      let r := fun l => sfu op (e.mode false f.rnd.toNat l) f.sat (e.ga f l)
      e.Sends i (some f.mod.toNat) false ((lanesOf e.L).flatMap fun l => e.put64 f.d l (r l).1)
        (((lanesOf e.L).map fun l => (l, (r l).2)).filter fun x => x.2 != 0)
    one (.rcp f) 0x60 ∧ one (.rsq f) 0x61 ∧ one (.sqrt f) 0x62 ∧ one (.exp2 f) 0x63 ∧ one (.log2 f) 0x64 ∧ one (.sincy f) 0x65 ∧
      one (.coscy f) 0x66 ∧ one (.tanh f) 0x67 ∧ one (.sigm f) 0x68 ∧ two (.drcp f) 0x69 ∧ two (.drsq f) 0x6A

/-! ## Matrix and block formats (R336 to R349) -/

/-- R336 to R344: with all 32 lanes active, an MMA counts on its token and lands C plus the product of the rows of the A fragments
(or of the latch, R339) and the columns of the B fragments; REUSE fills the latch with A, anything else empties it. R338: an MMA of
fewer than 32 active lanes raises cause 0x29 for the issuing set, and does nothing else. The value and flags of an MMA element do
not depend on the order of its products (R41). -/
def Obligations.MatrixProductsLandUnderTheirToken : Prop :=
  (∀ (s : State) (e : Env) (f : F3),
     let words := fun (op : Nat) =>
       if e.cl.latch.isEmpty then (List.range 32).map (e.frag f.a.toNat (mmaN op)) else e.cl.latch
     let others := fun (op : Nat) => (List.range 32).map (e.frag f.b.toNat (mmaN op))
     let c := fun (l j : Nat) => if f.c = 0xE8 then 0 else (e.rv (f.c.toNat + j) l).toNat
     let lands := fun (i : Instr) (op : Nat) (out : Nat → List Nat × Flags) =>
       s.AtHand i e → e.L = BitVec.allOnes 32 → e.full (some f.mod.toNat) = false →
       e.Gives i e.s { (e.wv.tokUp (some f.mod.toNat)) with
         clause := some { e.cl with latch := if f.reuse then words op else [] },
         flights := e.wv.flights ++ [{
           tok := some f.mod.toNat, hold := 0,
           writes := (lanesOf e.L).flatMap fun l => (List.range 8).flatMap fun j => e.put f.d j l ((out l).1.getD j 0),
           flags := ((lanesOf e.L).map fun l => (l, (out l).2)).filter fun x => x.2 != 0 }] }
     let float := fun (i : Instr) (op sa sb : Nat) =>
       lands i op fun l => mmaLane mmaDot ((words op).map (mmaShare op sa)) ((others op).map (mmaShare op sb)) (c l) l
     float (.mmaF16 f) 0x70 0 0 ∧ float (.mmaBf16 f) 0x71 0 0 ∧ float (.mmaE4 f) 0x72 0 0 ∧ float (.mmaE5 f) 0x73 0 0 ∧
       float (.mmaZb8 f) 0x74 (f.fmt.toNat / 4) (f.fmt.toNat % 4) ∧ float (.mmaZb5 f) 0x75 (f.fmt.toNat / 4) (f.fmt.toNat % 4) ∧
       float (.mmaZb3 f) 0x76 (f.fmt.toNat / 4) (f.fmt.toNat % 4) ∧
       lands (.mmaI8 f) 0x77 fun l => mmaLane (fun x r k => (mmaInt f.sat x r k, 0)) ((words 0x77).map (mmaBytes (f.fmt.getLsbD 1)))
         ((others 0x77).map (mmaBytes (f.fmt.getLsbD 0))) (c l) l) ∧
  (∀ (s : State) (e : Env) (f : F3) (i : Instr), i ∈ [.mmaF16 f, .mmaBf16 f, .mmaE4 f, .mmaE5 f, .mmaZb8 f, .mmaZb5 f, .mmaZb3 f,
       .mmaI8 f] → s.AtHand i e → e.full (some f.mod.toNat) = false → e.L ≠ BitVec.allOnes 32 →
     e.Faults i 0x29 e.cl.set) ∧
  (∀ (c : Nat) (xs ys : List (Fv × Fv)), List.Perm xs ys →
     mmaDot c (xs.map (·.1)) (xs.map (·.2)) = mmaDot c (ys.map (·.1)) (ys.map (·.2)))

/-- R346 to R348: packing sixteen values into a block with its scale record, unpacking, and the exponent record. -/
def Obligations.BlockFormatsPackAndUnpack : Prop :=
  ∀ (s : State) (e : Env),
    (∀ f : F3, s.AtHand (.zbpack f) e →
      let n := zbF f.fmt.toNat
      let r := fun l => zbPack (zbK f.fmt.toNat) (e.mode true f.rnd.toNat l) (e.srWord l) (e.sixteen f.a.toNat l)
      e.Ran (.zbpack f) (fun l ln =>
        let ln := (List.range n).foldl (fun x j => e.toLane f.d j false l ((r l).2.1 / 2 ^ (32 * j) % 2 ^ 32) x) ln
        let ln := e.toLane f.d n false l (putHalf (e.wc f l).toNat (f.mod.toNat % 4) (r l).1) ln
        (ln.flag (r l).2.2).drew (if e.mode true f.rnd.toNat l = 6 then 16 else 0)) e.wv.w) ∧
    (∀ f : F3, s.AtHand (.zbunp f) e →
      let n := zbF f.fmt.toNat
      let ws := fun l => e.frag f.a.toNat (n + 1) l
      let vs := fun l => zbBlock (zbK f.fmt.toNat) (((ws l).getD n 0).toNat / 2 ^ (8 * (f.mod.toNat % 4)) % 65536)
        (wordsNat ((ws l).take n))
      e.Ran (.zbunp f) (fun l ln =>
        (List.range 16).foldl (fun x j => e.toLane f.d j false l (fp32.pack 1 false 0 ((vs l).getD j default)).1 x) ln) e.wv.w) ∧
    (∀ f : F3, s.AtHand (.zbexp f) e →
      let sel := f.mod.toNat % 4
      (f.mod.toNat / 4 = 1 →
        let r := fun l => (e.wa f l).toNat / 2 ^ (8 * sel) % 65536
        let x := fun l => zbAdjust (r l / 256) (e.wb f l).toInt
        e.Sets (.zbexp f) f.d (fun l => putHalf (e.wc f l).toNat sel ((x l).1 * 256 + r l % 256)) fun l => (x l).2) ∧
      (f.mod.toNat / 4 ≠ 1 → e.Sets (.zbexp f) f.d fun l =>
        putHalf (e.wc f l).toNat sel (zbRecord (zbK f.fmt.toNat) (e.sixteen f.a.toNat l))))

/-! ## Control flow and waves (R161 to R187, R139, R140) -/

/-- R183, R61: NOP does nothing; a branch moves each active lane to its target at the end of the clause; a call also raises the call
depth and writes the fall-through header into the link pair; a return lowers the depth. R183: a call at depth 63 raises cause 0x2A
and a return at depth 0 cause 0x2B, for the lanes at that depth. -/
def Obligations.TransfersMoveTheActiveLanes : Prop :=
  (∀ (s : State) (e : Env),
     let moved := fun (t : Nat → DWord) (dep : BitVec 6) =>
       { e.cl with pcs := (lanesOf e.L).map fun l => (l, t l),
                   depths := (lanesOf e.L).map fun l => (l, (e.wv.lane l).depth + dep) }
     let dest := fun (off : Word) (_ : Nat) => e.cl.hdr + 8 * off.signExtend 64
     let link := fun (d : BitVec 8) => mapIx (fun l ln => if inMask e.L l then
         e.toLane d 1 true l (e.cl.nxt.toNat / 2 ^ 32) (e.toLane d 0 true l e.cl.nxt.toNat ln) else ln) 0 e.wv.lanes
     let free := fun (n : Nat) => ∀ l, inMask e.L l = true → (e.wv.lane l).depth.toNat ≠ n
     (∀ f : F3, s.AtHand (.nop f) e → e.Gives (.nop f) e.s e.wv) ∧
     (∀ f : FB, s.AtHand (.bra f) e → e.Gives (.bra f) e.s { e.wv with clause := some (moved (dest f.off) 0) }) ∧
     (∀ f : F3, s.AtHand (.brx f) e → e.Gives (.brx f) e.s { e.wv with clause := some (moved (e.wide f.a) 0) }) ∧
     (∀ f : FB, s.AtHand (.call f) e → free 63 →
       e.Gives (.call f) e.s { e.wv with clause := some (moved (dest f.off) 1), lanes := link f.d }) ∧
     (∀ f : F3, s.AtHand (.callx f) e → free 63 →
       e.Gives (.callx f) e.s { e.wv with clause := some (moved (e.wide f.a) 1), lanes := link f.d }) ∧
     (∀ f : F3, s.AtHand (.ret f) e → free 0 →
       e.Gives (.ret f) e.s { e.wv with clause := some (moved (e.wide f.a) (-1)) })) ∧
  (∀ (s : State) (e : Env),
     let at_ := fun (n : Nat) => e.L &&& maskOf fun l => decide ((e.wv.lane l).depth.toNat = n)
     (∀ f : FB, s.AtHand (.call f) e → at_ 63 ≠ 0 → e.Faults (.call f) 0x2A (at_ 63)) ∧
     (∀ f : F3, s.AtHand (.callx f) e → at_ 63 ≠ 0 → e.Faults (.callx f) 0x2A (at_ 63)) ∧
     (∀ f : F3, s.AtHand (.ret f) e → at_ 0 ≠ 0 → e.Faults (.ret f) 0x2B (at_ 0)))

/-- R185 to R187: MEET sets the meeting point of the active lanes at their own call depth and the join mask to them; MVMEET moves
MEET registers; JMOP reads, sets, ORs, clears bits of, or fills a join mask. -/
def Obligations.MeetingPointsAndJoinMasks : Prop :=
  ∀ (s : State) (e : Env),
    let inL := fun (g : Nat → Lane → Lane) => mapIx (fun l ln => if inMask e.L l then g l ln else ln) 0 e.wv.lanes
    (∀ f : FB, s.AtHand (.meet f) e → e.L ≠ 0 →
      let t := e.cl.hdr + 8 * f.off.signExtend 64
      e.Gives (.meet f) e.s { e.wv with
        jm := e.wv.jm.set (f.mod.toNat % 8) e.L,
        lanes := inL fun _ ln => { ln with
          meet := BitVec.ofNat 64 (ln.depth.toNat * 2 ^ 58 + 2 ^ 57 + bits t.toNat 56 3 * 8 + f.mod.toNat % 8) } }) ∧
    (∀ f : FB, s.AtHand (.meet f) e → e.L = 0 → e.Gives (.meet f) e.s e.wv) ∧
    (∀ f : F3, s.AtHand (.mvmeet f) e → f.mod = 0 → e.Sets64 (.mvmeet f) f.d fun l => (e.wv.lane l).meet.toNat) ∧
    (∀ f : F3, s.AtHand (.mvmeet f) e → f.mod = 1 →
      e.Gives (.mvmeet f) e.s { e.wv with lanes := inL fun l ln => { ln with meet := e.wide f.a l } }) ∧
    (∀ f : F3, s.AtHand (.jmop f) e → e.L = 0 → e.Gives (.jmop f) e.s e.wv) ∧
    (∀ f : F3, s.AtHand (.jmop f) e → f.mod = 0 → e.L ≠ 0 →
      e.Sets (.jmop f) f.d fun _ => (e.wv.jm.getD f.b.toNat 0).toNat) ∧
    (∀ (f : F3) (m : Nat), s.AtHand (.jmop f) e → f.mod.toNat = m → m ≠ 0 → e.L ≠ 0 →
      let x := e.wa f e.l0
      let old := e.wv.jm.getD f.b.toNat 0
      ∃ new : LaneMask, e.Gives (.jmop f) e.s { e.wv with jm := updAt e.wv.jm f.b.toNat fun _ => new } ∧
        (m = 1 → new = x) ∧ (m = 2 → new = old ||| x) ∧ (m = 3 → new = old &&& ~~~ x) ∧ (m = 4 → new = e.L))

/-- R161 to R165, R140: EXIT ends the active lanes of a wave that is no berth; YIELD and SLEEP of 0 ask for a rotation; SLEEP sets
the time the wave wakes; REGION names the staged registers; WAITKIDS waits for the children launched so far. How device time
goes on is open (log 13); a turn that ends while IN-TRAP is log 124. -/
def Obligations.WaveScheduling : Prop :=
  ∀ (s : State) (e : Env),
    let yields : Wave := { e.wv with clause := some { e.cl with rotate := true }, waited := 0 }
    (∀ f : F3, s.AtHand (.exit f) e → e.wv.berth = none → e.Gives (.exit f) e.s { e.wv with
      lanes := mapIx (fun l ln => if inMask e.L l then { ln with exited := true } else ln) 0 e.wv.lanes }) ∧
    (∀ f : F3, s.AtHand (.exit f) e → e.wv.berth ≠ none → e.L ≠ 0 → e.Faults (.exit f) 0x2F e.L) ∧
    (∀ f : F3, s.AtHand (.yield f) e → e.L ≠ 0 → e.Gives (.yield f) e.s yields) ∧
    (∀ f : F3, s.AtHand (.yield f) e → e.L = 0 → e.Gives (.yield f) e.s e.wv) ∧
    (∀ f : FI, s.AtHand (.sleep f) e → f.imm = 0 → e.L ≠ 0 → e.Gives (.sleep f) e.s yields) ∧
    (∀ f : FI, s.AtHand (.sleep f) e → f.imm ≠ 0 → e.L ≠ 0 →
      e.Gives (.sleep f) e.s { e.wv with sleep := some (e.s.tick.now + f.imm.toNat) }) ∧
    (∀ f : FI, s.AtHand (.sleep f) e → e.L = 0 → e.Gives (.sleep f) e.s e.wv) ∧
    (∀ f : FI, s.AtHand (.region f) e → e.Gives (.region f) e.s { e.wv with
      staged := ((List.range 32).filter fun j => f.imm.getLsbD j).map (f.a.toNat + ·) }) ∧
    (∀ f : F3, s.AtHand (.waitkids f) e → e.L ≠ 0 → e.Gives (.waitkids f) e.s { e.wv with kidsWait := some e.team.childSeq }) ∧
    (∀ f : F3, s.AtHand (.waitkids f) e → e.L = 0 → e.Gives (.waitkids f) e.s e.wv)

/-- R167, R168: with room, SPAWN starts a wave of the free rank whose lanes outside the spawning ones have exited, at the code
offset of the lowest lane, with the eight registers of each lane and `w0` to `w3`, and returns the rank. Without room, TRY returns
0x10000000 and sets its predicate; else it parks with what its lanes captured, holding their next clause. A berth wave raises 0x2D, an
empty lane set spawns nothing. R139: LAUNCH by the team leader enqueues a
child grid for decode, one deeper, with the next launch id, which it returns; at depth 16 it returns 0x10000000, with 65,536
unretired children in the context 0x20000000; by another lane it raises 0x2E. A spawned
wave of rank 0 (log 166), LAUNCH with no active lane (log 66) and the other registers of a started wave (logs 7, 37) are the model's
readings. -/
def Obligations.SpawnAndLaunch : Prop :=
  (∀ (s : State) (e : Env) (f : F3), s.AtHand (.spawn f) e → e.settled →
     let p := if f.mod.getLsbD 3 then f.mod.toNat % 8 else 7
     (e.L = 0 → e.Gives (.spawn f) e.s e.wv) ∧
     (e.L ≠ 0 → e.wv.berth ≠ none → e.Faults (.spawn f) 0x2D e.L) ∧
     (e.L ≠ 0 → e.wv.berth = none → e.s.spawnRoom e.w = none → f.mod.getLsbD 3 = true →
       e.SetsP (.spawn f) f.d (fun _ => 0x10000000) p fun _ => true) ∧
     (e.L ≠ 0 → e.wv.berth = none → e.s.spawnRoom e.w = none → f.mod.getLsbD 3 = false →
       e.Waits (.spawn f) none e.cl.set
         ((lanesOf e.L).map fun l => (l, ((List.range 8).map fun j => (e.rv (f.a.toNat + j) l).toNat) ++ [e.src constInt f.b l]))
         ((lanesOf e.L).flatMap fun l => e.put f.d 0 l 0) e.s e.wv) ∧
     (∀ r q, e.L ≠ 0 → e.wv.berth = none → e.s.spawnRoom e.w = some (r, q) → mget e.s.waves e.s.key = none →
       ∃ u, exec (.spawn f) e.s = .next (e.done u) ∧
         (∃ v : Wave, mget u.waves e.w = some v ∧ v.lanes = mapIx (fun l ln => if inMask e.L l then
           (e.toLane f.d 0 false l r ln).setPred p false else ln) 0 e.wv.lanes ∧ v.w = e.toFile f.d 0 (fun _ => r) e.wv.w) ∧
         ∃ v : Wave, mget u.waves e.s.key = some v ∧ v.team = e.wv.team ∧ v.rank = r ∧ v.core = e.wv.core ∧ v.quad = q ∧
           v.ctxn = e.wv.ctxn ∧ v.alloc = e.wv.alloc ∧ v.w = e.wv.w.take 4 ++ List.replicate 28 0 ∧
           ∀ l, l < 32 → (v.lane l).exited = !inMask e.L l ∧ (inMask e.L l = true →
             (∀ j, j < 8 → j < e.wv.alloc → (v.lane l).v.getD j 0 = e.rv (f.a.toNat + j) l) ∧
             ((v.lane l).pc = BitVec.ofNat 64 ((match (e.s.ctx e.wv.ctxn).objs.find?
                 fun o => o.addr == (e.s.gridOf (e.s.teamOf e.wv)).code with
               | some o => o.addr + o.textOff
               | none => 0) + (e.wb f e.l0).toNat))))) ∧
  (∀ (s : State) (e : Env) (f : F3), s.AtHand (.launch f) e → e.settled →
     let g := e.s.gridOf e.team
     let id := e.ctx.nextLaunch
     (e.L = 0 → e.Gives (.launch f) e.s e.wv) ∧
     (e.L ≠ 0 → e.wv.berth ≠ none → e.Faults (.launch f) 0x2D e.L) ∧
     (e.L ≠ 0 → e.wv.berth = none → (∀ l, inMask e.L l = true → e.s.leader e.wv.team ≠ some (e.w, l)) →
       e.Faults (.launch f) 0x2E e.L) ∧
     (∀ l, e.wv.berth = none → e.s.leader e.wv.team = some (e.w, l) → inMask e.L l = true →
       (g.depth = 16 → e.Sets (.launch f) f.d fun _ => 0x10000000) ∧
       (g.depth ≠ 16 → 65536 ≤ e.s.childrenOf e.wv.ctxn → e.Sets (.launch f) f.d fun _ => 0x20000000) ∧
       (g.depth ≠ 16 → e.s.childrenOf e.wv.ctxn < 65536 → ∃ child : Grid,
         child.ctx = e.wv.ctxn ∧ child.st = .submitted ∧ child.origin = .child e.wv.team ∧ child.parent = some e.team.grid ∧
         child.launch = id ∧ child.desc = (e.wide f.a l).toNat ∧ child.args = (e.wide f.b l).toNat ∧
         child.arglen = (e.wc f l).toNat ∧ child.depth = g.depth + 1 ∧
         e.Gives (.launch f)
           { e.s with
             key := e.s.key + 1,
             ctxs := mupd e.s.ctxs e.wv.ctxn fun x => { x with nextLaunch := id + 1 },
             teams := mupd e.s.teams e.wv.team fun t =>
               { t with childSeq := t.childSeq + 1, kids := t.kids ++ [(t.childSeq + 1, e.s.key)] },
             grids := mset e.s.grids e.s.key child }
           { e.wv with
             lanes := mapIx (fun j ln => if inMask e.L j then e.toLane f.d 0 false j (id % 2 ^ 28) ln else ln) 0 e.wv.lanes,
             w := e.toFile f.d 0 (fun _ => id % 2 ^ 28) e.wv.w })))

/-! ## Memory (R244 to R263) -/

/-- R249, R253: a global load of every active lane's place lands the bytes found there, extended or spread over its registers; LD
also needs no watchpoint there; LDC may return what a byte held earlier in its grid (R242, log 144). One order of every access is the model's choice (logs 26, 125). Nothing else changes. R246: what a loaded value's registers hold, by access size: zero- or
sign-extended, or one word after another. R249, R53: a global store writes the data of every active lane not yet performed, in
ascending lane order, marks the lanes performed and counts on its token; no register changes. -/
def Obligations.GlobalLoadsAndStores : Prop :=
  (∀ (s : State) (e : Env) (f : FM) (va : Nat → Nat),
     let m := f.mod.toNat % 8
     let reach := ∀ l, inMask e.L l = true → e.place 0 (sizeOf8 m) (e.ea f (sizeOf8 m) l) = .inl (va l)
     let found := fun l => e.s.gread e.wv.ctxn e.w l (va l) (sizeOf8 m) (e.s.ctr + 32 * l)
     let const_ := fun l => mapIx (fun k x => e.s.constByte e.wv (e.s.ctr + 1024 + 32 * l + k) (va l + k) x) 0 (found l)
     let got := fun (bs : Nat → List Byte) l => ({ regs := e.loaded f.d m l (bs l) } : LaneOut)
     let s0 := { e.s with ctr := e.s.ctr + 2048 }
     (s.Ready (.ld f) f e → reach → (∀ l, inMask e.L l = true → e.wv.watched (va l) true false = none) →
       e.Sent (.ld f) f (got found) s0 e.wv) ∧
     (s.Room (.ldc f) f e → reach → e.Sent (.ldc f) f (got const_) s0 e.wv) ∧
     (∀ l k x, e.s.olds = [] → e.s.constByte e.wv k (va l) x = x)) ∧
  (∀ bs : List Byte,
     (∀ b, bs = [b] → loadWords 0 bs = [b.toNat] ∧ loadWords 1 bs = [(b.signExtend 32).toNat]) ∧
     (∀ b0 b1, bs = [b0, b1] → loadWords 2 bs = [(b1 ++ b0).toNat] ∧ loadWords 3 bs = [((b1 ++ b0).signExtend 32).toNat]) ∧
     (∀ m, 4 ≤ m → m ≤ 7 → bs.length = sizeOf8 m →
       ∃ ws : List Word, loadWords m bs = ws.map BitVec.toNat ∧ ws.length = sizeOf8 m / 4 ∧
         ∀ k, k < sizeOf8 m / 4 → ws[k]? = some (bs.getD (4 * k + 3) 0 ++ bs.getD (4 * k + 2) 0 ++ bs.getD (4 * k + 1) 0 ++ bs.getD (4 * k) 0))) ∧
  (∀ (s : State) (e : Env) (f : FM) (va : Nat → Nat),
     let n := sizeOf8 (f.mod.toNat % 8)
     let s0 := (lanesOf e.todo).foldl (fun u l => u.gwrite e.wv.ctxn e.w l (va l) (e.stored f.d (f.mod.toNat % 8) l)) e.s
     s.Ready (.st f) f e → (∀ l, inMask e.todo l = true → e.place 1 n (e.ea f n l) = .inl (va l)) →
     (∀ l a, inMask e.L l = true → e.ea f n l = .inl a → e.wv.watched a false true = none) →
     e.Sent (.st f) f (fun _ => {}) s0 (e.markPerf e.todo (s0.wave e.w)))

/-- R252, R160: private loads land the bytes the lane wrote (any other byte is free, log 1); private stores write them, in ascending
lane order. R250, R251, R286: local loads from lines that need no wait land the bytes found there and pin the pages; local stores
write them, the pages pinned, in ascending lane order. Outside FIFO windows. -/
def Obligations.PrivateAndLocalAccesses : Prop :=
  (∀ (s : State) (e : Env) (f : FM) (o : Nat → Nat),
     let m := f.mod.toNat % 8
     let n := sizeOf8 m
     (s.Ready (.ldp f) f e → (∀ l, inMask e.L l = true → e.privPlace f 0 n l = .inl (o l)) →
       e.Sent (.ldp f) f (fun l => { regs := e.loaded f.d m l ((List.range n).map fun i =>
           (mget e.wv.priv (privKey l (o l + i))).getD (freeByte (e.s.ctr + 32 * l + i))) })
         { e.s with ctr := e.s.ctr + 1024 } e.wv) ∧
     (s.Ready (.stp f) f e → (∀ l, inMask e.todo l = true → e.privPlace f 1 n l = .inl (o l)) →
       let s0 := (lanesOf e.todo).foldl (fun u l => privWrite e.w l (o l) (e.stored f.d m l) 0 u) e.s
       e.Sent (.stp f) f (fun _ => {}) s0 (e.markPerf e.todo (s0.wave e.w)))) ∧
  (∀ (s : State) (e : Env) (f : FM) (p : Nat → LPlace),
     let m := f.mod.toNat % 8
     let n := sizeOf8 m
     let reach := fun (w : Bool) => ∀ l, inMask e.L l = true →
       e.loadPlace f w n l = .inl (p l) ∧ e.s.inFifo (p l) = false ∧ e.s.loadWaits w (p l) = false
     let s1 := (lanesOf e.L).foldl (fun u l => u.pinRange (p l).team (p l).off n) e.s
     let got := fun l => ({ regs := e.loaded f.d m l (s1.lread (p l) n (e.s.ctr + 32 * l)) } : LaneOut)
     (s.Ready (.ldl f) f e → reach false → e.Sent (.ldl f) f got { s1 with ctr := e.s.ctr + 1024 } e.wv) ∧
     (s.Ready (.ldlw f) f e → reach true → e.Sent (.ldlw f) f got { s1 with ctr := e.s.ctr + 1024 } e.wv) ∧
     (s.Ready (.stl f) f e → (∀ l, inMask e.todo l = true → e.storePlace f n l = .inl (p l) ∧ e.s.inFifo (p l) = false) →
       e.Sent (.stl f) f (fun _ => {}) ((lanesOf e.todo).foldl (fun u l => u.lwrite (p l) (e.stored f.d m l)) e.s)
         (e.markPerf e.todo e.wv)))

/-- R255 to R257: the lanes of an atomic act one after another, lowest first: each lands the value it read, and stores the
operation's result, or for a compare-and-swap its new value where the comparison held; R255: the result of each operation. R259 to R261: in one order of every access, a
fence, a prefetch and a cache operation complete on their token, if they have one, and change nothing; a fence's token comes behind
every completion before it (R412). The one order, and that a fence waits for what waits before it, are logs 26 and 125. -/
def Obligations.AtomicsAndFences : Prop :=
  (∀ (s : State) (e : Env) (f : FM) (va : Nat → Nat) (p : Nat → LPlace),
     let reach := fun n => ∀ l, inMask e.L l = true → e.place 2 n (e.ea f n l) = .inl (va l) ∧ e.wv.watched (va l) true true = none
     let reachL := fun n => ∀ l, inMask e.L l = true → e.atomPlace f n l = .inl (p l)
     let rmw := fun (cas : Bool) l => rmwOf f cas (e.rmwArgs f cas l)
     let glob := fun (i : Instr) (n : Nat) (cas : Bool) =>
       s.Ready i f e → reach n →
         let r := globalRmw e.wv.ctxn e.w n (rmw cas) ((lanesOf e.L).map fun l => (l, va l)) e.s
         e.Sent i f (e.rmwOut f n r.1) r.2 (r.2.wave e.w)
     let loc := fun (i : Instr) (n : Nat) (cas : Bool) =>
       s.Ready i f e → reachL n →
         let r := localRmw n (rmw cas) ((lanesOf e.L).map fun l => (l, p l)) e.s
         e.Sent i f (e.rmwOut f n r.1) r.2 e.wv
     glob (.atom f) (atomWidth f.mod.toNat) false ∧ glob (.acas f) (if f.mod.getLsbD 0 then 8 else 4) true ∧
       loc (.atoml f) (atomWidth f.mod.toNat) false ∧ loc (.acasl f) (if f.mod.getLsbD 0 then 8 else 4) true) ∧
  (∀ (f : FM) (x b : Nat),
     rmwOf f false [b] x = (some (atomNew f.mod.toNat x b).1, (atomNew f.mod.toNat x b).2) ∧
     (∀ y, rmwOf f true [b, y] x = (if x = b then some y else none, 0))) ∧
  (∀ x b : Word,
     let new := fun (op : Nat) (y : Word) => atomNew op x.toNat b.toNat = (y.toNat, 0)
     new 0 (x + b) ∧ new 2 (if x.toInt ≤ b.toInt then x else b) ∧ new 3 (if x ≤ b then x else b) ∧
       new 4 (if x.toInt ≤ b.toInt then b else x) ∧ new 5 (if x ≤ b then b else x) ∧ new 6 (x &&& b) ∧ new 7 (x ||| b) ∧ new 8 (x ^^^ b) ∧
       new 9 b ∧ new 13 (if b ≤ x then 0 else x + 1) ∧
       atomNew 14 x.toNat b.toNat = fp32.finish 1 false 0 (Fv.add 1 (fp32.val x.toNat) (fp32.val b.toNat))) ∧
  (∀ x b : DWord,
     let new := fun (op : Nat) (y : DWord) => atomNew op x.toNat b.toNat = (y.toNat, 0)
     new 1 (x + b) ∧ new 10 b ∧ new 11 (x ||| b) ∧ new 12 (x &&& b) ∧ new 15 (if x ≤ b then b else x)) ∧
  (∀ (s : State) (e : Env) (f : FM),
     let completes := fun (i : Instr) =>
       (f.tv = true → e.Sends i (tokenOf f) false []) ∧ (f.tv = false → e.Gives i e.s e.wv)
     (s.Ready (.fence f) f e → f.tv = false ∨ e.L = 0 → e.Gives (.fence f) e.s e.wv) ∧
     (s.Ready (.fence f) f e → f.tv = true → e.L ≠ 0 → e.Gives (.fence f) e.s { (e.wv.tokUp (tokenOf f)) with
       flights := e.wv.flights ++ [{ tok := tokenOf f, hold := 0, writes := [], flags := [], fence := true }] }) ∧
     (∀ (v : Wave) (n : Nat) (g : Flight), v.flights[n]? = some g → g.fence = true → (v.mayLand n = true ↔ n = 0)) ∧
     (s.Room (.pref f) f e → completes (.pref f)) ∧
     (s.Room (.cctl f) f e → f.mod.toNat % 4 = 3 → completes (.cctl f)) ∧
     (s.Room (.cctl f) f e → f.mod.toNat % 4 ≠ 3 →
       (∀ l, inMask e.L l = true → ∃ va, e.ea f 1 l = .inl va ∧ e.s.maintFault e.wv.ctxn va e.wv.core = none) → completes (.cctl f)))

/-- R263: STZ writes the segment of the wave's elements at the lowest lane's address once, when the capacity holds it; LDZ expands a
well-formed segment that lies within the capacity. R262: a segment holds its count of nonzero elements, its element count, its
length and its mask, then the nonzero elements and zeros to a multiple of sixteen bytes; expanding it gives the elements back. -/
def Obligations.SegmentsAreStoredAndExpanded : Prop :=
  (∀ (s : State) (e : Env) (f : FM) (a : Nat),
     let es := (segElem f).1
     let cnt := (segElem f).2
     let seg := segment es (e.segEls f)
     (s.Ready (.stz f) f e → e.L = 0 ∨ e.performed &&& e.L ≠ 0 → e.Sends (.stz f) (tokenOf f) (!f.tv) []) ∧
     (s.Ready (.stz f) f e → e.L ≠ 0 → e.performed &&& e.L = 0 → e.ea f 16 e.l0 = .inl a →
       seg.length ≤ e.src constInt f.b e.l0 → a + seg.length ≤ 2 ^ 57 → e.place 1 seg.length (.inl a) = .inl a →
       let s0 := e.s.gwrite e.wv.ctxn e.w e.l0 a seg
       e.SendsFrom (.stz f) (tokenOf f) (!f.tv) [] [] s0 (e.markPerf e.L (s0.wave e.w))) ∧
     (s.Ready (.ldz f) f e → e.L = 0 → e.Sends (.ldz f) (tokenOf f) (!f.tv) []) ∧
     (s.Ready (.ldz f) f e → e.L ≠ 0 → e.place 0 16 (e.ea f 16 e.l0) = .inl a →
       let hd := e.s.gread e.wv.ctxn e.w e.l0 a 16 e.s.ctr
       let num := fun (o n : Nat) => leNat ((hd.drop o).take n)
       num 4 4 ≤ e.src constInt f.b e.l0 → num 0 2 ≤ 64 → num 2 2 = cnt → num 8 8 < 2 ^ cnt → popN 64 (num 8 8) = num 0 2 →
       num 4 4 = segBytes (num 0 2) es → a + num 4 4 ≤ 2 ^ 57 →
       e.s.rangeFault e.wv.ctxn (a + 16) (num 4 4 - 16) 0 e.wv.core = none →
       let els := expand es (num 8 8) cnt 0 (e.s.gread e.wv.ctxn e.w e.l0 (a + 16) (num 4 4 - 16) (e.s.ctr + 16))
       e.Sent (.ldz f) f (fun l =>
           { regs := e.put f.d 0 l (if es = 2 then els.getD (2 * l) 0 + 65536 * els.getD (2 * l + 1) 0 else els.getD l 0) })
         { e.s with ctr := e.s.ctr + 1024 } e.wv)) ∧
  (∀ (es cnt : Nat) (els : List Nat), (es = 2 ∧ cnt = 64) ∨ (es = 4 ∧ cnt = 32) → els.length = cnt → (∀ x ∈ els, x < 256 ^ es) →
     let seg := segment es els
     let nz := els.filter (· ≠ 0)
     let num := fun (o n : Nat) => leNat ((seg.drop o).take n)
     num 0 2 = nz.length ∧ num 2 2 = cnt ∧ num 4 4 = seg.length ∧ seg.length = segBytes nz.length es ∧
       (∀ i, i < cnt → (num 8 8).testBit i = decide (els.getD i 0 ≠ 0)) ∧ num 8 8 < 2 ^ cnt ∧
       expand es (num 8 8) cnt 0 (seg.drop 16) = els)

/-- R244, R246: an effective address below zero or past 2^57 raises cause 0x40, one that is not a multiple of the access size cause
0x41, before anything is performed; the lowest faulting lane decides, and every lane with that cause is named; a store names those of
its lanes that are not performed yet. R245, R246, R252: so a local access below zero (0x40), with bits that the address has not (0x64),
misaligned (0x41) or past the team's own store (0x60), and a private one outside its range, misaligned, or in a wave that has none (0x43).
R249, R250, R270: in memories of canonical form, a lane's global store within one page changes exactly its bytes, at the cells of the
physical address its translation gives (`State.cellOf`), and they read back; a local store changes exactly its bytes of its team's
store. Going on in the clause, or past its end where no trap is due, changes no memory. -/
def Obligations.AccessesFaultOrChangeOnlyTheirBytes : Prop :=
  (∀ (s : State) (e : Env) (f : FM) (i : Instr) (acc n : Nat) (L : LaneMask) (l : Nat),
     (i, acc, n, L) ∈ [(Instr.ld f, 0, sizeOf8 (f.mod.toNat % 8), e.L), (.ldc f, 0, sizeOf8 (f.mod.toNat % 8), e.L),
       (.st f, 1, sizeOf8 (f.mod.toNat % 8), e.todo), (.atom f, 2, atomWidth f.mod.toNat, e.L),
       (.acas f, 2, if f.mod.getLsbD 0 then 8 else 4, e.L)] →
     s.Room i f e →
     let ea : Nat → Int := fun k => (e.src64 f.a k : Int) + f.offset * n
     let out := fun k => ea k < 0 ∨ 2 ^ 57 < ea k + n
     let odd := fun k => ¬ out k ∧ ea k % n ≠ 0
     inMask L l = true → (∀ k, k < l → inMask L k = true → ∃ va, e.place acc n (e.ea f n k) = .inl va) →
     (out l → ∃ m : LaneMask, e.Faults i 0x40 m (BitVec.ofInt 64 (ea l)) ∧ ∀ k, k < 32 → (m.getLsbD k = true ↔ inMask L k = true ∧ out k)) ∧
     (odd l → ∃ m : LaneMask, e.Faults i 0x41 m (BitVec.ofInt 64 (ea l)) ∧ ∀ k, k < 32 → (m.getLsbD k = true ↔ inMask L k = true ∧ odd k))) ∧
  (∀ (s : State) (e : Env) (f : FM) (l : Nat),
     let m8 := sizeOf8 (f.mod.toNat % 8)
     let faults := fun (i : Instr) (n : Nat) (L : LaneMask) (reach : Nat → LPlace ⊕ LaneFault) =>
       let ea : Nat → Int := fun k => (e.src constInt f.a k : Int) + f.offset * n
       let own := fun k => 0 ≤ ea k ∧ ea k < 2 ^ 18
       let far := fun k => 0 ≤ ea k ∧ (2 ^ 23 ≤ ea k ∨ ea k % 2 ^ 23 < 2 ^ 22 ∧ ¬ own k)
       let odd := fun k => ∃ p, e.localAt (ea k) false = .inl p ∧ p.off % n ≠ 0
       let named := fun (c : Nat) (bad : Nat → Prop) => ∃ m : LaneMask, e.Faults i c m (BitVec.ofInt 64 (ea l)) ∧
         ∀ k, k < 32 → (m.getLsbD k = true ↔ inMask L k = true ∧ bad k)
       s.Room i f e → inMask L l = true → (∀ k, k < l → inMask L k = true → ∃ p, reach k = .inl p) →
         (ea l < 0 → named 0x40 fun k => ea k < 0) ∧ (far l → named 0x64 far) ∧ (odd l → named 0x41 odd) ∧
         (own l → e.team.loc.size ≤ (ea l).toNat →
           ∃ m : LaneMask, m.getLsbD l = true ∧ e.Faults i 0x60 m (BitVec.ofInt 64 (ea l)))
     faults (.ldl f) m8 e.L (e.loadPlace f false m8) ∧ faults (.ldlw f) m8 e.L (e.loadPlace f true m8) ∧
       faults (.stl f) m8 e.todo (e.storePlace f m8) ∧ faults (.atoml f) (atomWidth f.mod.toNat) e.L (e.atomPlace f (atomWidth f.mod.toNat)) ∧
       faults (.acasl f) (if f.mod.getLsbD 0 then 8 else 4) e.L (e.atomPlace f (if f.mod.getLsbD 0 then 8 else 4)) ∧
     ∀ (i : Instr) (acc : Nat) (L : LaneMask), (i, acc, L) ∈ [(.ldp f, 0, e.L), (.stp f, 1, e.todo)] → s.Room i f e →
       let ea : Nat → Int := fun k => (e.src constInt f.a k : Int) + f.offset * m8
       let g := e.s.gridOf e.team
       let bad := fun k => e.wv.berth ≠ none ∨ g.privSize = 0 ∨ g.entry.waves ≤ e.wv.rank ∨ ea k < 0 ∨ g.privSize < ea k + m8 ∨ ea k % m8 ≠ 0
       inMask L l = true → (∀ k, k < l → inMask L k = true → ∃ o, e.privPlace f acc m8 k = .inl o) → bad l →
       ∃ m : LaneMask, e.Faults i 0x43 m (BitVec.ofInt 64 (ea l)) ∧ ∀ k, k < 32 → (m.getLsbD k = true ↔ inMask L k = true ∧ bad k)) ∧
  ((∀ (s : State) (c w l va : Nat) (bs : List Byte) (sys : Bool) (a : Nat), s.memOk → bs.length ≤ 0x1000 - va % 0x1000 →
     (∀ pa page, s.translate c va 1 ((s.wave w).agent l) = .ok sys pa page →
       ¬ (s.cellOf sys pa ≤ s.cellOf sys a ∧ s.cellOf sys a < s.cellOf sys pa + bs.length)) →
     (s.gwrite c w l va bs).pread sys a 1 = s.pread sys a 1) ∧
   (∀ (s : State) (c w l va : Nat) (bs : List Byte) (sys : Bool) (pa : Nat) (page : TlbEnt), s.memOk → bs.length ≤ 0x1000 - va % 0x1000 →
     s.translate c va 1 ((s.wave w).agent l) = .ok sys pa page → (s.gwrite c w l va bs).pread sys pa bs.length = bs) ∧
   (∀ (s : State) (p : LPlace) (bs : List Byte) (t a : Nat), Memory.wf (s.loc p.team).data = true → ¬ (t = p.team ∧ p.off ≤ a ∧ a < p.off + bs.length) →
     ((s.lwrite p bs).loc t).read a 1 = (s.loc t).read a 1) ∧
   (∀ (s : State) (p : LPlace) (bs : List Byte), Memory.wf (s.loc p.team).data = true → (mget s.teams p.team).isSome = true →
     ((s.lwrite p bs).loc p.team).read p.off bs.length = bs) ∧
   (∀ (e : Env) (u : State) (v : Wave) (c : Clause), mget u.waves e.w = some v → v.clause = some c → c.cond = none →
     v.dbg.stepPending = false → v.dbg.ctl.getLsbD 0 = false → (e.done u).mem = u.mem ∧ (e.done u).hostMem = u.hostMem))

/-! ## Tags, counters, futures, barriers (R301 to R312) -/

/-- R301: TAG makes each active lane's line FULL or EMPTY, with OVF kept or cleared; TAGQ lands its tag and OVF. R309: ACINIT stores
a threshold and clears the sum and the skip count; ACADD adds to the sum or the skip count, lowest lane first, and lands each lane's
saturated total (with no reduction open there, one lane's bytes are added, saturating, and the threshold stays); ACWAIT lands the sum of
counters that are done. -/
def Obligations.TagsAndArrivalCounters : Prop :=
  (∀ (s : State) (e : Env) (f : FM) (p : Nat → LPlace),
     (s.Ready (.tag f) f e → (∀ l, inMask e.todo l = true → e.tagSet f l = .inl (p l)) →
       e.Sent (.tag f) f (fun _ => {}) ((lanesOf e.todo).foldl (fun u l =>
           (u.pin (p l).team ((p l).off / 8192)).updTeam (p l).team fun x =>
             let t : LineTag := { tag := if f.mod.getLsbD 1 then .full else .empty, owner := 0,
                                  ovf := (x.loc.tagAt ((p l).off / 128)).ovf && !f.mod.getLsbD 2 }
             { x with loc := x.loc.setTag ((p l).off / 128) t }) e.s) (e.markPerf e.todo e.wv)) ∧
     (s.Ready (.tagq f) f e → (∀ l, inMask e.L l = true → e.tagPlace f l = .inl (p l)) →
       e.Sent (.tagq f) f (fun l =>
           let t := (e.s.loc (p l).team).tagAt ((p l).off / 128)
           { regs := e.put f.d 0 l (t.tag.code + 4 * bn t.ovf) })
         ((lanesOf e.L).foldl (fun u l => u.pin (p l).team ((p l).off / 8192)) e.s) e.wv)) ∧
  (∀ (s : State) (e : Env) (f : FM) (p : Nat → LPlace),
     (s.Ready (.acinit f) f e → (∀ l, inMask e.todo l = true → e.atomPlace f 16 l = .inl (p l)) →
       e.Sent (.acinit f) f (fun _ => {}) ((lanesOf e.todo).foldl (fun u l => u.onCounter (p l).team (p l).off fun lo =>
           lo.write (p l).off (leBytes 4 (e.src constInt f.b l) ++ leBytes 8 0)) e.s) (e.markPerf e.todo e.wv)) ∧
     (s.Ready (.acadd f) f e → (∀ l, inMask e.L l = true → e.atomPlace f 16 l = .inl (p l)) →
       let r := acaddRun (f.mod.getLsbD 0) (e.src constInt f.b) ((lanesOf e.L).map fun l => (l, p l)) e.s
       e.Sent (.acadd f) f (fun l => { regs := e.put f.d 0 l ((mget r.1 l).getD 0) }) r.2 e.wv) ∧
     (s.Ready (.acwait f) f e →
       (∀ l, inMask e.L l = true → e.waitPlace f l = .inl (p l) ∧ (e.s.loc (p l).team).ctrDone (p l).off = true) →
       e.Sent (.acwait f) f (fun l => { regs := e.put f.d 0 l ((e.s.loc (p l).team).ctrWord (p l).off 1) })
         ((lanesOf e.L).foldl (fun u l => u.pin (p l).team ((p l).off / 8192)) e.s) e.wv)) ∧
  (∀ (s : State) (skip : Bool) (l x : Nat) (p : LPlace), (mget s.teams p.team).isSome = true → (s.loc p.team).sums = [] →
     Memory.wf (s.loc p.team).data = true →
     let r := acaddRun skip (fun _ => x) [(l, p)] s
     let old := (s.loc p.team).ctrWord p.off
     let new := (r.2.loc p.team).ctrWord p.off
     new 0 = old 0 ∧ new 1 = min 0xFFFFFFFF (old 1 + if skip then 0 else x) ∧
       new 2 = min 0xFFFFFFFF (old 2 + if skip then x else 0) ∧ r.1 = [(l, min 0xFFFFFFFF (new 1 + new 2))])

/-- R311: FPUT fills EMPTY futures, lowest lane first, and lands 0x10000000 where it found one FULL (with TRAP it also raises cause
0x6E after completion); FGET takes FULL futures that no earlier FGET waits for; FTRY takes or clears its predicate. R310, R311: one
lane's FPUT of a value to an EMPTY future makes it FULL with that value; taking it gives the value back and leaves it EMPTY. Where an
FGET of a team on its core waits there first, its PARK_RELEASE after the FPUT takes the value, which goes to its registers under its
token, and leaves the future EMPTY; one behind another waiter takes nothing; of a team that is parked, the value stays in the cell and
the team becomes runnable. -/
def Obligations.FuturesAreFilledTakenAndHandedOver : Prop :=
  (∀ (s : State) (e : Env) (f : FM) (p : Nat → LPlace),
     let ps := (lanesOf e.L).map fun l => (l, p l)
     let reach := ∀ l, inMask e.L l = true → e.futurePlace f l = .inl (p l)
     (s.Ready (.fput f) f e → reach →
       let r := fputRun e f ps e.s
       let out := fun l => ({ regs := e.put f.d 0 l (if r.1.contains l then 0x10000000 else 0) } : LaneOut)
       (r.1 = [] ∨ f.mod.getLsbD 0 = false → e.Sent (.fput f) f out r.2 e.wv) ∧
       (∀ l t, r.1 = l :: t → f.mod.getLsbD 0 = true → e.Sent (.fput f) f out r.2 (e.wv.after
         { cause := 0x6E, lanes := maskOf r.1.contains, addr := e.localEa f 16 l, info := BitVec.ofNat 32 e.cl.idx, after := true }))) ∧
     (s.Ready (.fget f) f e → reach →
       let r := fgetRun e.s.key 0 ps e.s
       r.2.1 = [] → e.Sent (.fget f) f (fun l => match mget r.1 l with
         | some ws => { regs := e.putWords f.d 2 l ws }
         | none => {}) r.2.2 e.wv) ∧
     (s.Ready (.ftry f) f e → reach →
       let r := ftryRun ps e.s
       e.Sent (.ftry f) f (fun l => match mget r.1 l with
         | some v => { regs := e.put64 f.d l v ++ putP (f.mod.toNat % 8) l true }
         | none => { regs := putP (f.mod.toNat % 8) l false }) r.2 e.wv)) ∧
  (∀ (s : State) (e : Env) (f : FM) (l : Nat) (p : LPlace), (mget s.teams p.team).isSome = true →
     Memory.wf (s.loc p.team).data = true → s.futureState p = 0 →
     let t := (fputRun e f [(l, p)] s).2
     let x := e.src64 f.b l % 2 ^ 64
     (fputRun e f [(l, p)] s).1 = [] ∧ t.futureFull p = true ∧ (t.futureTake p).1 = x ∧ ((t.futureTake p).2).futureState p = 0 ∧
     ∀ (w i m : Nat) (v : Wave) (k : Park) (g : FM), mget s.waves w = some v → v.parks[i]? = some k → k.instr = .fget g →
       k.lanes = [(m, parkLane p 0)] → k.flags = [] → inMask (v.waiting Park.orders i) m = false → (s.ctx v.ctxn).runs = true →
       s.ownFault p 16 0 = none →
       ((s.teamOf v).onCore = true → s.futureQueued k.seq p = false → ∃ (u : State) (y : Wave),
         exec (.parkRelease w i) t = .next (u.boundaryAt false w) ∧ u.futureState p = 0 ∧ mget u.waves w = some y ∧
         y.parks = v.parks.eraseIdx i ∧ y.flights = v.flights ++ [{
           tok := k.tok, hold := k.hold, writes := k.results { lanes := [(m, [x % 2 ^ 32, x / 2 ^ 32])] }, flags := [] }]) ∧
       (s.futureQueued k.seq p = true → exec (.parkRelease w i) t = .next t) ∧
       ((s.teamOf v).onCore = false → s.futureQueued k.seq p = false → exec (.parkRelease w i) t = .next (t.markRunnable v.team)))

/-- R50, R251, R309, R311: an operation whose lanes all wait (for a line, a counter or a future, or behind a waiting operation of the
lane, R231, R235) parks with their places and the values it captured; nothing lands, and the clause goes on. Where only some lanes of
a global or private store, of a TAG, of an ACINIT or of a SIGNAL are behind another, all of them park. R49: an instruction whose token counts 63 is held
before it issues, with the quadrant free. R231, R233: so is, behind waiting operations of its lanes, one that releases, and one whose
faults depend on what it reads (the model's form of the order, log 125). -/
def Obligations.WaitingOperationsPark : Prop :=
  (∀ (s : State) (e : Env) (f : FM) (p : Nat → LPlace), e.L ≠ 0 →
     let ls := (lanesOf e.L).map fun l => (l, parkLane (p l) 0)
     let slots := fun n => (lanesOf e.L).flatMap fun l => e.slots f.d n l
     let n := sizeOf8 (f.mod.toNat % 8)
     let pinned := (lanesOf e.L).foldl (fun u l => u.pinRange (p l).team (p l).off n) e.s
     let waits := fun (w : Bool) => ∀ l, inMask e.L l = true →
       e.loadPlace f w n l = .inl (p l) ∧ e.s.inFifo (p l) = false ∧ (e.s.loadWaits w (p l) = true ∨ inMask e.behind l = true)
     (s.Room (.ldl f) f e → waits false →
       e.Parks (.ldl f) f ls (slots (regsOf8 (f.mod.toNat % 8))) { pinned with ctr := e.s.ctr + 1024 }) ∧
     (s.Room (.ldlw f) f e → waits true →
       e.Parks (.ldlw f) f ls (slots (regsOf8 (f.mod.toNat % 8))) { pinned with ctr := e.s.ctr + 1024 }) ∧
     (s.Room (.acwait f) f e →
       (∀ l, inMask e.L l = true → e.waitPlace f l = .inl (p l) ∧
         ((e.s.loc (p l).team).ctrDone (p l).off = false ∨ inMask e.behind l = true)) →
       e.Parks (.acwait f) f ls (slots 1) ((lanesOf e.L).foldl (fun u l => u.pin (p l).team ((p l).off / 8192)) e.s)) ∧
     (s.Room (.fget f) f e → (∀ l, inMask e.L l = true → e.futurePlace f l = .inl (p l) ∧
         (e.s.futureFull (p l) = false ∨ e.s.futureQueued e.s.key (p l) = true ∨ inMask e.behind l = true)) →
       e.Parks (.fget f) f ls (slots 2) e.s)) ∧
  (∀ (s : State) (e : Env) (f : FM) (va : Nat → Nat) (p : Nat → LPlace), e.behind ≠ 0 →
     let n := sizeOf8 (f.mod.toNat % 8)
     let some_ := e.behind &&& e.todo ≠ 0
     let keeps := fun (m : LaneMask) (g : Nat → List Nat) => (lanesOf m).map fun l => (l, g l)
     let lands := fun (g : Nat → List RegWrite) => (lanesOf e.L).flatMap g
     let reach := fun acc k => ∀ l, inMask e.L l = true → e.place acc k (e.ea f k l) = .inl (va l) ∧ e.wv.watched (va l) (acc != 1) (acc != 0) = none
     let glob := fun (i : Instr) (cas : Bool) (k : Nat) => s.Room i f e → reach 2 k →
       e.Parks i f (keeps e.L fun l => e.heldAt 2 (va l) (e.rmwArgs f cas l)) (lands (e.rmwDst f k)) e.s
     let loc := fun (i : Instr) (cas : Bool) (k : Nat) => s.Room i f e → (∀ l, inMask e.L l = true → e.atomPlace f k l = .inl (p l)) →
       e.Parks i f (keeps e.L fun l => (p l).team :: (p l).off :: e.rmwArgs f cas l) (lands (e.rmwDst f k)) e.s
     (s.Room (.ld f) f e → reach 0 n →
       e.Parks (.ld f) f (keeps e.L fun l => e.heldAt 0 (va l) []) (lands fun l => e.slots f.d (regsOf8 (f.mod.toNat % 8)) l) e.s) ∧
     (s.Room (.st f) f e → reach 1 n → some_ →
       e.Parks (.st f) f (keeps e.todo fun l => e.heldAt 1 (va l) [leNat (e.stored f.d (f.mod.toNat % 8) l)]) [] e.s
         (e.markPerf e.todo e.wv)) ∧
     (s.Room (.ldp f) f e → (∀ l, inMask e.L l = true → e.privPlace f 0 n l = .inl (va l)) →
       e.Parks (.ldp f) f (keeps e.L fun l => [va l]) (lands fun l => e.slots f.d (regsOf8 (f.mod.toNat % 8)) l) e.s) ∧
     (s.Room (.stp f) f e → (∀ l, inMask e.todo l = true → e.privPlace f 1 n l = .inl (va l)) → some_ →
       e.Parks (.stp f) f (keeps e.todo fun l => [va l, leNat (e.stored f.d (f.mod.toNat % 8) l)]) [] e.s (e.markPerf e.todo e.wv)) ∧
     (s.Room (.signal f) f e → (f.mod.getLsbD 2 = true → e.badQueue f = 0) → some_ →
       let acc := if f.mod.toNat % 4 = 0 then 1 else 2
       (∀ l, inMask e.todo l = true → e.place acc 8 (e.ea f 8 l) = .inl (va l)) →
       e.Parks (.signal f) f (keeps e.todo fun l => e.heldAt acc (va l) [e.src64 f.d l, e.src constInt f.b l]) [] e.s
         (e.markPerf e.todo e.wv)) ∧
     (s.Room (.tag f) f e → (∀ l, inMask e.todo l = true → e.tagSet f l = .inl (p l)) → some_ →
       e.Parks (.tag f) f (keeps e.todo fun l => parkLane (p l) 0) [] e.s (e.markPerf e.todo e.wv)) ∧
     (s.Room (.tagq f) f e → (∀ l, inMask e.L l = true → e.tagPlace f l = .inl (p l)) →
       e.Parks (.tagq f) f (keeps e.L fun l => parkLane (p l) 0) (lands fun l => e.slots f.d 1 l) e.s) ∧
     (s.Room (.acinit f) f e → (∀ l, inMask e.todo l = true → e.atomPlace f 16 l = .inl (p l)) → some_ →
       e.Parks (.acinit f) f (keeps e.todo fun l => parkLane (p l) (e.src constInt f.b l)) [] e.s (e.markPerf e.todo e.wv)) ∧
     (s.Room (.acadd f) f e → (∀ l, inMask e.L l = true → e.atomPlace f 16 l = .inl (p l)) →
       e.Parks (.acadd f) f (keeps e.L fun l => parkLane (p l) (e.src constInt f.b l)) (lands fun l => e.slots f.d 1 l) e.s) ∧
     (s.Room (.stl f) f e → e.todo ≠ 0 →
       (∀ l, inMask e.todo l = true → e.storePlace f n l = .inl (p l) ∧ e.s.inFifo (p l) = false ∧ inMask e.behind l = true) →
       e.Parks (.stl f) f (keeps e.todo fun l => parkLane (p l) (leNat (e.stored f.d (f.mod.toNat % 8) l))) [] e.s
         (e.markPerf e.todo e.wv)) ∧
     glob (.atom f) false (atomWidth f.mod.toNat) ∧ glob (.acas f) true (if f.mod.getLsbD 0 then 8 else 4) ∧
     loc (.atoml f) false (atomWidth f.mod.toNat) ∧ loc (.acasl f) true (if f.mod.getLsbD 0 then 8 else 4) ∧
     (s.Room (.fence f) f e → e.Waits (.fence f) (tokenOf f) 0 (keeps e.behind fun _ => []) [] e.s e.wv)) ∧
  (∀ (s : State) (e : Env),
     let held := fun (i : Instr) => exec i s = .next { s with cur := 0 }
     (∀ (f : FM) (i : Instr), begin_ s f.pred = some e → e.full (tokenOf f) = true →
       i ∈ [.ld f, .st f, .ldl f, .stl f, .ldlw f, .ldp f, .stp f, .ldc f, .atom f, .acas f, .atoml f, .acasl f, .fence f, .pref f, .cctl f,
         .ldz f, .stz f, .fput f, .fget f, .ftry f, .tag f, .tagq f, .acinit f, .acadd f, .acwait f, .pbind f, .pld f, .pldx f, .pst f,
         .pstp f, .pqry f, .signal f] → held i) ∧
     (∀ (f : FE) (i : Instr), begin_ s f.pred = some e → e.full (some f.mod.toNat) = true →
       i ∈ [.lcopy f, .lcopyo f, .tcopy f, .tcopyo f, .tred f, .tex f, .texf f, .dock f, .rtrace f, .renq f, .rretire f, .rld f, .rst f,
         .rhit f, .rkey f, .racc f, .rstat f, .shld f, .shset f, .shget f, .mxgemm f, .mxconv f, .mxelt f, .mxlda f, .mxsta f, .mxwait f,
         .mxqry f, .measure f] → held i) ∧
     (∀ (f : F3) (i : Instr), begin_ s f.pred = some e → e.full (some f.mod.toNat) = true →
       i ∈ [.rcp f, .rsq f, .sqrt f, .exp2 f, .log2 f, .sincy f, .coscy f, .tanh f, .sigm f, .drcp f, .drsq f, .mmaF16 f, .mmaBf16 f,
         .mmaE4 f, .mmaE5 f, .mmaZb8 f, .mmaZb5 f, .mmaZb3 f, .mmaI8 f] → held i) ∧
     (∀ (f : FM) (i : Instr), begin_ s f.pred = some e → e.behind ≠ 0 → i ∈ [.ldz f, .fput f, .ftry f] → held i) ∧
     (∀ (f : FE) (i : Instr), begin_ s f.pred = some e → e.behind ≠ 0 →
       i ∈ [.tex f, .texf f, .lcopy f, .lcopyo f, .tcopy f, .tcopyo f, .tred f, .dock f, .rtrace f, .renq f, .rretire f, .rhit f, .mxgemm f,
         .mxconv f, .mxelt f, .mxlda f, .mxsta f, .measure f] → held i) ∧
     (∀ (f : F3) (i : Instr), begin_ s f.pred = some e → e.behind ≠ 0 → i ∈ [.spawn f, .launch f] → held i))

/-- R303, R305 to R307: BAR and BARG end their clause at the barrier; in a berth they raise cause 0x2D, and BARG outside a gang
0x6D; ELECT names the lowest active lane, of every wave or of the team's lowest live wave alone. One with no active lane is log 61. -/
def Obligations.BarriersAndElection : Prop :=
  ∀ (s : State) (e : Env),
    let ends := fun (b : Block) => { e.wv with clause := some { e.cl with ends := some b } }
    (∀ f : FI, s.AtHand (.bar f) e → e.L ≠ 0 → e.wv.berth = none → e.Gives (.bar f) e.s (ends (.bar f.imm.toNat))) ∧
    (∀ f : FI, s.AtHand (.bar f) e → e.L ≠ 0 → e.wv.berth ≠ none → e.Faults (.bar f) 0x2D e.L) ∧
    (∀ f : FI, s.AtHand (.barg f) e → e.L ≠ 0 → e.wv.berth = none → e.team.gang ≠ none →
      e.Gives (.barg f) e.s (ends (.barg f.imm.toNat))) ∧
    (∀ f : FI, s.AtHand (.barg f) e → e.L ≠ 0 → e.wv.berth ≠ none → e.Faults (.barg f) 0x2D e.L) ∧
    (∀ f : FI, s.AtHand (.barg f) e → e.L ≠ 0 → e.wv.berth = none → e.team.gang = none → e.Faults (.barg f) 0x6D e.L) ∧
    (∀ f : F3, s.AtHand (.elect f) e →
      let elig := f.mod.getLsbD 3 = true → ∀ k ∈ e.s.liveWaves e.wv.team, e.wv.rank ≤ (e.s.wave k).rank
      (elig → e.SetsP (.elect f) f.d (fun _ => e.l0) (f.mod.toNat % 8) fun l => decide (l = e.l0)) ∧
      (¬ elig → e.SetsP (.elect f) f.d (fun _ => 0xFFFFFFFF) (f.mod.toNat % 8) fun _ => false))

/-! ## Copies, images, planes (R264 to R269, R287 to R300, R313 to R335) -/

/-- R294 to R300: a copy of active lanes whose addresses, lines and counter are in order becomes a job with the bytes read now, its
lines FILLING (LCOPY) or DRAINING (LCOPYO, TCOPYO, TRED), counted on its token. With no active lane, or for TCOPY and TRED with no
core named, there is no job: the status 0x80000000 lands. Which lane and cause a fault names, the alignments, the fields above the
descriptor, a FIFO window of a receiver and a berth's own copy are logs 45, 46, 47, 135 and 150; the bytes of an odd tile log 42. -/
def Obligations.CopiesStartAsJobs : Prop :=
  ∀ (s : State) (e : Env) (f : FE), e.full (some (feTok f)) = false → e.settled →
    let t := some (feTok f)
    let none_ := fun (i : Instr) => e.Sends i t false ((lanesOf e.L).flatMap fun l => e.put f.d 0 l 0x80000000)
    let sh := shapeOf (e.shapeReg (feBits f 3 0))
    let n := prod sh.boxes
    let d := e.tileDest f.b e.l0
    (s.AtHand (.lcopy f) e → e.L = 0 → none_ (.lcopy f)) ∧
    (s.AtHand (.lcopyo f) e → e.L = 0 → none_ (.lcopyo f)) ∧
    (s.AtHand (.tcopyo f) e → e.L = 0 → none_ (.tcopyo f)) ∧
    (s.AtHand (.tcopy f) e → e.L = 0 ∨ (d.ok = true ∧ d.named = []) → none_ (.tcopy f)) ∧
    (s.AtHand (.tred f) e → e.L = 0 ∨ (d.ok = true ∧ d.named = []) → none_ (.tred f)) ∧
    (∀ (g o : Nat → Nat) (c : Nat), s.AtHand (.lcopy f) e → e.L ≠ 0 →
      (∀ l, inMask e.L l = true → e.lcPlace false f l = .inl (g l, o l)) →
      (f.imm.getLsbD 3 = true → e.counterAt (e.src constInt f.c e.l0) = .inl c) →
      e.Starts (.lcopy f) { (e.job .lcopy f) with
        chunks := (lanesOf e.L).map fun l =>
          byteChunk (o l) (e.s.readAs e.lighter e.wv.ctxn e.w l (g l) (lcopySize f) (e.s.ctr + 32 * l))
        lines := dedup ((lanesOf e.L).map fun l => o l / 128)
        ctr := if f.imm.getLsbD 3 then some c else none
        land := lcopySize f * (lanesOf e.L).length } (some .filling) 1024) ∧
    (∀ (g o : Nat → Nat), s.AtHand (.lcopyo f) e → e.L ≠ 0 →
      (∀ l, inMask e.L l = true → e.lcPlace true f l = .inl (g l, o l)) →
      e.Starts (.lcopyo f) { (e.job .lcopyo f) with
        chunks := (lanesOf e.L).map fun l =>
          e.toGlobal (byteChunk (g l) (e.s.lread { team := e.wv.team, off := o l } (lcopySize f) (e.s.ctr + 32 * l)))
        lines := dedup ((lanesOf e.L).map fun l => o l / 128)
        consume := f.imm.getLsbD 2
        land := lcopySize f * (lanesOf e.L).length } (some .draining) 1024) ∧
    (∀ ps, s.AtHand (.tcopy f) e → e.L ≠ 0 → ¬ (d.ok = true ∧ d.named = []) → e.destFault d (f.imm.getLsbD 4) (extent sh.fmt d.off n) = none →
      e.tilePieces sh d.off (e.tileOrg f.a e.l0) 0 = .inl ps →
      e.Starts (.tcopy f) { (e.job .tcopy f) with
        chunks := ps.map fun p =>
          bitChunk p.here p.n (readBits (fun a k => e.s.readAs e.lighter e.wv.ctxn e.w e.l0 a k (e.s.ctr + p.here)) p.there p.n)
        off := d.off, ext := extent sh.fmt d.off n, ctr := if f.imm.getLsbD 4 then some d.ctr else none
        group := some d.group, cores := d.named, land := tileBytes sh.fmt n, skip := tileBytes sh.fmt n - pieceBytes ps
        oob := decide (pieceBytes ps < tileBytes sh.fmt n) } none (8 * extent sh.fmt d.off n)) ∧
    (∀ ps, s.AtHand (.tcopyo f) e → e.L ≠ 0 →
      let o := e.src constInt f.b e.l0
      e.tilePieces sh o (e.tileOrg f.a e.l0) 1 = .inl ps → e.tileSource o (extent sh.fmt o n) = none →
      e.Starts (.tcopyo f) { (e.job .tcopyo f) with
        chunks := ps.map fun p => e.toGlobal (bitChunk p.there p.n
          (readBits (fun a k => e.s.lread { team := e.wv.team, off := o + a } k (e.s.ctr + a)) p.here p.n))
        lines := linesOf o (extent sh.fmt o n), consume := f.imm.getLsbD 8, land := tileBytes sh.fmt n
        skip := tileBytes sh.fmt n - pieceBytes ps, oob := decide (pieceBytes ps < tileBytes sh.fmt n) } (some .draining) (extent sh.fmt o n)) ∧
    (s.AtHand (.tred f) e → e.L ≠ 0 → ¬ (d.ok = true ∧ d.named = []) →
      let m := prod sh.box
      let w := tredWidth f
      e.destFault d true (m * w) = none →
      let o := e.src constInt f.c e.l0
      m * w ≤ 65536 → d.off + m * w ≤ e.team.loc.size → e.tileSource o (m * w) = none →
      e.Starts (.tred f) { (e.job (.tred (feBits f 11 9)) f) with
        vals := (List.range m).map fun i => leNat (e.s.lread { team := e.wv.team, off := o + i * w } w (e.s.ctr + i * w))
        off := d.off, ext := m * w, lines := linesOf o (m * w), consume := f.imm.getLsbD 8, ctr := some d.ctr
        group := some d.group, cores := d.named, land := m * w } (some .draining) (m * w))

/-- R291, R295, R298, R299, R308: a copy's bytes land, its lines turn FULL or return, its counter follows, in either order where
they overlap; a tile reaches each receiver on the lines that may take it, which turn FILLING when the arrival begins and FULL when it
ends (two events, log 48; landed bits make whole bytes, rounded down, log 42); the job ends with its status under its token, UNDELIV for
a named core outside the partition or with no receiver. BYTES beyond 25 bits is log 151, a line that the same group fills otherwise log 152. A copy waits
while its Lighter is under test (R445, log 162). -/
def Obligations.CopiesLandAndComplete : Prop :=
  ∀ (s : State) (k : Nat) (j : CopyJob), mget s.copies k = some j →
    let full := fun (ns : List Nat) (lo : Local) => ns.foldl (fun lo n => lo.setTag n { (lo.tagAt n) with tag := .full, owner := 0 }) lo
    let count := fun (t land skip : Nat) (u : State) => (j.ctr.map fun c => u.onCounter t c fun lo => lo.ctrAdd c land skip).getD u
    let stored := (j.chunks.foldl (fun u c => u.gchunk j.ctx j.wave c) s).returnLines j
    (∀ st v, mget s.waves j.wave = some v → ∃ x : Wave,
      s.endJob k j st = (({ s with copies := mdel s.copies k } : State).updWave j.wave fun _ => x).settleTeam j.team ∧
      (∀ n, x.wk.getD n 0 = if n = j.tok then v.wk.getD n 0 - 1 else v.wk.getD n 0) ∧
      ∀ r, j.dst = [r] → r.file = .v → r.lane < v.lanes.length → r.reg < (v.lane r.lane).v.length →
        (x.lane r.lane).v.getD r.reg 0 = BitVec.ofNat 32 st) ∧
    (j.kind = .lcopy → s.lighterTested j = false → (∀ c, j.ctr = some c → s.rangeReady j.team c 16 = true) → ∃ u : State,
      let put := fun (y : State) => y.updTeam j.team fun x =>
        { x with loc := full j.lines (j.chunks.foldl (fun lo c => lo.chunk 0 (fun _ => true) c) x.loc) }
      (u = put (count j.team j.land 0 s.tick) ∨ u = count j.team j.land 0 (put s.tick)) ∧
      exec (.lcopyComplete k) s = .next (u.endJob k { j with bytes := j.land } (0x80000000 + j.land))) ∧
    (j.kind = .lcopyo → s.lighterTested j = false → j.gone s = none → exec (.lcopyoComplete k) s = .next (stored.endJob k j (0x80000000 + j.land))) ∧
    (j.kind = .tcopyo → j.moved = false → s.lighterTested j = false → j.gone s = none →
      exec (.tcopyoComplete k) s = .next { stored with copies := mset stored.copies k { j with moved := true, bytes := j.land - j.skip } }) ∧
    (∀ t tm, j.kind = .tcopy → s.canArrive k j t = true → mget s.teams t = some tm → mget j.opened t = none →
      let free := (linesOf j.off j.ext).filter tm.lineFree
      let s1 := (s.pinRange t j.off j.ext).updTeam t fun x => { x with
        loc := free.foldl (fun lo n => lo.setTag n { (lo.tagAt n) with tag := .filling, owner := 2 * k }) x.loc }
      exec (.tcopyArrival k t) s = .next { s1 with copies := mset s.copies k { j with opened := mset j.opened t free } }) ∧
    (∀ t tm free, j.kind = .tcopy → s.canArrive k j t = true → mget s.teams t = some tm → mget j.opened t = some free →
      let ok := fun n => free.contains n
      let land := (j.chunks.foldl (fun a c => a + c.bitsOn j.off ok) 0) / 8
      let put := fun (y : State) => y.updTeam t fun x => { x with loc := full free (j.chunks.foldl (fun lo c => lo.chunk j.off ok c) x.loc) }
      ∃ u : State, (u = put (count t land (j.land - land) s.tick) ∨ u = count t land (j.land - land) (put s.tick)) ∧
        exec (.tcopyArrival k t) s = .next (u.arrive k j t land (free.length != (linesOf j.off j.ext).length))) ∧
    (∀ t tm ty, j.kind = .tred ty → s.canArrive k j t = true → mget s.teams t = some tm →
      let w := if ty = 0 then 4 else 8
      let g := j.group.getD 0
      let c := j.ctr.getD 0
      let x := (tm.loc.sumSlot g j.off w (ty == 2)).getD { group := g, off := j.off, width := w, fx := ty == 2, ctr := c, sums := [] }
      let free := (linesOf j.off j.ext).filter (tm.sumLine x)
      let ok := fun n => free.contains n
      let land := w * ((List.range j.vals.length).filter fun i => ok (x.line i)).length
      ∃ (u : State) (m : Team), mget u.teams t = some m ∧ { (x.add tm.loc ok j.vals) with ctr := c } ∈ m.loc.sums ∧
        (∀ n ∈ free, (m.loc.tagAt n).tag = .filling ∧ (m.loc.tagAt n).owner = sumOwner g) ∧
        exec (.tredArrival k t) s = .next ((u.onCounter t c fun lo => lo.ctrAdd c land (j.land - land)).arrive k j t land
          (free.length != (linesOf j.off j.ext).length))) ∧
    (s.undelivered j = true ↔ ∃ c ∈ j.cores, c ∉ j.served ∨ s.dev.coreIn ((mget s.teams j.team).getD default).part c = false) ∧
    (s.canAck k j = true → (∃ ty, j.kind = .tred ty) →
      exec (.tileTransferAcknowledged k) s = .next ((s.returnLines j).endJob k j (j.status (s.undelivered j)))) ∧
    (s.canAck k j = true → j.kind = .tcopy ∨ j.kind = .tcopyo →
      exec (.tileTransferAcknowledged k) s = .next (s.endJob k j (j.status (s.undelivered j))))

/-- R267 to R269: an image read lands four channels a lane under its token. TEXF's are the texel's at the signed coordinates of the
level that C names, decoded by its format, or zeros outside the level and past the last one. TEX's are the weighted sums of the taps
of its levels, or four NaNs where a coordinate or λ is no number; the weights of an axis, of a level and of the levels each sum to one
(256 per factor), and the nearest filter has one tap. -/
def Obligations.ImageReadsLandFourChannels : Prop :=
  (∀ (s : State) (e : Env) (f : FE) (r : Nat → List Nat), e.full (some f.mod.toNat) = false → e.behind = 0 →
    let lands := fun (i : Instr) => e.SendsFrom i (some f.mod.toNat) false
      ((lanesOf e.L).flatMap fun l => (List.range 4).flatMap fun k => e.put f.d k l ((r l).getD k 0)) []
      { e.s with ctr := e.s.ctr + 4096 } e.wv
    (s.AtHand (.tex f) e → (∀ l, inMask e.L l = true → e.texLane f (e.s.ctr + 128 * l) l = .inl (r l)) → lands (.tex f)) ∧
    (s.AtHand (.texf f) e → (∀ l, inMask e.L l = true → e.texfLane f (e.s.ctr + 128 * l) l = .inl (r l)) → lands (.texf f))) ∧
  (∀ (e : Env) (f : FE) (k l : Nat) (im : Image), e.imageOf f l k = .inl im →
    let lv := e.src constInt f.c l
    let at_ := fun i => if i < dimRegs im.kind then (BitVec.ofNat 32 (e.src constInt (BitVec.ofNat 8 (f.a.toNat + i)) l)).toInt else 0
    let v := im.level lv
    let inside := (0 ≤ at_ 0 ∧ at_ 0 < v.w) ∧ (0 ≤ at_ 1 ∧ at_ 1 < v.h) ∧ 0 ≤ at_ 2 ∧ at_ 2 < v.d
    (im.levels < lv ∨ ¬ inside → e.texfLane f k l = .inl [0, 0, 0, 0]) ∧
    (∀ bs, lv ≤ im.levels → inside →
      e.texRead l (v.base + (at_ 2).toNat * v.slice + (at_ 1).toNat * v.row + (at_ 0).toNat * texelBytes im.tfmt) (texelBytes im.tfmt) 1 k
        = .inl bs → e.texfLane f k l = .inl (texel im.tfmt bs)) ∧
    ∀ (sb : List Byte) (sm : Sampler), e.texRead l (e.src64 f.c l) 32 32 k = .inl sb → sampler sb = some sm →
      let n := dimRegs (f.imm.toNat % 4)
      let cs := (List.range n).map fun i => fp32.val (e.coord f i l)
      let lam := if f.imm.getLsbD 2 then fp32.val (e.coord f n l) else .fin false 0 0
      let numbers := ∀ x ∈ lam :: cs, ∃ neg m ex, x = .fin neg m ex
      (¬ numbers → e.texLane f k l = .inl (List.replicate 4 0x7FC00000)) ∧
      (∀ vs, numbers →
        e.texels im sm.border l k ((levelsOf im sm.mip lam).flatMap fun x => if x.2 = 0 then [] else levelTaps im sm cs x.1 x.2) = .inl vs →
        e.texLane f k l = .inl ((List.range 4).map fun ch => channelSum (vs.map fun y => (y.1.getD ch 0, y.2))))) ∧
  (∀ (im : Image) (sm : Sampler) (cs : List Fv) (k t : Nat), im.kind ≤ 3 → cs.length = dimRegs im.kind →
    (∀ x ∈ cs, ∃ neg m ex, x = Fv.fin neg m ex) →
    ((levelTaps im sm cs k t).map (·.num)).sum = 256 ^ 3 * t ∧
    (sm.linear = false → t ≠ 0 → (levelTaps im sm cs k t).length = 1) ∧
    ∀ (mip : Nat) (neg : Bool) (m : Nat) (ex : Int), ((levelsOf im mip (.fin neg m ex)).map (·.2)).sum = 256)

/-- R320 to R323, R332: plane stores enter their contributions, lowest lane first, and count on their token; where lanes collide in
a FAULT region, cause 0x79 is due after completion. R333, R334: plane loads land the present copy's cells, converted or raw with W;
a query lands step count, flags and size, and with CLEAR clears the flags once; a bind fills a slot once, an unbind empties it, and in a
gang leaves the slot's step to the teams that are bound (R316); for the D of an 8-byte cell see log 49;
PSTEP ends its clause at the step. R318, R319: the first reference to a global region declares it, copy B initialised as the next
copy; a region of the other package raises cause 0x73. -/
def Obligations.PlaneStoresLoadsAndBinds : Prop :=
  (∀ (s : State) (e : Env) (f : FM) (p : Nat → PCell),
     (f.glob = true → e.s.awayFrom e.wv.ctxn = false ∧ (mget e.ctx.regions f.b.toNat).isSome = true) →
     let ps := (lanesOf e.L).map fun l => (l, p l)
     let enters := fun (i : Instr) (takes : PlaneDecl → Bool) (v : PCell → Nat → Int × Bool × Bool) (prio : Nat → Nat) =>
       s.Room i f e → (∀ l, inMask e.L l = true → e.storeCell f takes l = .inl (p l)) →
         let r := contribRun e f v prio ps e.s
         (r.1 = [] → e.Sent i f (fun _ => {}) r.2 e.wv) ∧
         (∀ l c t, r.1 = (l, c) :: t → e.Sent i f (fun _ => {}) r.2 (e.wv.after
           { cause := 0x79, lanes := maskOf fun k => r.1.any fun h => h.1 == k, addr := BitVec.ofNat 64 c.i,
             info := collisionInfo f (e.selector f l), after := true }))
     enters (.pst f) (·.takes (f.mod.toNat % 8))
       (fun c l => ((e.s.regionAt e.wv.ctxn c.ref).getD default).decl.convert (f.mod.toNat % 8) (e.pstData f l)) (fun _ => 0) ∧
     enters (.pstp f) (·.rule == 1) (fun _ l => (((e.src64 f.d l % 2 ^ 32 : Nat) : Int), false, false))
       (fun l => e.src64 f.d l / 2 ^ 32 % 65536)) ∧
  (∀ (s : State) (e : Env) (f : FM) (p : Nat → PCell),
     let known := f.glob = true → e.s.awayFrom e.wv.ctxn = false ∧ (mget e.ctx.regions f.b.toNat).isSome = true
     let ref : PRef := if f.glob then .glob f.b.toNat else .slot e.wv.team f.b.toNat
     let region := fun c : PCell => (e.s.regionAt e.wv.ctxn c.ref).getD default
     let again := e.L = 0 ∨ e.performed &&& e.L ≠ 0
     let once := e.L ≠ 0 ∧ e.performed &&& e.L = 0
     (s.Room (.pld f) f e → known →
       (∀ l, inMask e.L l = true → e.loadCell f (f.mod.toNat % 8 != 0) false l = .inl (p l)) →
       e.Sent (.pld f) f (fun l => e.pldOut f l (p l)) e.s e.wv) ∧
     (s.Room (.pldx f) f e → known → (∀ l, inMask e.L l = true → e.loadCell f false true l = .inl (p l)) →
       e.Sent (.pldx f) f (fun l =>
           let x := leNat (e.s.cellBytes e.wv.ctxn e.wv.core (p l))
           { regs := (if (region (p l)).decl.cell = 8 then e.put64 f.d l x else e.put f.d 0 l x) ++
               putP (f.mod.toNat % 8) l ((region (p l)).wPresent.contains (p l).i) }) e.s e.wv) ∧
     (s.Room (.pqry f) f e → known → again → e.Sent (.pqry f) f (fun _ => {}) e.s e.wv) ∧
     (∀ r, s.Room (.pqry f) f e → known → once → e.s.regionAt e.wv.ctxn ref = some r →
       let ws := [r.steps.toNat % 2 ^ 32, r.steps.toNat / 2 ^ 32,
         bn r.ovf + 2 * bn r.inv + 4 * bn r.coll + 8 * bn r.presentB, r.decl.cells]
       let out := fun l => ({ regs := (List.range 4).flatMap fun k => e.put f.d k l (ws.getD k 0) } : LaneOut)
       (f.mod.getLsbD 0 = false → e.Sent (.pqry f) f out e.s e.wv) ∧
       (f.mod.getLsbD 0 = true → e.Sent (.pqry f) f out
         (e.s.setRegion e.wv.ctxn ref { r with ovf := false, inv := false, coll := false }) (e.markPerf e.L e.wv))) ∧
     (∀ r : Region, s.Room (.pqry f) f e → f.glob = true → e.s.awayFrom e.wv.ctxn = false → once → f.mod.getLsbD 0 = false →
       mget e.ctx.regions f.b.toNat = none → f.b.toNat < e.ctx.desc.planecnt → e.s.declareFault e.wv.ctxn f.b.toNat = none →
       e.s.declare e.wv.ctxn f.b.toNat = some r →
       let s1 := e.s.updCtx e.wv.ctxn fun x => { x with regions := mset x.regions f.b.toNat r }
       let n := r.decl.bytes
       let s0 := s1.vwrite e.wv.ctxn r.baseB (if r.decl.carry then s1.vread e.wv.ctxn r.baseA n else List.replicate n 0)
       e.Sent (.pqry f) f (fun l => { regs := (List.range 4).flatMap fun k => e.put f.d k l (if k = 3 then r.decl.cells else 0) })
         s0 e.wv) ∧
     (∀ i : Instr, i ∈ [.pst f, .pstp f, .pld f, .pldx f, .pqry f] → s.Room i f e → f.glob = true → e.L ≠ 0 →
       e.s.awayFrom e.wv.ctxn = true → e.Faults i 0x73 e.L) ∧
     (s.Room (.pbind f) f e → again → e.Sent (.pbind f) f (fun _ => {}) e.s e.wv) ∧
     (∀ decl, s.Room (.pbind f) f e → once → e.wv.berth = none → f.d.getLsbD 7 = false →
       let d := f.d.toNat % 16
       let x := e.src64 f.a e.l0
       e.s.planeOf e.team d = some decl → mget e.team.slots f.b.toNat = none →
       e.team.bindOk decl (x % 2 ^ 32) (x / 2 ^ 32) = true → e.s.bindClash e.team f.b.toNat d = false →
       e.Sent (.pbind f) f (fun _ => {}) (e.s.updTeam e.wv.team fun y => y.bind f.b.toNat d decl (x % 2 ^ 32) (x / 2 ^ 32))
         (e.markPerf e.L e.wv)) ∧
     (∀ r, s.Room (.pbind f) f e → once → e.wv.berth = none → f.d.getLsbD 7 = true → mget e.team.slots f.b.toNat = some r →
       (e.team.gang = none → e.Sent (.pbind f) f (fun _ => {})
         ({ e.s with ctr := e.s.ctr + r.decl.bytes }.updTeam e.wv.team fun y => y.unbind f.b.toNat e.s.ctr) (e.markPerf e.L e.wv)) ∧
       (∀ g, e.team.gang = some g →
         let s1 := ({ (e.s.updWave e.w fun _ => e.markPerf e.L e.wv) with ctr := e.s.ctr + r.decl.bytes } : State).updTeam e.wv.team
           fun y => y.unbind f.b.toNat e.s.ctr
         let s0 := ((s1.gangTeams g).take 1).foldl (fun u t => State.syncStep t u f.b.toNat) s1
         e.Sent (.pbind f) f (fun _ => {}) s0 (s0.wave e.w) ∧
         ∀ t, (t, (e.team).unbind f.b.toNat e.s.ctr) ∈ s1.teams → t ∉ s1.stepGroup t f.b.toNat)) ∧
     (s.AtHand (.pstep f) e → e.L ≠ 0 → e.wv.berth = none → (mget e.team.slots f.b.toNat).isSome = true →
       e.Gives (.pstep f) e.s { e.wv with clause := some { e.cl with ends := some (.pstep f.b.toNat) } }) ∧
     (s.AtHand (.pstep f) e → e.L ≠ 0 → e.wv.berth ≠ none → e.Faults (.pstep f) 0x2D e.L) ∧
     (s.AtHand (.pstep f) e → e.L ≠ 0 → e.wv.berth = none → mget e.team.slots f.b.toNat = none → e.Faults (.pstep f) 0x70 e.L))

/-! ## Records and rays (R366 to R405) -/

/-- R381, R382, R404: RTRACE starts a traversal with each lane's words, scene and mode, RHIT answers its candidate, RRETIRE retires
its record; each lands a status, the lanes are marked performed, and with the clause's retirement they hold no record any more. On which cluster a ray is traversed is log 64; a
replay that meets a record sent on acts as log 65 says, and a lane that traps meanwhile as log 154. -/
def Obligations.RaysAreTracedAnsweredRetired : Prop :=
  (∀ (s : State) (e : Env) (f : FE), e.full (some (feTok f)) = false → e.settled → e.wv.berth ≠ none ∨ e.L = 0 →
    let v0 := e.markPerf e.todo { e.wv with clause := some { e.cl with dropRec := e.cl.dropRec ||| e.L } }
    let lands := fun (i : Instr) (x : Nat → List RegWrite) (s0 : State) =>
      e.SendsFrom i (some (feTok f)) false ((lanesOf e.L).flatMap x) [] s0 v0
    (∀ k : Nat → Nat × Record, s.AtHand (.rretire f) e →
      (∀ l, inMask e.todo l = true → e.heldRec true l = .inl (k l)) →
      lands (.rretire f) (fun l => e.put f.d 0 l 0x80000000)
        { e.s with recs := e.s.recs.filter fun r => !(lanesOf e.todo).any fun l => (k l).1 == r.1 }) ∧
    (∀ k : Nat → Nat × Nat × Scene, s.AtHand (.rtrace f) e →
      (∀ l, inMask e.todo l = true → e.traceLane f l = .inl (k l)) →
      lands (.rtrace f) (fun l => e.put f.d 0 l 0x80000000) ((lanesOf e.todo).foldl (fun u l => u.updRec (k l).1 fun r =>
        r.trace ((List.range 32).map fun j => e.rv (f.a.toNat + j) l) (k l).2.1 (k l).2.2 f.imm (e.wv.lane l).srcnt (e.wv.core / 4)) e.s)) ∧
    (∀ k : Nat → Nat × Record × Cand, s.AtHand (.rhit f) e →
      (∀ l, inMask e.todo l = true → e.hitLane l = .inl (k l)) →
      let ans := fun l => (k l).2.1.answer (k l).2.2 (feBits f 1 0) (BitVec.ofNat 32 (e.src constF32 f.a l))
        (BitVec.ofNat 32 (e.src constInt f.b l)) (e.wv.lane l).srcnt
      lands (.rhit f) (fun l => if inMask e.todo l then e.put f.d 0 l (0x80000000 + bn (ans l).2) else [])
        ((lanesOf e.todo).foldl (fun u l => u.updRec (k l).1 fun _ => (ans l).1) e.s))) ∧
  (∀ (c : Clause) (v : Wave) (l : Nat), l < v.lanes.length → inMask c.set l = true → inMask c.dropRec l = true →
    ((c.retireLanes v).lane l).held = none ∧ (7 < v.jm.length → inMask ((c.retireLanes v).jm.getD 7 0) l = false))

/-- R383 to R385, R402, R403, R405: record fields are read and written, keys read and overridden, radiance contributed to a region,
the record counts read, new records enter the pool when all find room, else RENQ lands 0x90000000 with TRY and parks without; DOCK
counts on its token until its wave docks, and ends its clause. What writes acts once per lane (R53). The
model's readings: logs 65, 66 and 67. -/
def Obligations.RecordInstructions : Prop :=
  ∀ (s : State) (e : Env) (f : FE), e.full (some (feTok f)) = false →
    let t := some (feTok f)
    let held := fun (m : LaneMask) (k : Nat → Nat × Record) =>
      (e.wv.berth ≠ none ∨ e.L = 0) ∧ ∀ l, inMask m l = true → e.heldRec false l = .inl (k l)
    let lands := fun (i : Instr) (x : Nat → List RegWrite) (s0 : State) (v0 : Wave) =>
      e.SendsFrom i t false ((lanesOf e.L).flatMap x) [] s0 v0
    let s1 := { e.s with ctr := e.s.ctr + 2048 }
    (∀ k, s.AtHand (.rld f) e → held e.L k → lands (.rld f) (fun l => e.putWords f.d (rldRegs f) l ((List.range (rldRegs f)).map fun j =>
        (((k l).2.words ++ (k l).2.hidden).getD (feBits f 7 0 / 4 + j) 0).toNat)) s1 e.wv) ∧
    (∀ k, s.AtHand (.rst f) e → held e.todo k → lands (.rst f) (fun _ => []) ((lanesOf e.todo).foldl (fun u l => u.updRec (k l).1 fun r =>
        { r with words := setWords r.words (feBits f 7 0 / 4) ((List.range (rldRegs f)).map fun j => BitVec.ofNat 32 (e.regAt f.d j l)) }) e.s)
      (e.markPerf e.todo e.wv)) ∧
    (∀ k, s.AtHand (.rkey f) e → f.imm.getLsbD 0 = false → held e.L k →
      lands (.rkey f) (fun l => e.put f.d 0 l ((k l).2.h 7).toNat) s1 e.wv) ∧
    (∀ k, s.AtHand (.rkey f) e → f.imm.getLsbD 0 = true → held e.todo k →
      lands (.rkey f) (fun l => e.put f.d 0 l (e.src constInt f.a l))
        ((lanesOf e.todo).foldl (fun u l => u.updRec (k l).1 fun r =>
          { r with override := some (BitVec.ofNat 32 (e.src constInt f.a l)) }) e.s) (e.markPerf e.todo e.wv)) ∧
    (∀ (r : Region) (c : Nat → Nat), s.AtHand (.racc f) e → e.s.awayFrom e.wv.ctxn = false → mget e.ctx.regions (feBits f 7 0) = some r →
      (∀ l, inMask e.todo l = true → e.raccLane f r l = .inl (c l)) →
      lands (.racc f) (fun l => e.put f.d 0 l 0x80000000)
        ((lanesOf e.todo).foldl (fun u l => (e.raccTerms f r.decl.fxscale l).foldl (fun u x =>
          let id := e.s.logicalId e.wv l
          (u.contribute e.wv.ctxn { ref := .glob (feBits f 7 0), i := c l + x.1 } ((e.s.launchOf e.wv, id), id % 65536) x.2 0).1) u) e.s)
        (e.markPerf e.todo e.wv)) ∧
    (∀ b, s.AtHand (.rstat f) e → e.wv.berth = some b →
      lands (.rstat f) (fun l => e.put f.d 0 l (if feBits f 2 0 = 6 then e.rstatRec l else min 0xFFFFFFFF (e.s.rstat b (feBits f 2 0))))
        s1 e.wv) ∧
    (∀ (b : Berth) (ws : Nat → List Nat), s.AtHand (.renq f) e → e.settled → e.wv.berth = some b →
      (∀ l, inMask e.todo l = true → e.renqLane f b l = .inl (ws l)) →
      let ls := (lanesOf e.todo).map fun l => (l, ws l)
      let r := e.s.renq e.wv.ctxn b.flow (e.wv.core / 4) (f.imm.getLsbD 0) ls
      (∀ u v, r = some u → mget u.waves e.w = some v →
        lands (.renq f) (fun l => e.put f.d 0 l 0x80000000) u (e.markPerf e.todo v)) ∧
      (r = none → f.imm.getLsbD 1 = true → lands (.renq f) (fun l => e.put f.d 0 l 0x90000000) e.s e.wv) ∧
      (r = none → f.imm.getLsbD 1 = false →
        e.Waits (.renq f) t 0 ls ((lanesOf e.todo).flatMap fun l => e.put f.d 0 l 0) e.s e.wv)) ∧
    (s.AtHand (.dock f) e → e.settled → e.L = 0 → e.Gives (.dock f) e.s e.wv) ∧
    (s.AtHand (.dock f) e → e.settled → e.L ≠ 0 → e.wv.berth ≠ none →
      e.Waits (.dock f) t 0 ((lanesOf e.L).map fun l => (l, [])) [] e.s { e.wv with clause := some { e.cl with ends := some .dock } }) ∧
    (s.AtHand (.dock f) e → e.settled → e.L ≠ 0 → e.wv.berth = none → e.Faults (.dock f) 0x2D e.L)

/-- R375 to R378: a traversal that runs bins its candidate, visits the unit on top of its stack, or ends by binning the ray for its
closest hit or miss stage. R388, R391, R392, R396, R397, R401: a bin past its patience ripens; the first deliverable bin goes to a
berth, each lane at its stage's entry with its record's words; a DOCKED berth changes its stage; the oldest spilled record and a root
task take a slot; a spilled record that cannot be read faults its context (cause 0xA8, the unit 0x98 that rule R477 gives the Harbourmaster). Not while the
unit is under test (R445, log 162). Corners of rays, spill layout, the cluster of a root task and open registers of a delivered wave
are logs 62, 63, 64, 68, 7 and 37. -/
def Obligations.TraversalsStepAndRecordsAreDelivered : Prop :=
  (∀ (s : State) (k : Nat) (r : Record) (t : Trav), mget s.recs k = some r → r.st = .traversing → r.waits = false →
     (s.ctx r.ctx).runs = true → s.clusterTested r.cluster = false → r.trav = some t →
     (∀ c, t.cand = some c →
       s.Gets (.nodeStep k) ((s.binRay k (c.stage + 1) false).updRec k fun x => { x with trav := some t })) ∧
     (∀ sc, t.cand = none → t.stack = [] → s.scene r.ctx r.scene (256 + r.cluster) = .ok sc →
       s.Gets (.nodeStep k) ((s.updRec k fun _ => (r.finish sc.miss).1).binRay k (r.finish sc.miss).2 false)) ∧
     (∀ ent rest x, t.cand = none → t.stack = ent :: rest → s.visit r ent rest = .go x → s.Gets (.nodeStep k) (s.updRec k fun _ => x)) ∧
     (∀ ent rest c, t.cand = none → t.stack = ent :: rest → s.visit r ent rest = .bad c →
       s.Gets (.nodeStep k) (s.loseRay k c (ent.treelet + 64 * ent.unit))) ∧
     (∀ ent rest x u c, t.cand = none → t.stack = ent :: rest → s.visit r ent rest = .cand x → x.trav = some u → u.cand = some c →
       let s1 := s.updRec k fun _ => x
       s.Gets (.nodeStep k) ((s1.binRay k (c.stage + 1) false).updRec k fun y => { y with trav := some u }))) ∧
  (∀ (s : State),
     (∀ rec b, s.bins.find? (fun b => b.recs.head?.map (·.1) == some rec) = some b → b.oldest.ripe = false →
       s.patience b ≤ s.now - b.oldest.binnedAt →
       s.Gets (.binPatienceExpiry rec) { s with recs := mupd s.recs rec fun r => { r with ripe := true } }) ∧
     (∀ slice b w u v, s.serviceTested 0x98 = false → leastBy s.rankBin (s.deliverable slice) = some b → s.berthFor b = some w →
       returnSpilled (b.recs.take 32) s = some u → mget u.waves w = some v → (u.ctx (u.flow b.flow).ctx).runs = true →
       (s.ctx (s.flow b.flow).ctx).runs = true →
       let f := u.flow b.flow
       let batch := b.recs.take 32
       ∃ (y : State) (x : Wave), exec (.batchDelivery slice) s = .next ((y.updWave w fun _ => x).boundary w) ∧ x.st = .ready ∧
         x.clause = none ∧ x.jm.getD 7 0 = (maskOf fun l => decide (l < batch.length)) ∧
         x.w.take 4 = [BitVec.ofNat 32 f.args, BitVec.ofNat 32 (f.args / 2 ^ 32), BitVec.ofNat 32 batch.length, 0] ∧
         x.w.getD 31 0 = BitVec.ofNat 32 b.stage ∧ (∀ j, j < 7 → x.jm.getD j 0 = 0) ∧
         (∀ l, l < 32 → (x.lane l).held = (batch[l]?).map (·.1) ∧ (x.lane l).exited = false ∧ (x.lane l).block = .none ∧
           (x.lane l).depth = 0 ∧ (x.lane l).meet = 0 ∧ (x.lane l).p = 0 ∧ (∀ j, j < 4 → (x.lane l).idx j = 0) ∧ (x.lane l).lsr = 0x100 ∧
           (x.lane l).srcnt = (match batch[l]? with
             | some r => r.2.h 6
             | none => 0) ∧
           (batch[l]? = none → (x.lane l).lid = 0xFFFFFFFFFFFFFFFF) ∧
           (x.lane l).pc = u.stagePc f ((f.stage b.stage).getD default) ∧
           ∀ n, n < 32 → n < v.alloc → (x.lane l).v.getD n 0 = match batch[l]? with
             | some r => (f.deliver r.2).getD n 0
             | none => 0) ∧
         ∀ r, (∃ z ∈ batch, z.1 = r) → ∀ z, mget y.recs r = some z → z.st = .delivered) ∧
     (∀ w t, s.retargetTo w = some t →
       exec (.berthRetarget w) s = .next (s.updWave w fun x => { x with berth := x.berth.map fun b => { b with stage := t } })) ∧
     (∀ rec r o, mget s.recs rec = some r → s.spillOldest (s.partOf r.ctx) = some rec → r.spill = some o →
       let x := s.rangeFault r.ctx ((s.ctx r.ctx).desc.spillbase + o) (64 * r.units) 0
       (x = none → exec (.spillReturn rec) s = .next (s.updRec rec fun y => { y with spill := none })) ∧
       (∀ g, x = some g → exec (.spillReturn rec) s = .next (s.ctxFault r.ctx 0xA8 { xaddr := g.va, launch := (s.flow r.flow).launch, unit := 0xFFFF98 }))) ∧
     (∀ k f u, mget s.flows k = some f → f.st = .running ∨ f.st = .quiescing → f.rooted < f.rootn → (s.ctx f.ctx).runs = true →
       let cl := ((List.range 64).find? (s.dev.clusterIn (s.partOf f.ctx))).getD 0
       s.renq f.ctx k cl true [(0, [f.root, f.rooted, 0, 0, 0, 0, 0, 0])] = some u →
       let u1 := u.tick.updFlow k fun x => { x with rooted := x.rooted + 1 }
       exec (.rootTaskCreate k) s = .next (match f.start with
         | some (q, i) => if f.rooted + 1 = f.rootn then (u1.pktDone q i 0 0).updFlow k fun x => { x with start := none } else u1
         | none => u1)))

/-! ## The matrix engine (R350 to R365) -/

/-- R364: SHLD lands 64 bytes in a shape register (it parks while its line is FILLING, and behind an earlier access of its lane that
waits: R231, log 125), SHSET one word, SHGET reads one word, all under their tokens. MXWAIT lands
what the wave's commands have to report when none is outstanding (their flags together, the cause of the earliest that stopped), and
clears it, else it parks; MXQRY lands a count, the window
held, or what the last stop left (free before any stop, log 1; log 55). -/
def Obligations.ShapesWaitAndQuery : Prop :=
  (∀ (s : State) (e : Env) (f : FE), e.full (some (feTok f)) = false →
     let t := some (feTok f)
     let n := feBits f 3 0
     let after := { e.s with ctr := e.s.ctr + 64 }
     (s.AtHand (.shld f) e → e.L = 0 → e.Sends (.shld f) t false []) ∧
     (∀ va, s.AtHand (.shld f) e → e.L ≠ 0 → f.imm.getLsbD 4 = false → e.place 0 64 (eaOf (e.src64 f.a e.l0) 0 64) = .inl va →
       (inMask e.behind e.l0 = false → e.Sends (.shld f) t false (shWrites n (e.s.gread e.wv.ctxn e.w e.l0 va 64 e.s.ctr)) [] after) ∧
       (inMask e.behind e.l0 = true → e.Waits (.shld f) t 0 [(e.l0, e.heldAt 0 va [])] (shWrites n []) e.s e.wv)) ∧
     (∀ p, s.AtHand (.shld f) e → e.L ≠ 0 → f.imm.getLsbD 4 = true → e.shPlace f = .inl p →
       let s1 := e.s.pin p.team (p.off / 8192)
       (e.s.loadWaits false p = false → inMask e.behind e.l0 = false →
         e.Sends (.shld f) t false (shWrites n (e.s.lread p 64 e.s.ctr)) [] { s1 with ctr := e.s.ctr + 64 }) ∧
       (e.s.loadWaits false p = true ∨ inMask e.behind e.l0 = true →
         e.Waits (.shld f) t 0 [(e.l0, parkLane p 0)] (shWrites n []) s1 e.wv)) ∧
     (s.AtHand (.shset f) e → e.Sends (.shset f) t false
       [{ file := .sh, reg := 16 * n + feBits f 7 4, lane := 0, val := BitVec.ofNat 32 (e.src constInt f.a e.l0) }]) ∧
     (s.AtHand (.shget f) e → e.Sends (.shget f) t false
       ((lanesOf e.L).flatMap fun l => e.put f.d 0 l (e.shapeReg n / 2 ^ (32 * feBits f 7 4) % 2 ^ 32)))) ∧
  (∀ (s : State) (e : Env) (f : FE), e.full (some (feTok f)) = false →
     let t := some (feTok f)
     let busy := ∃ k ∈ e.s.cmds, k.2.wave = e.w
     (s.AtHand (.mxwait f) e → e.L = 0 → e.Sends (.mxwait f) t false []) ∧
     (s.AtHand (.mxwait f) e → e.L ≠ 0 → ¬ busy →
       let mine := fun (d : Nat × MxDone) => d.2.wave == e.w && decide (d.1 < e.s.key)
       ∃ d : MxDone, e.Sends (.mxwait f) t false ((lanesOf e.L).flatMap fun l => e.put f.d 0 l d.word)
           (((lanesOf e.L).map fun l => (l, d.flags)).filter fun x => x.2 != 0)
           { e.s with mxDone := e.s.mxDone.filter fun x => !mine x } ∧
         (∀ i, d.flags.getLsbD i = true ↔ ∃ x ∈ e.s.mxDone.filter mine, x.2.flags.getLsbD i = true) ∧
         d.cause = (e.s.mxDone.filter mine).findSome? fun x => x.2.cause) ∧
     (s.AtHand (.mxwait f) e → e.L ≠ 0 → busy →
       e.Waits (.mxwait f) t 0 ((lanesOf e.L).map fun l => (l, [e.s.key])) ((lanesOf e.L).flatMap fun l => e.slots f.d 1 l) e.s e.wv) ∧
     (s.AtHand (.mxqry f) e →
       ∃ x : Nat, e.Sends (.mxqry f) t false ((lanesOf e.L).flatMap fun l => e.put f.d 0 l x) [] { e.s with ctr := e.s.ctr + 1 } ∧
         (feBits f 2 0 = 0 → x = (e.s.cmds.filter fun k => k.2.wave == e.w).length) ∧
         (feBits f 2 0 = 5 → x = bn ((mget (e.s.mxe (e.wv.core / 4)).windows e.wv.team).isSome || (mget e.s.mxSaved e.wv.team).isSome)) ∧
         (∀ st, e.wv.mxStop = some st →
           (feBits f 2 0 = 1 → x = st.vec.getD 0 0 + 65536 * st.vec.getD 1 0) ∧
           (feBits f 2 0 = 2 → x = st.vec.getD 2 0 + 65536 * st.vec.getD 3 0) ∧
           (feBits f 2 0 = 3 → x = st.vec.getD 4 0) ∧ (feBits f 2 0 = 4 → x = st.status.toNat))))

/-- R356, R362, R363: with operands in order, MXGEMM, MXCONV, MXELT, MXLDA and MXSTA queue a command with the shapes, the block and
the lines they name (MXSTA of INT32 rows to an INT8 or UINT8 tensor, of FP32 rows to any other); with no active lane they do nothing. A shape or control block that is out of
order raises its cause for the lane that gives the operands. The model's readings: which lane (log 45), fields above the descriptor
(log 46), entries beyond a rank (log 43), plane operands (log 44), MASKSEL 3 (log 50), pairings (log 52). -/
def Obligations.MatrixCommandsAreQueued : Prop :=
  ∀ (s : State) (e : Env) (f : FE), e.full (some (feTok f)) = false → e.settled →
    let sh := fun (hi lo : Nat) => shapeOf (e.shapeReg (feBits f hi lo))
    let words := fun (n : Nat) => (List.range n).map fun j => BitVec.ofNat 32 (e.regAt f.a j e.l0)
    let free := fun (own : Bool) (xs : List (Nat × Nat)) => ∀ x ∈ xs, e.lineFault own x = none
    let known := fun (x : Shape) => x.space = 2 → e.s.awayFrom e.wv.ctxn = false ∧ (mget e.ctx.regions x.base).isSome = true
    let one := maskOf fun l => decide (l = e.l0)
    (∀ i : Instr, i ∈ [.mxgemm f, .mxconv f, .mxelt f, .mxlda f, .mxsta f] → s.AtHand i e → e.L = 0 →
      e.Sends i (some (feTok f)) false []) ∧
    (∀ (i : Instr) (conv : Bool), (i, conv) ∈ [(.mxgemm f, false), (.mxconv f, true)] → s.AtHand i e → e.L ≠ 0 →
      let x := sh 3 0
      let y := sh 7 4
      (∀ c, x.cause mxAccept = some c ∨ x.cause mxAccept = none ∧ y.cause mxAccept = some c → e.Faults i c one) ∧
      (x.cause mxAccept = none → y.cause mxAccept = none →
        (isInt8 x.fmt ≠ isInt8 y.fmt → e.Faults i 0x6B one) ∧
        (isInt8 x.fmt = isInt8 y.fmt → (mxTile f x y).ok = false → e.Faults i 0x68 one) ∧
        (∀ c, isInt8 x.fmt = isInt8 y.fmt → (mxTile f x y).ok = true → mxBlockCause conv (words 16) (mxTile f x y).m = some c →
          e.Faults i c one))) ∧
    (s.AtHand (.mxelt f) e → e.L ≠ 0 →
      let a := e.src constInt f.a e.l0
      (bits a 31 26 ≠ 0 → e.Faults (.mxelt f) 0x67 one) ∧
      (bits a 31 26 = 0 → 1023 < bits a 11 0 + bits a 18 12 → e.Faults (.mxelt f) 0x93 one)) ∧
    (∀ (i : Instr) (c : Nat) (sta : Bool), (i, sta) ∈ [(.mxlda f, false), (.mxsta f, true)] → s.AtHand i e → e.L ≠ 0 →
      let k := (sh 3 0).cause fun sp fmt => decide (sp ≤ 1) && (decide (fmt ≤ 2) || (sta && decide (4 ≤ fmt) && decide (fmt ≤ 10)))
      k = some c ∨ k = none ∧ transferCause (sh 3 0) (words 8) = some c → e.Faults i c one) ∧
    (∀ (i : Instr) (conv : Bool) (x y : Shape), (i, conv) ∈ [(.mxgemm f, false), (.mxconv f, true)] → s.AtHand i e → e.L ≠ 0 →
      let cb := words 16
      let x0 := sh 3 0
      let y0 := sh 7 4
      let v := fun k => if f.c = 0xE8 then 0 else e.regAt f.c k e.l0
      x0.cause mxAccept = none → y0.cause mxAccept = none → isInt8 x0.fmt = isInt8 y0.fmt → (mxTile f x0 y0).ok = true →
      mxBlockCause conv cb (mxTile f x0 y0).m = none → known x0 → known y0 → e.resolve x0 = .inl x → e.resolve y0 = .inl y →
      e.operandFault x x.whole = none → e.operandFault y y.whole = none → free true x.lines → free true y.lines →
      e.Queues i f [x, y] cb [v 0 % 65536, v 0 / 65536, v 1 % 65536, v 1 / 65536, v 2]
        (x.lines.map (fun p => (p.1, p.2, f.imm.getLsbD 10)) ++ y.lines.map fun p => (p.1, p.2, f.imm.getLsbD 11)) []) ∧
    (∀ x : Shape, s.AtHand (.mxelt f) e → e.L ≠ 0 →
      let a := e.src constInt f.a e.l0
      let block := [BitVec.ofNat 32 a, BitVec.ofNat 32 (e.src constF32 f.b e.l0)]
      bits a 31 26 = 0 → bits a 11 0 + bits a 18 12 ≤ 1023 →
      (f.imm.getLsbD 4 = false → e.Queues (.mxelt f) f [] block [] [] []) ∧
      (f.imm.getLsbD 4 = true → (sh 3 0).cause (fun sp fmt => decide (sp ≤ 1) && decide (fmt ≤ 2)) = none → (sh 3 0).rank = 1 →
        e.resolve (sh 3 0) = .inl x → (x.space ≠ 0 → e.operandFault x x.whole = none) →
        (x.space = 0 → e.s.rangeFault e.wv.ctxn x.base (extent x.fmt x.base (min (x.dim 0) 128)) 0 e.lighter = none) → free true x.lines →
        e.Queues (.mxelt f) f [x] block [] (x.lines.map fun p => (p.1, p.2, false)) [])) ∧
    (∀ x : Shape, s.AtHand (.mxlda f) e → e.L ≠ 0 →
      let tb := words 8
      (sh 3 0).cause (fun sp fmt => decide (sp ≤ 1) && decide (fmt ≤ 2)) = none → transferCause (sh 3 0) tb = none →
      e.resolve (sh 3 0) = .inl x → e.operandFault x x.whole = none → e.transferPages x tb 0 = none → free true x.lines →
      e.Queues (.mxlda f) f [x] tb [] (x.lines.map fun p => (p.1, p.2, f.imm.getLsbD 4)) []) ∧
    (∀ x : Shape, s.AtHand (.mxsta f) e → e.L ≠ 0 →
      let tb := words 8
      (sh 3 0).cause (fun sp fmt => decide (sp ≤ 1) && (decide (fmt ≤ 2) || (decide (4 ≤ fmt) && decide (fmt ≤ 10)))) = none →
      transferCause (sh 3 0) tb = none → e.resolve (sh 3 0) = .inl x → e.operandFault x (tPieces x tb) = none → e.transferPages x tb 1 = none →
      (∀ r, r < x.boxOf 1 → e.s.rowKind e.wv.core e.wv.team (bits (cbWord tb 5) 11 0 + r) = isInt8 x.fmt) →
      let outs := if x.space = 1 then dedup ((tPieces x tb).flatMap fun p => (linesOf p.1 p.2).map fun n => (x.scaleBase, n)) else []
      (x.space = 1 → ∀ p ∈ tPieces x tb, ((mget e.s.teams x.scaleBase).getD default).inPlane p.1 p.2 = false) → free false outs →
      e.Queues (.mxsta f) f [x] tb [] [] outs)

/-- R16, R350, R351, R354, R360, R361, R430: a queued matrix command starts with the team's window, and its team's turn has come; a
product makes one iteration after the other, each with what it computes of the window and the flags it adds, its array clocks charged to
the island (R440); a command completes with its last, waits on a resolvable fault, or stops with a final fault's cause or the
watchdog's; while the engine is under test none starts or goes on (R445, log 162). The island's power turns on and off, the windows as
they were (log 164). Elements of planes and fills, their flags and rounding are logs 44, 51, 53 and 54. -/
def Obligations.MatrixCommandsStartAndEnd : Prop :=
  ∀ (s : State) (n : Nat) (k : MxCmd), mget s.cmds n = some k →
    let w := (mget (s.mxe k.cluster).windows k.team).getD default
    let quiet := ∀ r ∈ s.page.faults, FaultAgent.cmd n ∉ r.agents
    (s.canStart n k = true → ∃ t, exec (.mxeCommandStart n) s = .next t ∧ mget t.cmds n = some { k with st := .running, since := s.now } ∧
      mget (t.mxe k.cluster).windows k.team =
        some ((mget (s.mxe k.cluster).windows k.team).getD ((mget s.mxSaved k.team).getD { acc := [], ints := [] })) ∧
      (t.mxe k.cluster).turn = k.team ∧ t.waves = s.waves ∧ t.mem = s.mem ∧ t.teams = s.teams) ∧
    (k.st = .running → quiet → s.mxeTested k.cluster = true → exec (.mxeCommandComplete n) s = .next s) ∧
    (k.st = .running → quiet → s.mxeTested k.cluster = false → s.cmdFault k = none →
      let r := s.runCmd k w
      let u1 := r.2.2.updMxe k.cluster fun m => { m with windows := mset m.windows k.team r.1 }
      let u := u1.addBusy (0x40 + k.cluster) k.ctx (Config.arrayClocks u1.ctr)
      ∃ k1 : MxCmd, k1.flags = k.flags ||| r.2.1 ∧ { k1 with start := k.start, flags := k.flags, since := k.since } = k ∧
        k1.start = (if k.product then bumpVec (k.next.getD k.start) else k.start) ∧
        (k.product = true → k1.next.isSome = true → exec (.mxeCommandComplete n) s = .next { u with cmds := mset u.cmds n k1 }) ∧
        (k.product = false ∨ k1.next = none → exec (.mxeCommandComplete n) s = .next (u.endCmd n k1 0x80000000 k1.flags))) ∧
    (∀ x acc, k.st = .running → quiet → s.mxeTested k.cluster = false → s.cmdFault k = some (x, acc) →
      (resolvable x.kind = true →
        exec (.mxeCommandComplete n) s = .next (s.raiseFault k.ctx x acc 0xFF (0x40 + k.cluster) (.cmd n)).2) ∧
      (resolvable x.kind = false → s.goneFrame k.ctx x (256 + k.cluster) = none →
        exec (.mxeCommandComplete n) s = .next (s.stopCmd n k x.cause)) ∧
      (∀ pa, resolvable x.kind = false → s.goneFrame k.ctx x (256 + k.cluster) = some pa →
        exec (.mxeCommandComplete n) s = .next (s.frameLost k.ctx pa))) ∧
    (k.st = .running → k.since + 100000000 ≤ s.now → exec (.engineWatchdog n) s = .next (s.stopCmd n k 0x9F)) ∧
    (∀ c, c < 64 → exec (.mxeIslandPowerUp c) s = .next (s.updMxe c fun m => { m with powered := true })) ∧
    (∀ c, c < 64 → (∀ x ∈ s.cmds, x.2.cluster = c → x.2.st ≠ .running) →
      exec (.mxeIslandPowerDown c) s = .next (s.updMxe c fun m => { m with powered := false }))

/-! ## System instructions, traps, measurement (R90 to R93, R120 to R122, R425 to R441) -/

/-- R431, R432: SRD reads a special register in each active lane; SWR writes the ones that can be written: LSR (a rounding field of
0 or 7 raises cause 0x05), the index registers, the debug registers, the trap registers while IN-TRAP, FIFOMAP (R289: a write whose
windows find no FIFO frame waits, behind the earlier ones), SUBSCRIBE; any other register raises cause 0x2C.
What FIFOMAP reads while a write waits is log 126. -/
def Obligations.SpecialRegistersAreReadAndWritten : Prop :=
  ∀ (s : State) (e : Env) (f : FI),
    let n := f.imm.toNat
    let v := fun l => e.src constInt f.a l
    let x := v e.l0
    let inL := fun (g : Nat → Lane → Lane) =>
      { e.wv with lanes := mapIx (fun l ln => if inMask e.L l then g l ln else ln) 0 e.wv.lanes }
    let gives := fun (v0 : Wave) => e.Gives (.swr f) e.s v0
    let team := fun (g : Team → Team) => e.Gives (.swr f) (e.s.updTeam e.wv.team g) e.wv
    let only := fun (m : Nat) => [0x10, 0x20, 0x21, 0x22, 0x23, 0x30, 0x31, 0x32, 0x34, 0x35, 0x36, 0x37, 0x38, 0x39, 0x3A, 0x3B, 0x40,
      0x41, 0x42, 0x43, 0x44, 0x45, 0x46, 0x47, 0x4A, 0x4B, 0x121, 0x122, 0x123].contains m
    (s.AtHand (.srd f) e → (∀ l, inMask e.L l = true → (e.sreg n l).isSome = true) →
      e.Sets (.srd f) f.d fun l => (e.sreg n l).getD 0) ∧
    (s.AtHand (.srd f) e → e.L ≠ 0 → e.sreg n 0 = none → e.Faults (.srd f) 0x2C e.L) ∧
    (s.AtHand (.swr f) e → e.L = 0 → gives e.wv) ∧
    (s.AtHand (.swr f) e → e.L ≠ 0 →
      (n = 0x10 → (∀ l, inMask e.L l = true → bits (v l) 10 8 ≠ 0 ∧ bits (v l) 10 8 ≠ 7) →
        gives (inL fun l ln => { ln with lsr := BitVec.ofNat 32 (v l) &&& 0x71F })) ∧
      (n = 0x10 → (e.L &&& maskOf fun l => bits (v l) 10 8 == 0 || bits (v l) 10 8 == 7) ≠ 0 →
        e.Faults (.swr f) 0x05 (e.L &&& maskOf fun l => bits (v l) 10 8 == 0 || bits (v l) 10 8 == 7)) ∧
      (∀ k, k < 4 → n = 0x20 + k → gives (inL fun l ln => ln.setIdx k (BitVec.ofNat 32 (v l)))) ∧
      (∀ k, k < 12 → k ≠ 3 → n = 0x30 + k → gives { e.wv with dbg := e.wv.dbg.setReg k x }) ∧
      (∀ k, k < 8 → n = 0x40 + k → e.wv.trapped = true → gives { e.wv with x := e.wv.x.setReg k x }) ∧
      (n = 0x4A → e.wv.trapped = true → e.L &&& ~~~ e.wv.x.s = 0 →
        gives (inL fun l ln => { ln with xlpc := ln.xlpc.extractLsb' 32 32 ++ BitVec.ofNat 32 (v l) })) ∧
      (n = 0x4B → e.wv.trapped = true → e.L &&& ~~~ e.wv.x.s = 0 →
        gives (inL fun l ln => { ln with xlpc := BitVec.ofNat 32 (v l) ++ ln.xlpc.extractLsb' 0 32 })) ∧
      (n = 0x121 → e.team.loc.fifomapBad (BitVec.ofNat 32 x) = false →
        (e.team.loc.fifoPend = [] → e.s.fifoRoom e.wv.team (BitVec.ofNat 32 x) = true →
          team fun t => { t with loc := t.loc.setFifomap (BitVec.ofNat 32 x) }) ∧
        (e.team.loc.fifoPend ≠ [] ∨ e.s.fifoRoom e.wv.team (BitVec.ofNat 32 x) = false →
          team fun t => { t with loc := { t.loc with fifoPend := t.loc.fifoPend ++ [BitVec.ofNat 32 x] } })) ∧
      (n = 0x121 → e.team.loc.fifomapBad (BitVec.ofNat 32 x) = true → e.Faults (.swr f) 0x60 e.L) ∧
      (n = 0x122 → team fun t => { t with sub := t.sub.extractLsb' 32 32 ++ BitVec.ofNat 32 x }) ∧
      (n = 0x123 → team fun t => { t with sub := BitVec.ofNat 32 x ++ t.sub.extractLsb' 0 32 }) ∧
      (only n = false ∨ (0x40 ≤ n ∧ n ≤ 0x4B ∧ e.wv.trapped = false) → e.Faults (.swr f) 0x2C e.L))

/-- R433, R434: TRAP n makes its trap due after the clause, for its active lanes; TRET returns from a trap, to the replay point or
to the continue points, its clause moving the lanes there; outside one it raises cause 0x0A. R426 to R428: a trap taken outside a trap
lands the results in flight, saves the clause's header in XPC, the cause, the lanes, the address, the information and the default
resumption, each lane's continue point in XLPC, and moves the lanes of the set to the handler; the wave is IN-TRAP and its clause is
gone. A lane whose record the stopped clause had sent on keeps what a replay takes up again (log 154). What the set and the wave wait
for is saved, and waited for again after the return; a turn that ended IN-TRAP ends then (the
model's reading, log 124). -/
def Obligations.SoftwareTrapsAndTheirEntry : Prop :=
  (∀ (s : State) (e : Env),
     (∀ f : FI, s.AtHand (.trap f) e → e.L ≠ 0 → e.cl.cond = none → e.Gives (.trap f) e.s { e.wv with clause := some { e.cl with
       cond := some { cause := if f.imm.toNat < 16 then 0x10 + f.imm.toNat else 0x20 + f.imm.toNat, lanes := e.L, addr := 0,
                      info := BitVec.ofNat 32 e.cl.idx, after := true } } }) ∧
     (∀ f : FI, s.AtHand (.trap f) e → e.L = 0 ∨ e.cl.cond ≠ none → e.Gives (.trap f) e.s e.wv) ∧
     (∀ f : F3, s.AtHand (.tret f) e → e.wv.trapped = true →
       let replay := f.mod = 1 ∨ (f.mod = 0 ∧ e.wv.x.resume.getLsbD 0 = false)
       ∃ (v0 : Wave) (c : Clause), e.Gives (.tret f) e.s v0 ∧ v0.trapped = false ∧ v0.x = e.wv.x ∧ v0.clause = some c ∧
         v0.sleep = e.wv.xsleep ∧ v0.kidsWait = e.wv.xkids ∧ v0.turn = (if e.wv.due then 64 else e.wv.turn) ∧
         ∀ l, l < 32 → l < e.wv.lanes.length →
           let back := inMask e.wv.x.s l = true ∧ (e.wv.lane l).exited = false
           let dest := if replay then e.wv.x.xpc else (e.wv.lane l).xlpc
           mget c.pcs l = (if back then some dest else none) ∧
           (v0.lane l).pc = (if back then dest else (e.wv.lane l).pc) ∧
           (inMask e.wv.x.s l = true → (v0.lane l).block = (e.wv.lane l).xblock) ∧
           (inMask e.wv.x.s l = false → (v0.lane l).block = (e.wv.lane l).block) ∧
           (v0.lane l).sent = (if inMask e.wv.x.s l = true ∧ ¬ replay then none else (e.wv.lane l).sent) ∧
           { v0.lane l with pc := 0, block := .none, xblock := .none, sent := none } =
             { e.wv.lane l with pc := 0, block := .none, xblock := .none, sent := none }) ∧
     (∀ f : F3, s.AtHand (.tret f) e → e.wv.trapped = false → e.L ≠ 0 → e.Faults (.tret f) 0x0A e.L)) ∧
  (∀ (s : State) (w : Nat) (v : Wave) (S : LaneMask) (hdr nxt : DWord) (after : Bool) (c : Cond),
     mget s.waves w = some v → v.trapped = false → (s.ctx v.ctxn).desc.trapbase ≠ 0 →
     let u := v.landAll
     (v.flights = [] → u = v) ∧ u.flights = [] ∧
     ∃ x : Wave, s.takeTrap w S hdr nxt after c = (s.updWave w fun _ => x).boundary w ∧ x.trapped = true ∧ x.clause = none ∧
       x.st = .ready ∧ x.lastSet = S ∧ x.sleep = none ∧ x.kidsWait = none ∧ x.xsleep = v.sleep ∧ x.xkids = v.kidsWait ∧
       x.x = { xpc := hdr &&& 0x01FFFFFFFFFFFFF8, cause := BitVec.ofNat 32 c.cause, addr := c.addr, lanes := c.lanes, info := c.info,
               resume := if after then 1 else 0, s := S } ∧
       (∀ l, l < u.lanes.length →
         (inMask S l = true → (x.lane l).pc = (s.ctx v.ctxn).desc.trapbase ∧ (x.lane l).xlpc = (if after then (u.lane l).pc else nxt) ∧
           (x.lane l).block = .none ∧ (x.lane l).xblock = (u.lane l).block ∧
           { x.lane l with pc := 0, xlpc := 0, block := .none, xblock := .none } =
             { u.lane l with pc := 0, xlpc := 0, block := .none, xblock := .none }) ∧
         (inMask S l = false → x.lane l = u.lane l)) ∧
       { x with x := u.x, clause := u.clause, lanes := u.lanes, trapped := u.trapped, st := u.st, lastSet := u.lastSet, sleep := u.sleep,
                kidsWait := u.kidsWait, xsleep := u.xsleep, xkids := u.xkids } = u)

/-- R427, R430: a trap without a handler sends the context to FAULTED with cause 0xAC, one taken IN-TRAP with cause 0x08. R425, R53:
a fault before completion lands everything in flight, returns the draws of SR to the clause's issue, keeps no clause, counts the
instructions issued so far in the wave's turn, and takes its trap with the continue point behind the clause and the default to replay. That only register
results land, and not copies, is log 25; XADDR of a cause is log 117. -/
def Obligations.FaultsStopTheClauseOrTheContext : Prop :=
  (∀ (s : State) (w : Nat) (v : Wave) (S : LaneMask) (hdr nxt : DWord) (after : Bool) (c : Cond) (x : Ctx),
     mget s.waves w = some v → mget s.ctxs v.ctxn = some x → x.st = .active →
     (v.trapped = true ∨ x.desc.trapbase = 0) →
     let t := s.takeTrap w S hdr nxt after c
     ∃ y : Ctx, mget t.ctxs v.ctxn = some y ∧ y.st = .faulted ∧
       y.firstEvent = some (x.firstEvent.getD (if v.trapped then 0x08 else 0xAC)) ∧ (∀ k z, (k, z) ∈ t.waves → z.ctxn ≠ v.ctxn)) ∧
  (∀ (s : State) (w : Nat) (v : Wave) (c : Clause) (cause : Nat) (lanes : LaneMask) (addr : DWord) (info : Option Word),
     mget s.waves w = some v →
     ∃ x : Wave, s.faultNow w c cause lanes addr info = (s.updWave w fun _ => x).takeTrap w c.set c.hdr
         (c.hdr + 8 * BitVec.ofNat 64 (c.words.length + 1)) false
         { cause := cause, lanes := lanes, addr := addr, info := info.getD (BitVec.ofNat 32 c.idx), after := false } ∧
       x.clause = none ∧ x.flights = [] ∧ x.trapped = v.trapped ∧ x.turn = v.turn + c.idx + 1 ∧
       ∀ l, l < v.lanes.length → l < 32 → l < c.sr0.length → inMask c.set l = true → (x.lane l).srcnt = c.sr0.getD l 0)

/-- R90 to R93, R120 to R122, R435, R441: CLOCK and ECNT deliver counters, a core's clocks and the energy of 100 ms never below what the
lane has read (logs 13, 149); MEASURE, behind no earlier access of its lanes, records a digest of the buffer and counts on its
token until the append, or lands 0x10000000 in a context without measurement; SIGNAL updates each lane's word and wakes its queue; a
queue that is none raises cause 0xA0. -/
def Obligations.ClocksMeasurementsAndSignals : Prop :=
  ∀ (s : State) (e : Env),
    let sets64 := fun (i : Instr) (d : BitVec 8) (x : Nat → Nat) (seen : Nat → Lane → Lane) =>
      e.Ran i (fun l ln => e.toLane d 1 true l (x l / 2 ^ 32) (e.toLane d 0 true l (x l) (seen l ln)))
        (e.toFile d 1 (fun l => x l / 2 ^ 32) (e.toFile d 0 x e.wv.w))
    (∀ f : F3, s.AtHand (.clock f) e →
      (f.mod.getLsbD 0 = false → e.Sets64 (.clock f) f.d fun _ => e.s.now % 2 ^ 64) ∧
      (f.mod.getLsbD 0 = true →
        let x := fun l => max (e.s.clk e.wv.core) (e.wv.lane l).clkSeen
        sets64 (.clock f) f.d x fun l ln => { ln with clkSeen := x l })) ∧
    (∀ f : FI, s.AtHand (.ecnt f) e →
      (f.imm.toNat ≠ 0x101 → e.Sets64 (.ecnt f) f.d fun _ => e.energy f.imm.toNat % 2 ^ 64) ∧
      (f.imm.toNat = 0x101 → sets64 (.ecnt f) f.d (fun _ => e.energy 0x101 % 2 ^ 64) fun _ ln => { ln with e100 := e.energy 0x101 % 2 ^ 64 })) ∧
    (∀ f : FE, s.AtHand (.measure f) e → e.settled → e.full (some f.mod.toNat) = false →
      (e.L = 0 → e.Sends (.measure f) (some f.mod.toNat) false []) ∧
      (e.L ≠ 0 → e.ctx.desc.meas = false →
        e.Sends (.measure f) (some f.mod.toNat) false ((lanesOf e.L).flatMap fun l => e.put f.d 0 l 0x10000000)) ∧
      (e.L ≠ 0 → e.ctx.desc.meas = true →
        let a := e.src64 f.a e.l0
        let n := e.src constInt f.b e.l0
        a + n ≤ 2 ^ 57 → e.s.rangeFault e.wv.ctxn a n 0 = none → e.s.inDevice e.wv.ctxn a n = true →
        e.Gives (.measure f) (e.s.record1 e.wv.ctxn
            { type := if f.imm.getLsbD 0 then 4 else 3, subject := e.s.launchOf e.wv, addr := a, len := n,
              aux := e.s.queueOf e.wv + 0x10000, digest := treeHash (e.s.svbytes e.wv.ctxn a n),
              waiter := .flight e.w f.mod.toNat ((lanesOf e.L).flatMap fun l => e.put f.d 0 l 0) })
          (e.wv.tokUp (some f.mod.toNat)))) ∧
    (∀ (f : FM) (va : Nat → Nat), s.Ready (.signal f) f e → (f.mod.getLsbD 2 = true → e.badQueue f = 0) →
      let acc : Access := if f.mod.toNat % 4 = 0 then 1 else 2
      (∀ l, inMask e.todo l = true → e.place acc 8 (e.ea f 8 l) = .inl (va l)) →
      let s0 := (lanesOf e.todo).foldl (fun u l => e.signalLane f u acc l (va l)) e.s
      e.Sent (.signal f) f (fun _ => {}) s0 (e.markPerf e.todo (s0.wave e.w))) ∧
    (∀ f : FM, s.Ready (.signal f) f e → f.mod.getLsbD 2 = true → e.badQueue f ≠ 0 → e.Faults (.signal f) 0xA0 (e.badQueue f))

/-! ## Waves and the placer (R47, R49, R50, R53, R133 to R136, R148 to R154, R164, R279, R283, R284, R289, R427, R436 to R438) -/

/-- R154, R47: of the READY waves of a quadrant the one chosen is, where one waited 16 times the quadrant's waves, such a one; else
one of the highest priority; among these the one that waited longest, of the lowest wave context; its next clause begins, its
instructions charged to the cluster's issue (R440, log 163), and the others have waited once more. R49, R40: a flight that lands leaves its wave, its token counts one less and its registers take its
values; then the wave is settled. R50, R148: the lanes whose wait ends send their results on their way, the last of them the token and the flags of all (R40); a
wait of a team off its core goes on, and the team becomes runnable; none ends while the context does not run. The trap of a fault answered so (a handler whose first clause cannot be fetched is lost, R427), a due single-step, a replay and a sleep's end act on their wave; a
FIFOMAP write that waited takes effect when its frames are free (R289). -/
def Obligations.WaveEventsAndIssueSelection : Prop :=
  (∀ (s : State) (core quad w : Nat) (v : Wave),
     let n := 16 * (s.quadWaves core quad).length
     let rs := s.ready core quad
     let pc := (v.lane ((lowest v.lastSet).getD 0)).pc
     mget s.waves w = some v → leastBy (s.issueRank (s.quadWaves core quad).length) rs = some (w, v) →
     ((∀ x ∈ rs, x.2.ctxNo < 2 ^ 64 ∧ x.2.waited < 2 ^ 64) → ∀ x ∈ rs,
       (n ≤ x.2.waited → n ≤ v.waited) ∧
       (v.waited < n → s.prioOf x.2 % 4 ≤ s.prioOf v % 4) ∧
       ((n ≤ x.2.waited ∧ n ≤ v.waited) ∨ (x.2.waited < n ∧ s.prioOf x.2 % 4 = s.prioOf v % 4) →
         x.2.waited < v.waited ∨ (x.2.waited = v.waited ∧ v.ctxNo ≤ x.2.ctxNo))) ∧
     (∀ (head : DWord) (ws : List DWord), s.cur = 0 ∨ (s.wave s.cur).clause = none → (rs.map (·.1)).Nodup →
       s.fetchClause v.ctxn pc.toNat v.core v.alloc = .ok head ws → v.stopHere pc = none → firstMma 0 ws = none ∨ v.lastSet = 0xFFFFFFFF →
       ∃ t, exec (.issueSelect core quad) s = .next t ∧ t.cur = w ∧ mget t.waves w = some (v.startClause pc head ws) ∧
         (∀ k y, k ≠ w → mget s.waves k = some y →
           mget t.waves k = some (if (rs.map (·.1)).contains k then { y with waited := y.waited + 1 } else y)) ∧
         t.energy = (s.addBusy (core / 4) v.ctxn ws.length).energy ∧
         { t with waves := s.waves, cur := s.cur, ctr := s.ctr, energy := s.energy } = s)) ∧
  (∀ (s : State) (w : Nat) (v : Wave), mget s.waves w = some v →
     (∀ n f, v.flights[n]? = some f → v.mayLand n = true →
       ∃ x : Wave, exec (.resultLands w n) s = .next ((s.tick.updWave w fun _ => x).boundaryAt false w) ∧ x.flights = v.flights.eraseIdx n ∧
         (∀ k, f.tok = some k → x.wk.getD k 0 = v.wk.getD k 0 - 1) ∧ (∀ k, f.tok ≠ some k → x.wk.getD k 0 = v.wk.getD k 0) ∧
         (∀ r, f.writes = [r] → r.file = .v → r.lane < v.lanes.length → r.reg < (v.lane r.lane).v.length →
           (x.lane r.lane).v.getD r.reg 0 = r.val ∧ ∀ k, k ≠ r.reg → (x.lane r.lane).v.getD k 0 = (v.lane r.lane).v.getD k 0) ∧
         (f.writes = [] → f.flags = [] → x.lanes = v.lanes ∧ x.w = v.w ∧ x.sh = v.sh)) ∧
     (∀ n p r s', v.parks[n]? = some p → s.release w (if p.orders then v.waiting Park.orders n else 0) p = (r, s') → r.lanes ≠ [] →
       (s.ctx v.ctxn).runs = true →
       ((s.teamOf v).onCore = true → p.gone s (r.lanes.map (·.1)) = none →
         let fl := p.flags ++ (if r.flags = 0 then [] else r.lanes.map fun l => (l.1, r.flags)) ++ r.own.filter fun y => y.2 != 0
         ((∀ l ∈ p.lanes, (mget r.lanes l.1).isSome = true) →
           exec (.parkRelease w n) s = .next ((s'.tick.updWave w fun x => { x with
             parks := x.parks.eraseIdx n,
             flights := x.flights ++ [{ tok := p.tok, hold := p.hold, writes := p.results r, flags := fl, fence := p.isFence }] }).boundaryAt
               false w)) ∧
         ((∃ l ∈ p.lanes, mget r.lanes l.1 = none) →
           exec (.parkRelease w n) s = .next (s'.tick.updWave w fun x => { x with
             parks := updAt x.parks n fun y => { y with lanes := p.lanes.filter fun l => (mget r.lanes l.1).isNone, flags := fl,
                                                        dst := y.dst.filter fun d => (mget r.lanes d.lane).isNone },
             flights := x.flights ++ [{ tok := none, hold := 0, writes := p.results r, flags := [] }] }))) ∧
       ((s.teamOf v).onCore = false → exec (.parkRelease w n) s = .next (s.markRunnable v.team))) ∧
     (∀ k c rest, v.clause = none → v.faultWait = [] → v.pend = (k, c) :: rest → (s.ctx v.ctxn).runs = true →
       let pc := (v.lane ((lowest v.lastSet).getD 0)).pc
       let first := v.trapped = true ∧ pc = (s.ctx v.ctxn).desc.trapbase ∧ bits c.info.toNat 9 8 = 3
       ((s.teamOf v).onCore = false → exec (.takeTrap w) s = .next (s.markRunnable v.team)) ∧
       ((s.teamOf v).onCore = true → ¬ first →
         exec (.takeTrap w) s = .next ((s.updWave w fun x => { x with pend := [] }).takeTrap w v.lastSet pc v.pendNxt false c)) ∧
       ((s.teamOf v).onCore = true → first →
         exec (.takeTrap w) s = .next ((s.updWave w fun x => { x with pend := [] }).ctxFault v.ctxn 0x09
           { xpc := pc.toNat, xinfo := c.cause, launch := s.launchOf v, unit := v.unit }))) ∧
     (v.clause = none → v.faultWait = [] → v.pend = [] → (s.ctx v.ctxn).runs = true → (s.teamOf v).onCore = true → v.st = .ready → s.stepDue w v.lastSet = true →
       exec (.takeTrap w) s = .next (s.takeStep w v.lastSet (v.lane ((lowest v.lastSet).getD 0)).pc)) ∧
     (v.clause = none → v.faultWait = [] → v.pend = [] → v.st = .parked → exec (.clauseReplay w) s = .next (s.boundaryAt false w)) ∧
     (let past := fun (t : Option Nat) => ∃ d, t = some d ∧ d ≤ s.now;
       past v.sleep ∨ past v.xsleep → ∃ x : Wave, exec (.sleepExpiry w) s = .next ((s.tick.updWave w fun _ => x).boundaryAt false w) ∧
         { x with sleep := v.sleep, xsleep := v.xsleep } = v ∧ (past v.sleep → x.sleep = none) ∧ (¬ past v.sleep → x.sleep = v.sleep) ∧
         (past v.xsleep → x.xsleep = none) ∧ (¬ past v.xsleep → x.xsleep = v.xsleep))) ∧
  (∀ (s : State) (t : Nat) (m : Team) (x : Word) (rest : List Word), mget s.teams t = some m → m.loc.fifoPend = x :: rest →
     m.onCore = true → s.fifoRoom t x = true →
     s.Gets (.fifomapWrite t x) (s.updTeam t fun y => { y with loc := { (y.loc.setFifomap x) with fifoPend := rest } }))

/-- R149, R151, R131: the next team of the grid at hand is admitted to its core: resident with its waves at the entry's first
clause, or parked; the grid counts it. R150, R136: the oldest gang is placed whole in the lowest cluster that takes all its teams
(the order of grids, the cluster and gangs of contexts that do not run are logs 28, 30 and 157; a gang asks for what it lacks, log 32).
-/
def Obligations.TeamsAndGangsArePlaced : Prop :=
  (∀ (s : State) (part gk core : Nat) (g : Grid) (quads : Option (List Nat)),
     s.admits = true → s.grids.filter (s.admissible part) = [(gk, g)] → s.flows.filter (fun f => s.flowWaits part f.2) = [] →
     mget s.grids gk = some g → s.coreFor part g.entry true = some (core, quads) → (∀ x ∈ s.waves, x.1 < s.key ∧ x.2.team < s.key) →
     ∃ t tm, exec (.teamAdmit part) s = .next t ∧
       mget t.grids gk = some { g with nextTeam := g.nextTeam + 1, st := if g.nextTeam + 1 < g.teams then .admitting else .running } ∧
       mget t.teams s.key = some tm ∧ tm.grid = gk ∧ tm.index = g.nextTeam ∧ tm.core = core ∧ tm.loc = Local.fresh g.entry.loc ∧
       (quads = none → tm.st = .parked) ∧
       ∀ qs, quads = some qs → tm.st = .resident ∧
         (t.waves.filter fun x => x.2.team == s.key).map (fun x => (x.2.rank, x.2.quad)) = (List.range qs.length).zip qs ∧
         ∀ x ∈ t.waves, x.2.team = s.key → x.2.core = core ∧ x.2.ctxn = g.ctx ∧ x.2.alloc = g.entry.alloc ∧ x.2.w = g.w0 ∧
           ∀ l, l < 32 → (x.2.lane l).pc = s.entryPc g ∧ (x.2.lane l).exited = false) ∧
  (∀ (s : State) (part k c : Nat) (g : Gang) (gr : Grid),
     let n := min gr.entry.gang (gr.teams - gr.nextTeam)
     let s0 := (s.unreserve part).noteResident gr.ctx
     let put := fun c => placeGang k g.grid (s.dev.clusterCores part c) n 0 s0
     s.admits = true → s.oldestGang part = some (k, g) → mget s.gangs k = some g → mget s.grids g.grid = some gr →
     s.defers gr.ctx (s.estimateOf gr) n = false → c < 64 → s.dev.clusterIn part c = true → (put c).1.length = n →
     (∀ b, b < c → s.dev.clusterIn part b = true → (put b).1.length ≠ n) →
     ∃ t x, exec (.gangPlace part) s = .next t ∧ mget t.gangs k = some x ∧ x.st = .placed ∧ x.cluster = c ∧ x.reserved = [] ∧
       x.teams = (put c).1.map (·.1) ∧ t.teams = (put c).2.teams ∧ t.waves = (put c).2.waves)

/-- R152, R153, R149: a team parks with its waves saved and comes back; a DRAINING team retires when its copies and commands are
complete, and its grid counts it. R284, R286: an octant's drain begins, and at its end, where it still may, its pages leave their frames
and the new mode takes effect. R436
to R438: a context resident for a millisecond is pre-empted for one of higher priority that lacks capacity; its teams are saved when
everything of it stands still, and an error that met the pre-emption acts then (R446); it comes back with every team.
The order of return, what a gang must lack, the octant chosen, the place of a page, saved registers and where a team returns are logs
31, 32, 33, 10, 126, 29 and 35. -/
def Obligations.TeamsParkRetireAndArePreempted : Prop :=
  (∀ (s : State) (t : Nat) (tm : Team), mget s.teams t = some tm →
     (tm.gang = none → s.parksNow t = true → s.Gets (.teamPark t) (s.park t) ∧ ∃ y, mget (s.park t).teams t = some y ∧ y.st = .parked) ∧
     (∀ g, tm.gang = some g → s.gangParksNow g = true →
       exec (.teamPark t) s = .next (((s.gangTeams g).foldl State.park s).updGang g fun x => { x with st := .parked })) ∧
     (∀ core u, s.nextParked core = some t →
       (tm.gang = none → s.unpark t = some u → s.Gets (.teamUnpark core) u) ∧
       (∀ g, tm.gang = some g → unparkAll (s.gangTeams g) s = some u → s.Gets (.teamUnpark core) (u.updGang g fun x => { x with st := .placed }))) ∧
     (tm.st = .draining → tm.preempted = false → tm.gang = none → (∀ j ∈ s.copies, j.2.team ≠ t) → (∀ k ∈ s.cmds, k.2.team ≠ t) →
       ∃ u, exec (.teamRetire t) s = .next u ∧ u.teams = mdel s.teams t ∧ (∀ x ∈ u.waves, x.2.team ≠ t) ∧
         (∀ x ∈ s.waves, x.2.team ≠ t → x ∈ u.waves) ∧
         ∀ g, mget s.grids tm.grid = some g → ∃ g', mget u.grids tm.grid = some g' ∧ g'.retiredTeams = g.retiredTeams + 1)) ∧
  (∀ (s : State) (core oct mode : Nat),
     (s.mayswitch core oct mode = true → (∀ d ∈ s.dev.drains, (d.1, d.2.1) ≠ (core, oct)) →
       s.Gets (.octantModeSwitch core oct mode) { s with dev := { s.dev with drains := s.dev.drains ++ [(core, oct, mode)] } }) ∧
     ((core, oct, mode) ∈ s.dev.drains → (∀ d ∈ s.dev.drains, (d.1, d.2.1) = (core, oct) → d.2.2 = mode) →
       let rest := s.dev.drains.filter fun d => !(d.1 == core && d.2.1 == oct)
       (s.mayswitch core oct mode = true → s.Gets (.octantDrainComplete core oct) { (s.octantPages core oct).foldl State.evict s with
         dev := { s.dev with drains := rest, octants := mset s.dev.octants core ((s.dev.octantModes core).set oct mode) } }) ∧
       (s.mayswitch core oct mode = false → s.Gets (.octantDrainComplete core oct) { s with dev := { s.dev with drains := rest } }))) ∧
  (∀ (s : State) (c : Nat) (x : Ctx), mget s.ctxs c = some x →
     (∀ k y, x.runs = true → x.residentSince + 1000000 ≤ s.now → (∃ t ∈ s.teams, s.teamCtx t.2 = c ∧ t.2.onCore = true) →
       (k, y) ∈ s.ctxs → x.desc.prio < y.desc.prio → y.desc.part = x.desc.part → s.starved k = true →
       s.Gets (.preempt c) (s.updCtx c fun z => { z with preempting := true, saved := false })) ∧
     (x.preempting = true → x.saved = false → s.canSave c = true →
       s.Gets (.preemptComplete c) ((((s.heldTeams c).foldl State.saveTeam s).updCtx c fun z => { z with saved := true }).errsMet c)) ∧
     (∀ u, s.restoreAll c = some u →
       let u' := u.updCtx c fun z => { z with preempting := false, saved := false, residentSince := u.now }
       s.Gets (.contextRestore c) ((u'.wavesOf c).foldl (State.boundaryAt false) u')))

/-! ## Queues and packets (R104 to R113, R130 to R144, R328, R398 to R401) -/

/-- R105, R106: a packet whose KIND is reserved or with a malformed field completes with status 0x08 and the byte offset; NOP and
SIGNAL are done at decode; FENCE and COPY go on; MEASURE, RECEIPT, ENERGY, MARKER, PSTEP, WAIT and FLOW do what their rules say. The offsets reported, marks, COPY past the address
space and a misaligned SIGADDR are the model's readings (logs 70, 136, 137, 139, 140; COPY ends by its event, log 78). -/
def Obligations.PacketsAreDecoded : Prop :=
  ∀ (s : State) (q : Nat) (x : Queue) (p : Pkt), s.Decodes q x p →
    let i := x.decode
    let c := x.ctx
    let s1 := s.copied q x p
    let opened := s1.updPkt q i fun y => { y with opening := false }
    let kind := fun (k : Nat) => p.malformed = none ∧ p.word 0 % 256 = k
    (∀ d, p.word 0 % 256 < 13 → p.malformed = some d →
      ∃ ev ∈ ([.nopPacket q, .launchPacket q, .graphPacket q, .flowStart q, .flowQuiesce q, .flowStop q, .copyPacket q, .signalPacket q,
          .waitPacket q, .pstepPacket q, .measurePacket q, .receiptPacket q, .fencePacket q, .energyBudget q, .energyAllowance q,
          .markerPacket q] : List Instr), s.Packet ev q (s1.pktDone q i 8 d)) ∧
    (13 ≤ p.word 0 % 256 → s.Packet (.reservedKindPacket q) q (s1.pktDone q i 8 0)) ∧
    (kind 0 → s.Packet (.nopPacket q) q (s1.pktDone q i 0 0)) ∧
    (kind 5 → s.Packet (.signalPacket q) q (s1.pktDone q i 0 0)) ∧
    (kind 10 → s.Packet (.fencePacket q) q opened) ∧
    (kind 4 → s.Packet (.copyPacket q) q opened) ∧
    (kind 8 → (s.ctx c).desc.meas = false → s.Packet (.measurePacket q) q (s1.pktDone q i 5 0)) ∧
    (kind 8 → (s1.ctx c).desc.meas = true → p.word 0x18 + p.word 0x20 ≤ 2 ^ 57 →
      s1.rangeFault c (p.word 0x18) (p.word 0x20) 0 = none → s1.inDevice c (p.word 0x18) (p.word 0x20) = true →
      s.Packet (.measurePacket q) q ((s1.recordBuf c (if p.word 0x28 = 1 then 4 else 3) 0 q (.packet q i)
        (p.word 0x18, p.word 0x20)).pktDone q i 0 0)) ∧
    (kind 9 → (s.ctx c).desc.rcpt = false → s.Packet (.receiptPacket q) q (s1.pktDone q i 3 0)) ∧
    (kind 9 → (s1.ctx c).desc.rcpt = true → s1.agentFault c (p.word 0x18) 4096 1 = none →
      let r := s1.receipt c (p.word 0x18) ((List.range 4).flatMap fun j => leBytes 8 (p.word (0x20 + 8 * j)))
      s.Packet (.receiptPacket q) q (r.2.pktDone q i (if r.1 then 0 else 4) 0)) ∧
    (let lim := if s1.dev.pairCard then (400000, 800000) else (600000, 1500000);
      ∀ mw, (s1.setBudget mw).2.energy.budget = max lim.1 (min lim.2 mw) ∧
        ((s1.setBudget mw).1 = true ↔ max lim.1 (min lim.2 mw) ≠ mw)) ∧
    (kind 11 → p.word 0x18 / 2 ^ 32 = 0 → x.priv = true →
      s.Packet (.energyBudget q) q ((s1.setBudget (p.word 0x18 % 2 ^ 32)).2.pktDone q i (bn (s1.setBudget (p.word 0x18 % 2 ^ 32)).1) 0)) ∧
    (kind 11 → p.word 0x18 / 2 ^ 32 = 0 → x.priv = false → s.Packet (.energyBudget q) q (s1.pktDone q i 5 0)) ∧
    (kind 11 → p.word 0x18 / 2 ^ 32 = 1 → x.priv = true →
      s.Packet (.energyAllowance q) q
        ((s1.updCtx c fun y => { y with desc := { y.desc with allow := p.word 0x18 % 2 ^ 32 } }).pktDone q i 0 0)) ∧
    (kind 12 → s1.agentFault c (x.ctl + 0x18) 8 1 = none →
      s.Packet (.markerPacket q) q ((s1.svwrite c (x.ctl + 0x18) (leBytes 8 (p.word 0x18))).pktDone q i 0 0)) ∧
    (∀ u, kind 7 → s1.stepRegion c (p.word 0x18) (bitAt (p.word 0) 18) (.packet q i) = .ok u →
      s.Packet (.pstepPacket q) q (u.pktDone q i 0 0)) ∧
    (kind 6 →
      let t := p.word 0x28
      let s2 := s1.updPkt q i fun y => { y with opening := false, deadline := if t = 0 then none else some (s1.now + t) }
      s2.rangeFault c (p.word 0x18) 8 0 = none →
      s.Packet (.waitPacket q) q
        (if waitCond (p.word 0x30) (s2.svnum c (p.word 0x18) 8) (p.word 0x20) then s2.pktDone q i 0 0 else s2)) ∧
    (kind 3 → p.word 0x38 % 4 = 0 → s.Packet (.flowStart q) q (s1.flowStart q i p)) ∧
    (∀ k f, kind 3 → p.word 0x38 % 4 = 1 → s1.flowNamed c (p.word 0x18) = some (k, f) → f.st = .running →
      s.Packet (.flowQuiesce q) q ((s1.updFlow k fun y => { y with st := .quiescing }).pktDone q i 0 0)) ∧
    (∀ k f, kind 3 → p.word 0x38 % 4 = 2 → s1.flowNamed c (p.word 0x18) = some (k, f) → f.st = .running ∨ f.st = .quiescing →
      s.Packet (.flowStop q) q ((s1.updFlow k fun y => { y with st := .quiescing, stops := y.stops ++ [(q, i)] }).updPkt q i
        fun y => { y with opening := false })) ∧
    (kind 1 → s.Packet (.launchPacket q) q (s1.launchPacket q i p)) ∧
    (kind 2 → s.Packet (.graphPacket q) q (s1.graphPacket q i p))

/-- R128, R130, R132, R133, R87: a LAUNCH whose checks pass makes one grid with the next launch id of its context: DECODED, with a ticket
for each of its gangs (R136, R150), or, while records of its code object, argument block or inputs wait for their append, SUBMITTED; a new
code object takes the next id. A failed check completes the packet with its status, and an image that passed its checks is registered (log
71); a failed child makes one EVENT record and its root fails. R133, R137,
R143: a grid whose last team and descendant have retired is RETIRED and its packet's work ends, with the cause of a failed
descendant if there is one; what its context spent since gives the average of its entry (R442, log 34); a graph's node does its work, completes and sends on its edges. -/
def Obligations.LaunchesMakeGridsThatRetire : Prop :=
  (∀ (s : State) (q i : Nat) (p : Pkt),
     let c := (s.queue q).ctx
     let args := p.word 0x20
     let len := p.word 0x28 % 2 ^ 32
     let chk := s.checkLaunch c (p.word 0x18) args len 0x0018 3
     let image := s.launchImage c (p.word 0x18) args len 0x0018
     let m := s.mflags c (p.word 0)
     (∀ l ins, (mget (s.queue q).pkts i).isSome = true → (mget s.queues q).isSome = true → (mget s.ctxs c).isSome = true →
       chk = .ok l → s.checkMarks c args len m (l.obj.entryMarks l.grid.entry) = .ok ins →
       (∀ r ∈ (s.ctx c).appends, r.waiter ≠ .grid s.key) →
       let u := s.launchPacket q i p
       let types := if (s.ctx c).desc.meas then
         (if l.new then [1] else []) ++ (if bitAt (p.word 0) 15 then [2] else []) ++ ins.map fun _ => 3 else []
       ∃ g rs, mget u.grids s.key = some g ∧ g.st = (if types = [] then .decoded else .submitted) ∧ g.origin = .packet q i ∧
         g.launch = (s.ctx c).nextLaunch ∧ g.teams = l.grid.teams ∧ g.entry = l.grid.entry ∧ g.ctx = c ∧ g.code = l.obj.addr ∧
         g.nextTeam = 0 ∧ g.retiredTeams = 0 ∧
         (u.ctx c).nextLaunch = (s.ctx c).nextLaunch + 1 ∧ (u.pkt q i).opening = false ∧ (u.pkt q i).launch = (s.ctx c).nextLaunch ∧
         (u.ctx c).appends = (s.ctx c).appends ++ rs ∧ rs.map (fun r => r.type) = types ∧ (∀ r ∈ rs, r.waiter = .grid s.key) ∧
         (l.new = false → g.codeId = l.obj.id) ∧
         (l.new = true → (s.ctx c).objs.length < 1024 → g.codeId = (s.ctx c).nextCode ∧ (u.ctx c).nextCode = (s.ctx c).nextCode + 1 ∧
           ∃ n, (u.ctx c).objs = (s.ctx c).objs ++ [{ l.obj with id := (s.ctx c).nextCode, lastUse := n }]) ∧
         (types = [] → l.grid.entry.gang ≠ 0 → ∀ j, j < (g.teams + g.entry.gang - 1) / g.entry.gang →
           ∃ x : Gang, mget u.gangs (s.key + 3 + j) = some x ∧ x.grid = s.key ∧ x.ticket = s.key + 3 + j ∧ x.st = .unplaced ∧ x.teams = [])) ∧
     (∀ code d, chk = .bad code d →
       (∀ b o, image = .ok (b, o, true) → (code, d) ≠ (8, 0x5000) →
         s.launchPacket q i p = (s.register c o true .none).2.pktDone q i code d) ∧
       ((∀ b o, image ≠ .ok (b, o, true)) ∨ (code, d) = (8, 0x5000) → s.launchPacket q i p = s.pktDone q i code d)) ∧
     (∀ k g t, mget s.grids k = some g → g.origin = .child t → g.st = .submitted → g.teams = 0 → s.awaits (.grid k) = false →
       (s.ctx g.ctx).st = .active →
       let prio := ((mget s.grids (g.parent.getD 0)).getD default).prio
       let image := s.launchImage g.ctx g.desc g.args g.arglen 0x0018
       (∀ code d, s.checkLaunch g.ctx g.desc g.args g.arglen 0x0018 prio = .bad code d →
         (∀ b o, image = .ok (b, o, true) → (code, d) ≠ (8, 0x5000) →
           s.Gets (.childGridDecode k) ((s.register g.ctx o true .none).2.childFail k)) ∧
         ((∀ b o, image ≠ .ok (b, o, true)) ∨ (code, d) = (8, 0x5000) → s.Gets (.childGridDecode k) (s.childFail k))) ∧
       (let u := s.childFail k
        u.grids.length + 1 = s.grids.length ∧
        (∀ x, mget s.ctxs g.ctx = some x → x.desc.meas = true →
          ∃ y r, mget u.ctxs g.ctx = some y ∧ y.appends = x.appends ++ [r] ∧ r.type = 8 ∧ r.aux % 256 = 0xA2) ∧
        ∀ z, s.rootOf 17 k ≠ k → mget s.grids (s.rootOf 17 k) = some z →
          ∃ z', mget u.grids (s.rootOf 17 k) = some z' ∧ z'.childFault = true) ∧
       (∀ l, s.checkLaunch g.ctx g.desc g.args g.arglen 0x0018 prio = .ok l → (mget s.ctxs g.ctx).isSome = true →
         (∀ r ∈ (s.ctx g.ctx).appends, r.waiter ≠ .grid k) →
         ∃ u g', exec (.childGridDecode k) s = .next u ∧ mget u.grids k = some g' ∧
           g'.st = (if l.new = true ∧ (s.ctx g.ctx).desc.meas = true then .submitted else .decoded) ∧ g'.origin = .child t ∧
           g'.parent = g.parent ∧ g'.launch = g.launch ∧ g'.depth = g.depth ∧ g'.teams = l.grid.teams ∧ g'.entry = l.grid.entry))) ∧
  ((∀ (s : State) (k q i : Nat) (g : Grid) (x : Queue) (p : Pkt), mget s.grids k = some g → s.gridOver k g = true →
     s.awaits (.grid k) = false → g.mResult = false → g.origin = .packet q i → (mget s.ctxs g.ctx).isSome = true →
     mget s.queues q = some x → mget x.pkts i = some p → p.done = none → p.bad = none →
     ∃ u y, exec (.gridRetire k) s = .next u ∧ u.grids = mdel s.grids k ∧ mget (u.queue q).pkts i = some y ∧
       y.done = some (if g.childFault then (7, 0xA2) else (0, 0)) ∧
       mget (u.ctx g.ctx).avgEst (256 * g.code + g.entryIx) = some (((s.ctx g.ctx).energy - g.e0) / max 1 g.teams)) ∧
   (∀ (s : State) (q i n : Nat) (p : Pkt) (nd : Node), mget (s.queue q).pkts i = some p → p.nodes[n]? = some nd →
     p.opening = false → p.done = none → s.awaits (.node q i n) = false → (s.ctx (s.queue q).ctx).st = .active →
     (nd.st = 1 → s.nodeBusy q i n nd = false → s.Gets (.graphNodeComplete q i n) (s.runNode q i n nd)) ∧
     (nd.st = 4 → s.nodeWaits q i n = false → exec (.graphNodeComplete q i n) s = .next (s.nodeDone q i n)) ∧
     (nd.st = 5 ∨ nd.st = 6 → exec (.graphNodeComplete q i n) s = .next (s.nodeDone q i n))))

/-- R106, R107, R112: a packet whose work has ended completes: STATUS, the signal, which every WAIT on it then reads, and the interrupt;
RETIRE over the completed packets; a failed packet, or a write that was lost, sends the queue to FAULTED. R108, R110, R112, R113: a WAIT
reads again and times out; the queue that comes first gets the lowest slot, is mapped when its control block is read, and leaves its slot
when its slice is spent, or idle for 100 µs, and another waits; a wake sets its latch bit and, with the event of it, changes the queue's
state and makes a WAIT read (R114, log 134). A packet that completes because its context went to FAULTED leaves no event of its own; the
context of a fault status in a retired frame goes to FAULTED (R277). When a WAIT reads, how a lost RETIRE counts and code as a
destination are logs 82, 142 and 143; when no packet is decoded log 79. -/
def Obligations.PacketsCompleteAndQueuesAreMapped : Prop :=
  (∀ (s : State) (q i code detail : Nat) (x : Queue) (p : Pkt), mget s.queues q = some x → mget x.pkts i = some p →
     (p.done = some (code, detail) → p.opening = false → p.stage = 0 → s.awaits (.pkt q i) = false → s.dev.pilotDown = none →
       s.pktWaits q i = false →
       let pass := fun (u : State) => u.updPkt q i fun y => { y with stage := y.stage + 1, lost := y.lost.orElse fun _ => none }
       let s1 := pass (s.svwrite x.ctx (x.slotAt i + 4) (leBytes 4 (statusWord code detail)))
       let s2 := pass (match p.signal with
         | some (a, op) => (s1.waitersOn x.ctx a).foldl (fun u k => u.postReread 1 k) (s1.putSignal x.ctx a op (p.word 0x10))
         | none => s1)
       let s3 := if bitAt (p.word 0) 21 then s2.irq x.irqMsg else s2
       s.agentFault x.ctx (x.slotAt i + 4) 4 1 = none → (∀ a op, p.signal = some (a, op) → s1.agentFault x.ctx a 8 (signalAcc op) = none) →
       s3.agentFault x.ctx (x.ctl + 0x10) 8 1 = none →
       s.Gets (.packetComplete q i) ((pass s3).finishPkt q i code detail)) ∧
     (let s1 := s.updQueue q fun y => { y with pkts := mdel y.pkts i, doneIdx := y.doneIdx ++ [i] }.advance (y.doneIdx.length + 1)
      let r := (s1.queue q).retire
      let s2 := if (s1.agentFault x.ctx (x.ctl + 0x10) 8 1).isNone then s1.svwrite x.ctx (x.ctl + 0x10) (leBytes 8 r) else s1
      let lose := fun (u : State) (code detail : Nat) =>
        let u1 := u.faultQueue q code detail i
        match (u1.agentFault x.ctx (x.ctl + 0x20) 8 1).bind (u1.goneFrame x.ctx ·) with
        | some pa => u1.frameLost x.ctx pa
        | none => u1
      let failed := s2.statusEvent x.ctx code detail i p.launch
      let s3 := if p.kind = 1 then (lose failed code detail).launchLost x.ctx else lose failed code detail
      let bad := p.ctxDown = false ∧ (code = 7 ∨ code = 8)
      (x.retire ≤ r ∧ (∀ k, x.retire ≤ k → k < r → k = i ∨ k ∈ x.doneIdx) ∧ r ≠ i ∧ r ∉ x.doneIdx) ∧
      (p.lost = none → ¬ bad → s.finishPkt q i code detail = s2.settleQueue q) ∧
      (p.lost = none → bad → s.finishPkt q i code detail = s3.settleQueue q) ∧
      (∃ y, mget (failed.faultQueue q code detail i).queues q = some y ∧ y.st = .faulted ∧ y.slot = none ∧
        y.faultStatus = BitVec.ofNat 64 (statusWord code detail + i % 2 ^ 32 * 2 ^ 32)) ∧
      (∀ k, p.lost = some k →
        (¬ bad → (s.ctx x.ctx).st ≠ .faulted → s.finishPkt q i code detail = (lose (s2.statusEvent x.ctx 7 k i p.launch) 7 k).settleQueue q) ∧
        (¬ bad → (s.ctx x.ctx).st = .faulted → s.finishPkt q i code detail = (s2.statusEvent x.ctx 7 k i p.launch).settleQueue q) ∧
        (bad → s.finishPkt q i code detail = (s3.statusEvent x.ctx 7 k i p.launch).settleQueue q)))) ∧
  (∀ (s : State) (q : Nat) (x : Queue), mget s.queues q = some x →
     (∀ i p, x.waiting = some (i, p) → s.awaits (.pkt q i) = false →
       (s.rangeFault x.ctx (p.word 0x18) 8 0 = none → s.Gets (.waitReread q)
         (if waitCond (p.word 0x30) (s.svnum x.ctx (p.word 0x18) 8) (p.word 0x20) then s.pktDone q i 0 0 else s)) ∧
       (∀ f, s.rangeFault x.ctx (p.word 0x18) 8 0 = some f → resolvable f.kind = true → s.Gets (.waitReread q)
         ((s.updPkt q i fun y => { y with onFail := (7, f.cause) }).cpWait x.ctx f 0 (.pkt q i))) ∧
       (∀ f, s.rangeFault x.ctx (p.word 0x18) 8 0 = some f → resolvable f.kind = false → s.goneFrame x.ctx f = none →
         s.Gets (.waitReread q) (s.pktDone q i 7 f.cause))) ∧
     (∀ i p t, x.waiting = some (i, p) → p.deadline = some t → t ≤ s.now → s.Gets (.waitTimeout q) ((s.giveUp (.pkt q i)).pktDone q i 2 0)) ∧
     (∀ n, s.dev.pilotDown = none → s.freeHwSlot = some n → s.nextQueue = some q →
       s.Gets (.queueSlotGrant q) (({ s with host := { s.host with latch := s.host.latch.filter (· != q) } } : State).updQueue q fun y =>
         { y with st := .mapping, slot := some n }) ∧ n < 256 ∧ (∀ y ∈ s.queues, y.2.slot ≠ some n) ∧
         (∀ m, m < n → ∃ y ∈ s.queues, y.2.slot = some m)) ∧
     (s.nextQueue = some q → (∀ y ∈ s.queues, s.qprio y.2 ≤ 3 ∧ y.2.mappedAt < 2 ^ 80 ∧ y.1 < 4096) → (s.queues.map (·.1)).Nodup →
       x.st = .runnableUnmapped ∧ ∀ y ∈ s.queues, y.2.st = .runnableUnmapped →
         s.qprio y.2 < s.qprio x ∨ s.qprio y.2 = s.qprio x ∧ (x.mappedAt < y.2.mappedAt ∨ x.mappedAt = y.2.mappedAt ∧ q ≤ y.1)) ∧
     (x.st = .mapping → s.awaits (.queue q) = false → s.dev.pilotDown = none → s.rangeFault x.ctx x.ctl 8 0 = none →
       s.agentFault x.ctx (x.ctl + 8) 32 1 = none →
       let w := s.svnum x.ctx x.ctl 8
       s.Gets (.queueMappingDone q) (((s.updQueue q fun y => { y with
         write := w, mappedAt := s.now, idleAt := s.now, st := if x.decode < w then .mappedActive else .mappedIdle }).updCtx x.ctx fun c =>
           if c.st = .created then { c with st := .active } else c).settleQueue q)) ∧
     (x.st = .mappedIdle ∨ x.st = .mappedActive → x.mappedAt + 1000000 ≤ s.now ∨ x.st = .mappedIdle ∧ x.idleAt + 100000 ≤ s.now →
       (∀ p ∈ x.pkts, p.2.opening = false) → (∃ y ∈ s.queues, y.2.st = .runnableUnmapped ∧ s.qprio x ≤ s.qprio y.2) →
       s.dev.pilotDown = none → s.Gets (.queueUnmap q) (s.updQueue q fun y => { y with st := .unmapping, unmapTo := .unmapped })) ∧
     (x.st = .unmapping → s.dev.pilotDown = none →
       s.Gets (.queueUnmapDone q) (s.updQueue q fun y => { y with slot := none, st := match x.unmapTo with
         | .unmapped => if s.host.latch.contains q ∨ x.decode < x.write then .runnableUnmapped else .idleUnmapped
         | .suspended => .suspended
         | .destroyed => .destroyed })) ∧
     (s.hostOpen = true → s.Gets (.wakeRegisterWrite q) (s.wakeQueue q)) ∧
     (s.hostOpen = false → (s.hostUp = true ∨ (s.ports.getD 0 default).st = .retraining) →
       exec (.wakeRegisterWrite q) s = .next { s with host := { s.host with waiting := s.host.waiting ++ [.wake q] } }) ∧
     (s.hostUp = false → (s.ports.getD 0 default).st ≠ .retraining → exec (.wakeRegisterWrite q) s = .next s) ∧
     (x.st = .destroyed → s.wakeQueue q = s) ∧
     (x.st ≠ .destroyed → s.wakeQueue q = { s with host := { s.host with
       latch := if q ∈ s.host.latch then s.host.latch else s.host.latch ++ [q],
       events := s.host.events ++ [{ kind := 0, queue := some q, act := .wake q }] } }) ∧
     (let u := (s.settleQueue q).tick;
      ((u.queue q).waiting = none → s.takeWake q = u) ∧
      (∀ i p, (u.queue q).waiting = some (i, p) → u.awaits (.pkt q i) = false → s.takeWake q = u.waitRead q i p)))

/-! ## The host: mailbox, contexts, queues, translation (R74 to R79, R83 to R85, R95 to R102, R112, R116 to R118, R278 to R281, R387, R429) -/

/-- R116: an entry whose opcode is unassigned, with a bit set outside its operands, or with an address out of range or misaligned,
completes malformed with 0x8000 plus the offset of its least failing field, and one whose descriptor fails with that field's offset; a write of the ring's registers sets its base or the submitted count. R74 to R79, R83, R95: a descriptor that
passes makes a CREATED context with its chain's head, its log's digest written when it measures; SUSPEND and DESTROY of an ACTIVE
context quiesce it; RESUME, DESTROY, RECEIPT and PARTITION act in the states that allow them, and answer 0x06 or 0x09 in the others.
R77, R437: a context that is QUIESCING and saved, with nothing running, becomes SUSPENDED, or DESTROYED and scrubbed, and its
command completes; DESTROYED leaves it nothing. The addresses, the offsets, the log at CREATE, the destination of a receipt and what
becomes of queues are the model's readings (logs 20, 83, 84, 85, 86, 138). -/
def Obligations.MailboxAndContextCommands : Prop :=
  (∀ (s : State),
     (∀ op e, s.Command op (fun _ => 255) e → ([1, 2, 3, 4, 5, 6, 0x10, 0x11, 0x12, 0x20, 0x21, 0x22] : List Nat).contains op = false →
       s.Answers .unassignedMailboxOpcode s 8 0x8000) ∧
     (∀ v, s.hostOpen = true → s.Gets (.mbxbaseWrite v) { s with host := { s.host with mbxbase := v, submitted := 0, taken := 0 } }) ∧
     (∀ v, s.hostOpen = true → s.host.taken < v.toNat →
       s.Gets (.mbxdoorWrite v) { s with host := { s.host with submitted := v.toNat } }) ∧
     (∀ v, s.hostOpen = true → v.toNat ≤ s.host.taken → s.Gets (.mbxdoorWrite v) s) ∧
     (∀ code detail, let u := s.mbxDone code detail
       u.host.taken = s.host.taken + 1 ∧ u.mem = s.mem ∧
         u.hostMem = writeCells s.hostMem (s.host.mbxbase.toNat + 64 * (s.host.taken % 256) + 4)
           (leBytes 4 (0x80000000 + code % 128 * 0x10000 + detail % 0x10000)))) ∧
  (∀ (s : State) (e : List Byte),
     let id8 := fun (k : Nat) => if k = 8 then 255 else if k = 9 then 15 else 0
     let op8 := fun (k : Nat) => if 8 ≤ k ∧ k < 16 then 255 else 0
     let key := fun (k : Nat) => if 8 ≤ k ∧ k < 24 then 255 else 0
     let rc := fun (k : Nat) => if 32 ≤ k ∧ k < 64 then 255 else if 16 ≤ k ∧ k < 24 then 255 else id8 k
     let a := leNat ((e.drop 8).take 8)
     (∀ (i : Instr) (op : Nat) (operands : Nat → Nat) (k : Nat),
       (i, op, operands) ∈ [(.createContext, 1, op8), (.suspend, 2, id8), (.resume, 3, id8), (.destroy, 4, id8), (.receiptContext, 5, rc),
         (.partition, 6, fun k => if k = 8 then 7 else if k = 12 then 255 else 0), (.createQueue, 0x10, op8), (.destroyQueue, 0x11, id8),
         (.resetQueue, 0x12, id8), (.logbookRead, 0x20, op8), (.logbookClear, 0x21, fun _ => 0), (.keyRead, 0x22, key)] →
       s.Entry op e → stray operands e k → (∀ j, j < k → ¬ stray operands e j) →
       ∃ d, s.Answers i s 8 (0x8000 + d) ∧ d ≤ k ∧
         (d = k ∨ 8 ≤ d ∧ i ∈ [.createContext, .receiptContext, .createQueue, .logbookRead, .keyRead])) ∧
     (s.Command 1 op8 e → ¬ (a % 128 = 0 ∧ s.dev.base ≤ a ∧ a + 128 ≤ s.dev.base + Config.hbmBytes) → s.Answers .createContext s 8 0x8008) ∧
     (s.Command 0x10 op8 e → ¬ (a % 64 = 0 ∧ s.dev.base ≤ a ∧ a + 64 ≤ s.dev.base + Config.hbmBytes) → s.Answers .createQueue s 8 0x8008) ∧
     (s.Command 0x20 op8 e → ¬ (a % 4096 = 0 ∧ a + 0x100000 ≤ 2 ^ 52) → s.Answers .logbookRead s 8 0x8008) ∧
     (s.Command 5 rc e → ¬ (leNat ((e.drop 16).take 8) % 4096 = 0 ∧ leNat ((e.drop 16).take 8) + 4096 ≤ 2 ^ 57) →
       s.Answers .receiptContext s 8 0x8010) ∧
     (∀ d off, s.Command 1 op8 e → a % 128 = 0 → s.dev.base ≤ a → a + 128 ≤ s.dev.base + Config.hbmBytes → d = s.pread false a 128 →
       s.cmdPending (leNat ((d.drop 8).take 2) % 4096) = false → (s.descChecks d).find? (fun x => !x.1) = some (false, off) →
       s.Answers .createContext s 8 off) ∧
     (∀ d off, s.Command 0x10 op8 e → a % 64 = 0 → s.dev.base ≤ a → a + 64 ≤ s.dev.base + Config.hbmBytes → d = s.pread false a 64 →
       (queueChecks d).find? (fun x => !x.1) = some (false, off) → s.Answers .createQueue s 8 off)) ∧
  (∀ (s : State) (e : List Byte),
     let id8 := fun (k : Nat) => if k = 8 then 255 else if k = 9 then 15 else 0
     let op8 := fun (k : Nat) => if 8 ≤ k ∧ k < 16 then 255 else 0
     let c := leNat ((e.drop 8).take 2) % 4096
     let st := s.ctxSt c
     (∀ a d id, s.Command 1 op8 e → leNat ((e.drop 8).take 8) = a → a % 128 = 0 → s.dev.base ≤ a → a + 128 ≤ s.dev.base + Config.hbmBytes →
       d = s.pread false a 128 → id = leNat ((d.drop 8).take 2) % 4096 → s.cmdPending id = false →
       (∀ x ∈ s.descChecks d, x.1 = true) →
       let x := ctxDescOf d
       let s1 := { s with ctxs := mset s.ctxs id (s.newCtx id x), keys := { s.keys with creates := s.keys.creates + 1 } }
       let s2 := if x.pairctx then s1.record1 id { type := 7, subject := s.keys.fwVersion.toNat, addr := 0, len := 0, aux := 1,
                                                   digest := s.dev.peerDigest, waiter := .none } else s1
       (x.meas = false → s.Answers .createContext s2 0 0) ∧
       (x.meas = true → s1.rangeFault id (x.logbase + 16) 48 1 = none →
         s.Answers .createContext (s2.svwrite id (x.logbase + 16) (digestBytes s.keys.fwDigest)) 0 0) ∧
       (s.newCtx id x).st = .created ∧ (s.newCtx id x).desc = x ∧ (s.newCtx id x).count = 0 ∧ (s.newCtx id x).summary = 0 ∧
       (s.newCtx id x).chain = chainHead0 id x.part (s.dev.mask x.part).toNat s.keys.fwDigest x.nonce) ∧
     (s.Command 2 id8 e → s.cmdPending c = false → st = .active → s.Gets .suspend (s.quiesce c false)) ∧
     (s.Command 4 id8 e → s.cmdPending c = false → st = .active → s.Gets .destroy (s.quiesce c true)) ∧
     (∀ x b, mget s.ctxs c = some x → let u := s.quiesce c b;
       (∃ y, mget u.ctxs c = some y ∧ y.st = .quiescing ∧ y.cmd = some { slot := s.host.taken, destroy := b } ∧ y.preempting = true ∧
         y.saved = false) ∧ u.host.taken = s.host.taken + 1 ∧
         ∀ k y, mget s.queues k = some y → mget u.queues k = some (if y.ctx = c then y.suspend else y)) ∧
     (s.Command 2 id8 e → s.cmdPending c = false → st ≠ .active → s.Answers .suspend s 6 0) ∧
     (s.Command 3 id8 e → s.cmdPending c = false → st = .suspended →
       s.Answers .resume { (s.updCtx c fun x => { x with st := .active }) with
         queues := mmap s.queues fun k y => if y.ctx = c ∧ y.st = .suspended then { y with st := s.unmapped k } else y } 0 0) ∧
     (s.Command 3 id8 e → s.cmdPending c = false → st ≠ .suspended → s.Answers .resume s 6 0) ∧
     (s.Command 4 id8 e → s.cmdPending c = false → (mget s.ctxs c).isSome = true → st = .created ∨ st = .suspended ∨ st = .faulted →
       s.Answers .destroy (s.scrub c) 0 0) ∧
     (s.Command 4 id8 e → s.cmdPending c = false → st = .destroyed ∨ st = .quiescing → s.Answers .destroy s 6 0) ∧
     (s.Command 5 (fun k => if 32 ≤ k ∧ k < 64 then 255 else if 16 ≤ k ∧ k < 24 then 255 else id8 k) e → s.cmdPending c = false →
       let dest := leNat ((e.drop 16).take 8)
       dest % 4096 = 0 → dest + 4096 ≤ 2 ^ 57 →
       (st ≠ .faulted → s.Answers .receiptContext s 6 0) ∧
       (st = .faulted → (s.ctx c).desc.rcpt = false → s.Answers .receiptContext s 3 0) ∧
       (st = .faulted → (s.ctx c).desc.rcpt = true → s.agentFault c dest 4096 1 = none → (∀ r ∈ (s.ctx c).appends, r.type ≠ 8) →
         let r := s.receipt c dest ((e.drop 32).take 32)
         s.Answers .receiptContext r.2 (if r.1 then 0 else 4) 0)) ∧
     (s.Command 6 (fun k => if k = 8 then 7 else if k = 12 then 255 else 0) e →
       let m := BitVec.ofNat 8 (leNat ((e.drop 12).take 1))
       let new := mapIx (fun i x => if i = leNat ((e.drop 8).take 1) then m else x &&& ~~~m) 0 s.dev.masks
       ((∀ x ∈ s.ctxs, x.2.st = .destroyed ∨ new.getD x.2.desc.part 0 = s.dev.masks.getD x.2.desc.part 0) →
         s.Answers .partition { s with dev := { s.dev with masks := new } } 0 0) ∧
       ((∃ x ∈ s.ctxs, x.2.st ≠ .destroyed ∧ new.getD x.2.desc.part 0 ≠ s.dev.masks.getD x.2.desc.part 0) →
         s.Answers .partition s 9 0))) ∧
  (∀ (s : State) (c : Nat) (x : Ctx), mget s.ctxs c = some x →
     (∀ k, x.st = .quiescing → x.saved = true → (∀ y ∈ s.cmds, y.2.ctx = c → y.2.st ≠ .running) → s.heldTeams c = [] →
       x.cmd = some k →
       ∃ u y, exec (.contextQuiesced c) s = .next u ∧ mget u.ctxs c = some y ∧ y.st = (if k.destroy then .destroyed else .suspended) ∧
         y.cmd = none ∧ u.hostMem = writeCells s.hostMem (s.host.mbxbase.toNat + 64 * (k.slot % 256) + 4) (leBytes 4 0x80000000)) ∧
     (let u := s.scrub c;
       (∃ y, mget u.ctxs c = some y ∧ y.st = .destroyed ∧ y.appends = [] ∧ y.regions = [] ∧ y.objs = [] ∧ y.chain = x.chain) ∧
       (∀ w ∈ u.waves, w.2.ctxn ≠ c) ∧ (∀ g ∈ u.grids, g.2.ctx ≠ c) ∧ (∀ f ∈ u.flows, f.2.ctx ≠ c) ∧ (∀ r ∈ u.recs, r.2.ctx ≠ c) ∧
       (∀ t ∈ u.page.tlb, t.ctx ≠ c) ∧ (∀ q ∈ u.queues, q.2.ctx = c → q.2.st = .destroyed) ∧ u.mem = s.mem))

/-- R102, R112, R117, R118: queues are created, destroyed and reset; the Logbook and the key store are read. R84, R85, R98 to R100:
a record that waits enters the chain, then the log, which a full log holds back; a new alias generation is prepared; a leaf is taken
once. The model's readings: logs 87 to 91, 20, 110, 120 and 138. -/
def Obligations.QueueAndServiceCommandsAndTheChain : Prop :=
  (∀ (s : State) (e : List Byte),
     let id8 := fun (k : Nat) => if k = 8 then 255 else if k = 9 then 15 else 0
     let op8 := fun (k : Nat) => if 8 ≤ k ∧ k < 16 then 255 else 0
     let q := leNat ((e.drop 8).take 2) % 4096
     (∀ a d n, s.Command 0x10 op8 e → leNat ((e.drop 8).take 8) = a → a % 64 = 0 → s.dev.base ≤ a → a + 64 ≤ s.dev.base + Config.hbmBytes →
       d = s.pread false a 64 → n = leNat ((d.drop 8).take 2) % 4096 → (∀ x ∈ queueChecks d, x.1 = true) →
       let c := bits (leNat ((d.drop 8).take 8)) 31 20
       let ctl := leNat ((d.drop 16).take 8)
       s.cmdPending c = false → s.ctxSt c = .created ∨ s.ctxSt c = .active ∨ s.ctxSt c = .suspended →
       (∀ x, mget s.queues n = some x → x.st = .destroyed) → s.rangeFault c ctl 8 0 = none → s.agentFault c (ctl + 8) 32 1 = none →
       let x := queueOf d c (s.svnum c ctl 8)
       s.Answers .createQueue
         (({ (s.svwrite c (ctl + 8) (List.replicate 32 0)) with queues := mset s.queues n x } : State).unlatch n) 0 0 ∧
       x.st = .idleUnmapped ∧ x.decode = 0 ∧ x.retire = 0) ∧
     (∀ x, s.Command 0x11 id8 e → mget s.queues q = some x → x.st ≠ .destroyed → x.retire < x.decode → s.Answers .destroyQueue s 9 0) ∧
     (∀ x, s.Command 0x11 id8 e → mget s.queues q = some x → x.decode ≤ x.retire →
       x.st = .idleUnmapped ∨ x.st = .runnableUnmapped ∨ x.st = .suspended ∨ x.st = .faulted →
       s.Answers .destroyQueue ((s.updQueue q fun y => { y with st := .destroyed, slot := none }).unlatch q) 0 0) ∧
     (∀ x, s.Command 0x11 id8 e → mget s.queues q = some x → x.decode ≤ x.retire → x.st = .mappedIdle ∨ x.st = .mappedActive →
       s.Answers .destroyQueue (s.updQueue q fun y => { y with st := .unmapping, unmapTo := .destroyed }) 0 0) ∧
     (∀ x, s.Command 0x11 id8 e → mget s.queues q = some x → x.decode ≤ x.retire → x.st = .mapping ∨ x.st = .unmapping →
       s.Answers .destroyQueue s 6 0) ∧
     (∀ x, s.Command 0x12 id8 e → mget s.queues q = some x → x.st ≠ .faulted ∨ s.ctxSt x.ctx = .faulted → s.Answers .resetQueue s 6 0) ∧
     (∀ x, s.Command 0x12 id8 e → mget s.queues q = some x → x.st = .faulted → s.ctxSt x.ctx ≠ .faulted →
       s.rangeFault x.ctx x.ctl 8 0 = none → s.agentFault x.ctx (x.ctl + 8) 32 1 = none →
       ∃ u y, exec .resetQueue s = .next u ∧ mget u.queues q = some y ∧ y.pkts = [] ∧ y.faultStatus = 0 ∧
         y.decode = s.svnum x.ctx x.ctl 8 ∧ y.retire = s.svnum x.ctx x.ctl 8) ∧
     (∀ a, s.Command 0x20 op8 e → leNat ((e.drop 8).take 8) = a → a % 4096 = 0 → a + 0x100000 ≤ 2 ^ 52 →
       s.Answers .logbookRead (s.pwrite true a s.host.logbook) 0 0) ∧
     (s.Command 0x21 (fun _ => 0) e → s.Answers .logbookClear { s with host := { s.host with logCount := 0 } } 0 0) ∧
     (∀ item gen a, s.Command 0x22 (fun k => if 8 ≤ k ∧ k < 24 then 255 else 0) e → leNat ((e.drop 8).take 1) = item → item ≤ 3 →
       leNat ((e.drop 9).take 3) = 0 → leNat ((e.drop 12).take 4) = gen →
       (if item = 2 then (mget s.keys.genDigests gen).isSome = true else gen = 0) → leNat ((e.drop 16).take 8) = a → a % 4096 = 0 →
       a + 0x4000 ≤ 2 ^ 52 →
       s.Answers .keyRead (s.pwrite true a (leBytes 8 (s.keys.item item gen).length ++ leBytes 8 0 ++ s.keys.item item gen)) 0 0)) ∧
  (∀ (s : State) (c : Nat) (x : Ctx) (r : ChainRec) (rest : List ChainRec), mget s.ctxs c = some x → x.appends = r :: rest → s.serviceTested 0x9A = false →
     (∀ f ∈ s.page.faults, f.ctx = c → FaultAgent.log ∉ f.agents) → s.logFault c = none →
     let r' := if r.type = 8 then { r with subject := x.events } else r
     (s.logFull c = true → exec (.chainAppend c) s = .next s) ∧
     (s.logFull c = false → (∀ v t ds, r.waiter ≠ .flight v t ds) → ∃ u y, exec (.chainAppend c) s = .next u ∧ mget u.ctxs c = some y ∧
       y.chain = digestOf (sha384 (digestBytes x.chain ++ leBytes 1 r'.type ++ r'.meta x.count ++ digestBytes r'.digest)) ∧
       y.count = x.count + 1 ∧ y.appends = rest ∧
       (r.type = 8 → y.events = x.events + 1 ∧ y.summary = if x.summary.toNat % 65536 = 0xFFFF then x.summary else x.summary + 1) ∧
       (r.type ≠ 8 → y.events = x.events ∧ y.summary = x.summary) ∧
       u.mem = (s.logAppend c r).mem ∧ u.hostMem = (s.logAppend c r).hostMem) ∧
     (∀ v t ds, s.logFull c = false → r.waiter = .flight v t ds → s.Gets (.chainAppend c)
       ((((((s.logAppend c r).updCtx c (·.append r)).landOn v t (ds.map fun w => { w with val := BitVec.ofNat 32 (x.count % 2 ^ 28) })).boundaryAt
         false v).settleGrids c).settleFlows c))) ∧
  (∀ s : State,
     let k := s.keys
     let ok := fun (i : Nat) => Config.flashWriteOk (k.flashWrites + i)
     (k.spare = none → k.owed = false → 2 ^ 40 < k.leaf + 2 ^ 24 →
       (∀ i, i < 3 → ok i = true → (∀ j, j < i → ok j = false) → ∃ u r, exec .aliasGenerationCreate s = .next u ∧ { u with keys := k } = s ∧
         u.keys.spare = some (k.newest + 1) ∧ u.keys.idLeaf = k.idLeaf + 1 ∧ mget u.keys.genDigests (k.newest + 1) = some k.fwDigest ∧
         mget u.keys.genLeaves (k.newest + 1) = some k.idLeaf ∧ u.keys.flashWrites = k.flashWrites + i + 1 ∧ r ∈ u.keys.idFlash ∧
         r.gen = 0 ∧ r.limit = k.idLeaf + 1 ∧ r.crc = crc32 r.bytes) ∧
       ((∀ i, i < 3 → ok i = false) →
         exec .aliasGenerationCreate s = .next { s with keys := { k with flashWrites := k.flashWrites + 3 } })) ∧
     (∀ l k', k.takeLeaf = (some l, k') → k'.leaf = l + 1 ∧ l < k'.limit ∧ (k.owed = false → k.leaf < 2 ^ 40 → l = k.leaf ∧ k'.gen = k.gen)) ∧
     (∀ k', k.owed = false → k.leaf < 2 ^ 40 → k.takeLeaf = (none, k') →
       k.limit ≤ k.leaf ∧ (∀ i, i < 3 → ok i = false) ∧ k' = { k with flashWrites := k.flashWrites + 3 }))

/-- R278 to R282, R387, R429: an answer goes to every agent of its record; an invalidation removes what it names when it completes, behind
the stores that used it; a walk that ends fills the agent's caches, whose sizes hold, or writes a record; the registers take what is
written. Which entry a full cache drops, the numbers of agents, the event of an answer and records of measured buffers are logs 96, 99,
134 and 145; the lanes of an answered page log 169. -/
def Obligations.TranslationEventsAndHostRegisters : Prop :=
  ∀ (s : State),
    (∀ tok f, s.hostOpen = true → s.faultNamed tok = some f →
      let rest := fun (u : State) => { u with page := { u.page with faults := u.page.faults.filter fun g => g.token != tok } }
      s.Gets (.pfresolveRetry tok) (f.agents.foldl (State.answerAgent true f) (rest s)) ∧
      s.Gets (.pfresolveFail tok) (f.agents.foldl (State.answerAgent false f) (rest (s.failEvent f))) ∧
      (s.onMeasured f = false → s.failEvent f = s)) ∧
    (∀ (retry : Bool) (f : FaultRec) (a : FaultAgent),
      (∀ q, s.pilotAgent a = some q → s.answerAgent retry f a = { s with host := { s.host with
        events := s.host.events ++ [{ kind := 2, queue := q, act := .answer retry f a }] } }) ∧
      (∀ w v, a = .wave w → mget s.waves w = some v → f.token ∈ v.faultWait →
        ∃ x, mget (s.answerAgent retry f a).waves w = some x ∧
          x.faultWait = (if retry then v.faultWait.filter fun t => t != f.token else []) ∧
          (retry = true → v.faultWait = [f.token] → x.pend = []) ∧ (retry = false → x.pend = v.pend.filter fun p => p.1 == f.token))) ∧
    (∀ tok, s.hostOpen = true → s.faultNamed tok = none → s.Gets (.pfresolveRetry tok) s ∧ s.Gets (.pfresolveFail tok) s) ∧
    (∀ v, s.hostOpen = true →
      let u := { s with page := { s.page with invs := s.page.invs ++ [(s.page.invaddr, v)] } }
      (v.getLsbD 16 = false → s.Gets (.invalidateRange v) u) ∧ (v.getLsbD 16 = true → s.Gets (.invalidateContext v) u)) ∧
    (∀ a v rest, s.page.invs = (a, v) :: rest → s.storesOwed a.toNat v.toNat = true → exec .invalidationComplete s = .next s) ∧
    (∀ a v rest, s.page.invs = (a, v) :: rest → s.storesOwed a.toNat v.toNat = false →
      ∃ u, exec .invalidationComplete s = .next u ∧ u.page.invs = rest ∧
      u.page.invdone = (s.page.invdone + 1) % 2 ^ 64 ∧ ∀ t, t ∈ u.page.tlb ↔ t ∈ s.page.tlb ∧
        ¬ (t.ctx = v.toNat % 4096 ∧ (v.getLsbD 16 = true ∨
          (t.va < a.toNat + pageSize (bits v.toNat 15 12) ∧ a.toNat < t.va + t.size)))) ∧
    (∀ v, s.hostOpen = true →
      s.Gets (.hostRegisterWrite 0x2000 v) { s with page := { s.page with pfrbase := v } } ∧
      s.Gets (.hostRegisterWrite 0x2010 v) (({ s with page := { s.page with pfrtail := v } } : State).flushRing) ∧
      s.Gets (.hostRegisterWrite 0x2020 v) { s with page := { s.page with invaddr := v } } ∧
      ∀ off, off ≠ 0x2000 → off ≠ 0x2010 → off ≠ 0x2020 → s.Gets (.hostRegisterWrite off v) s) ∧
    (∀ c va acc agent x, mget s.ctxs c = some x → x.st ≠ .destroyed → va < 2 ^ 57 → acc < 4 → s.cached c va (agentOf agent) = none →
      (∀ sys pa p, walk s c x.desc.part va acc 4 x.desc.asroot = .ok sys pa p →
        s.Gets (.pageWalkComplete c va acc agent) (s.fill (agentOf agent) p)) ∧
      (∀ k lv sz, walk s c x.desc.part va acc 4 x.desc.asroot = .bad k lv sz →
        (resolvable k = true → s.Gets (.pageWalkComplete c va acc agent)
          (s.raiseFault c { va := va, kind := k, level := lv, size := sz } acc (if agent < 256 then agent else 0xFF)
            (if agent < 256 then agent / 4 else agent % 256) .service).2) ∧
        (resolvable k = false → exec (.pageWalkComplete c va acc agent) s = .next s))) ∧
    (∀ ag p, let u := s.fill ag p;
      let held := fun (t : State) (o : Nat) => (t.page.tlb.filter fun x => x.owner == o).length
      (ag < 256 → { p with owner := ag } ∈ u.page.tlb ∧ ∃ t ∈ u.page.tlb, t.owner = 256 + ag / 4 ∧ t.ctx = p.ctx ∧ t.va = p.va) ∧
      (256 ≤ ag → ag < svc → { p with owner := ag } ∈ u.page.tlb) ∧ (svc ≤ ag → u = s) ∧
      ∀ o, held s o ≤ (if o < 256 then 64 else 4096) → held u o ≤ (if o < 256 then 64 else 4096)) ∧
    (∀ v, s.hostOpen = true →
      let n := v.toNat % 512
      let free := ∀ c ∈ s.ctxs, c.2.st = .destroyed
      let size := n % 32 = 0 ∧ 32 ≤ n ∧ n ≤ 256
      (free → size → s.Gets (.rssizeWrite v) { s with host := { s.host with rssize := n } }) ∧
      (¬ free ∨ ¬ size → s.Gets (.rssizeWrite v) s)) ∧
    (∀ v, s.hostOpen = true → ∃ u, exec (.dbgstopWrite v) s = .next u ∧ ∀ w x, mget s.waves w = some x →
      mget u.waves w = some (if x.ctxn = v.toNat % 4096 then { x with dbg := { x.dbg with stopPending := true } } else x))

/-! ## Links, energy, errors, the Pilot complex, power (R13, R14, R16, R81, R84, R99 to R101, R118, R119, R277, R410 to R424, R439 to R447) -/

/-- R417, R418: a flit made has its fields, reserved ones zero, and a CRC that holds. A message goes out at once while the port is open with
fewer than 512 unacknowledged flits, else it waits; a flit in order with a good CRC is taken, its message acknowledged, and what it
acknowledges is kept no longer; any other is answered with a NAK; a NAK sends again all that follows it. Sixteen replays within 1 ms
retrain the port (R422). The sequence numbers, the credits returned and the reserved fields are the model's reading (log 158).
R422 to R424: a port trains, retrains, times out and, its traffic drained, is taken down: its states, times and counts, and the word
the host reads of it; a FAILED or DOWN host port sends the ACTIVE contexts to FAULTED with cause 0xA4, and after a FAILED one the package
is reset (R447, log 148); a lost Hawser port's messages go over the other, and with both lost, or the other package reset, the pair breaks:
its contexts fault (R14, R423; the unit of the cause 0xAE is log 161). R410: a dropped packet waits longer each time and is escalated at
the fifth; one under way is acknowledged, escalated ones oldest first (log 95). R415, R416: the host reads and writes device memory at the
decoder's base (log 159), outside loaded code (log 132); while its port retrains its accesses wait (R422). The CRC's convention, closed ports, retrains and types of flits are logs 18, 92, 93
and 94; what a broken pair's addresses reach is log 147. -/
def Obligations.LinksAndHostAccesses : Prop :=
  (∀ (seq type ack cred : Nat) (m : BitVec 1920),
     let f := (flitOf seq type ack cred m).toNat
     flitOk (flitOf seq type ack cred m) = true ∧ bits f 9 0 = seq % 1024 ∧ bits f 13 10 = type % 16 ∧ bits f 15 14 = 0 ∧
       bits f 25 16 = ack % 1024 ∧ bits f 31 26 = 0 ∧ bits f 39 32 = cred % 256 ∧ bits f 47 40 = cred / 256 % 256 ∧ bits f 63 48 = 0 ∧
       bits f 1983 64 = m.toNat) ∧
  (∀ (x : Port) (cred now : Nat) (m : Nat × BitVec 1920) (f : BitVec 2048),
     let isOpen := x.st = .up ∨ x.st = .degraded
     let type := bits f.toNat 13 10
     let taken := flitOk f = true ∧ type ≤ 4 ∧ bits f.toNat 15 14 = 0 ∧ bits f.toNat 31 26 = 0 ∧ bits f.toNat 63 48 = 0 ∧
       bits f.toNat 9 0 = x.expected
     let left := afterAck (bits f.toNat 25 16) x.unacked
     let y := x.receive cred now f
     (isOpen → x.unacked.length < 512 → x.queued = [] →
       let g := flitOf x.nextSeq m.1 x.acked cred m.2
       x.send cred m = { x with nextSeq := (x.nextSeq + 1) % 1024, unacked := x.unacked ++ [g], out := x.out ++ [g] }) ∧
     (¬ isOpen ∨ 512 ≤ x.unacked.length → x.send cred m = { x with queued := x.queued ++ [m] }) ∧
     (∀ ack, x.queued = [] → x.nak cred now ack = { x with
       unacked := afterAck ack x.unacked, out := x.out ++ afterAck ack x.unacked, replays := min 0xFFFF (x.replays + 1),
       replayTimes := (x.replayTimes.filter fun t => decide (now < t + 1000000)) ++ [now] }) ∧
     (¬ taken → y = x.send cred (3, 0)) ∧
     (taken → y.expected = (x.expected + 1) % 1024 ∧ y.acked = x.expected ∧ y.reqCred = x.reqCred + bits f.toNat 39 32 ∧
       y.rspCred = x.rspCred + bits f.toNat 47 40 ∧ y.st = x.st ∧
       y.delivered = (if type = 1 ∨ type = 4 then x.delivered ++ [f] else x.delivered) ∧
       (x.queued = [] → type = 0 ∨ type = 2 → y.unacked = left ∧ y.out = x.out) ∧
       (x.queued = [] → type = 3 → y.unacked = left ∧ y.out = x.out ++ left ∧ y.replays = min 0xFFFF (x.replays + 1)) ∧
       (x.queued = [] → type = 1 ∨ type = 4 → isOpen → left.length < 512 →
         let g := flitOf x.nextSeq 2 x.expected cred 0
         y.unacked = left ++ [g] ∧ y.out = x.out ++ [g]))) ∧
  (∀ (s : State) (p : Nat) (x : Port), p = 1 ∨ p = 2 → s.ports[p]? = some x →
     (∀ (f : BitVec 2048) (ack : BitVec 10), x.st = .up ∨ x.st = .degraded → x.enable = true →
       let acts := fun (i : Instr) (y : Port) => ∃ u z, exec i s = .next u ∧ u.ports = updAt s.ports p (fun _ => z) ∧
         (y.replayTimes.length < 16 → z = y) ∧
         (16 ≤ y.replayTimes.length → z = { y with
           st := .retraining, since := s.now, retrains := min 0xFFFF (y.retrains + 1), retrainReq := false, replayTimes := [] })
       acts (.hawserFlitReceive p f) (x.receive s.cred s.now f) ∧ acts (.hawserNakReceive p ack) (x.nak s.cred s.now ack.toNat))) ∧
  (∀ (s : State) (p : Nat) (f : BitVec 2048) (ack : BitVec 10),
     p = 0 ∨ 3 ≤ p ∨ (∃ x, s.ports[p]? = some x ∧ x.st ≠ .up ∧ x.st ≠ .degraded) →
     exec (.hawserFlitReceive p f) s = .next s ∧ exec (.hawserNakReceive p ack) s = .next s) ∧
  (∀ (s : State) (p : Nat) (x : Port), p < 3 → s.ports[p]? = some x →
     let carries := fun (st : LinkState) => st = .up ∨ st = .degraded ∨ st = .retraining
     let dest := fun (u : State) (st : LinkState) => u.updPort p fun y => { y with
       st := st, since := s.now, width := if st = .up ∨ st = .degraded ∨ st = .retraining then y.width else 0 }
     let fails := fun (u : State) =>
       let v := (dest u (if x.enable then .failed else .down)).portLost p
       { v with agenda := if p = 0 then v.agenda ++ [.packageReset] else v.agenda }
     let isOpen := x.st = .up ∨ x.st = .degraded
     let trains := fun (width : Nat) (st : LinkState) => p = 0 ∧ (width = 4 ∧ st = .up ∨ width = 3 ∧ st = .degraded) ∨
       p ≠ 0 ∧ (width = 16 ∧ st = .up ∨ 8 ≤ width ∧ width < 16 ∧ st = .degraded)
     (s.hostOpen = true → x.st = .down → s.Gets (.lnkctlEnableSet p) (dest (s.updPort p fun y => { y with
       enable := true, nextSeq := 0, expected := 0, acked := 1023, unacked := [], queued := [], reqCred := 0, rspCred := 0,
       replayTimes := [] }) .training)) ∧
     (s.hostOpen = true → x.st ≠ .down → s.Gets (.lnkctlEnableSet p) (s.updPort p fun y => { y with enable := true })) ∧
     (s.hostOpen = true →
       let u := s.updPort p fun y => { y with enable := false, retrainReq := false }
       (x.st = .down ∨ x.st = .failed → s.Gets (.lnkctlEnableClear p) (dest u .down)) ∧
       (x.st = .training ∨ (isOpen ∧ x.unacked = [] ∧ x.queued = []) → s.Gets (.lnkctlEnableClear p) ((dest u .down).portLost p)) ∧
       (x.st = .retraining ∨ (isOpen ∧ (x.unacked ≠ [] ∨ x.queued ≠ [])) → s.Gets (.lnkctlEnableClear p) u)) ∧
     (isOpen →
       let u := dest (s.updPort p fun y => { y with retrains := min 0xFFFF (x.retrains + 1), retrainReq := false, replayTimes := [] }) .retraining
       (s.hostOpen = true → s.Gets (.lnkctlRetrain p) u) ∧ s.Gets (.linkRetrainTrigger p) u) ∧
     (¬ isOpen → s.hostOpen = true → s.Gets (.lnkctlRetrain p) (s.updPort p fun y => { y with retrainReq := true })) ∧
     (¬ isOpen → s.Gets (.linkRetrainTrigger p) s) ∧
     (∀ width st, x.st = .training ∨ x.st = .retraining → x.enable = true → trains width st →
       ∃ u z rest, exec (.linkTrained p width) s = .next u ∧ u.ports[p]? = some z ∧ z.st = st ∧ z.since = s.now ∧ z.width = width ∧
         z.out = x.out ++ (if x.st = .retraining then x.unacked else []) ++ rest ∧
         u.ctxs = s.ctxs ∧ (p = 0 → u.dev = s.dev) ∧ (p ≠ 0 → u.dev.peerDigest = Config.peerDigest s.ctr)) ∧
     (∀ width, (x.st ≠ .training ∧ x.st ≠ .retraining) ∨ (∀ st, ¬ trains width st) → exec (.linkTrained p width) s = .next s) ∧
     (x.st = .training → x.since + 100000000 ≤ s.now → s.Gets (.linkTrainingTimeout p) (fails s)) ∧
     (x.st ≠ .training ∨ s.now < x.since + 100000000 → exec (.linkTrainingTimeout p) s = .next s) ∧
     (x.st = .retraining → x.since + 10000000 ≤ s.now →
       let ts := (x.failTimes.filter fun t => decide (s.now < t + 1000000000)) ++ [s.now]
       let s1 := s.updPort p fun y => { y with failTimes := ts }
       s.Gets (.linkRetrainTimeout p) (if 3 ≤ ts.length then fails s1 else dest s1 .retraining)) ∧
     (x.st ≠ .retraining ∨ s.now < x.since + 10000000 → exec (.linkRetrainTimeout p) s = .next s) ∧
     (let r := s.barRead (0x3000 + 8 * p)
      bits r 2 0 = (match x.st with
        | .down => 0
        | .training => 1
        | .up => 2
        | .degraded => 3
        | .retraining => 4
        | .failed => 5) ∧ bits r 15 8 = x.width % 256 ∧ bits r 31 16 = min 0xFFFF x.replays ∧ bits r 47 32 = min 0xFFFF x.retrains) ∧
     (p = 0 → ∀ c y, mget s.ctxs c = some y → y.st = .active → ∃ z, mget (s.portLost p).ctxs c = some z ∧ z.st = .faulted ∧
       z.firstEvent = some (y.firstEvent.getD 0xA4) ∧
       (y.desc.meas = true → ∃ r, z.appends = y.appends ++ [r] ∧ r.type = 8 ∧ r.aux = 0xA4 + 256 * 0xFFFF9B)) ∧
     (p = 0 → (s.portLost p).host.logCount = min 255 (s.host.logCount + 1) ∧ (s.portLost p).ports = s.ports) ∧
     (∀ o y, p + o = 3 → p ≠ 0 → s.ports[o]? = some y →
       (carries y.st ∨ y.st = .training → ∃ x', (s.portLost p).ports[p]? = some x' ∧ x'.unacked = [] ∧ x'.queued = [] ∧
         (s.portLost p).ports[o]? = some ((messagesOf x.unacked ++ x.queued).foldl (fun z m => z.send s.cred m) y)) ∧
       (y.st = .down ∨ y.st = .failed →
         let u := s.updPort p fun z => { z with unacked := [], queued := [] }
         s.portLost p = if s.dev.paired then u.breakPair 0xA3 (0xFFFF9B + p) else u))) ∧
  (∀ (s : State),
     (∀ cause unit, (s.breakPair cause unit).dev.paired = false ∧
       (s.dev.pairCard = true → (s.breakPair cause unit).energy.share0 = 600000 ∧ (s.breakPair cause unit).energy.share1 = 600000) ∧
       ∀ c y, mget s.ctxs c = some y → y.st ≠ .destroyed → y.desc.pairctx = true →
       ∃ z, mget (s.breakPair cause unit).ctxs c = some z ∧ z.st = .faulted ∧
         (y.st ≠ .faulted → z.firstEvent = some (y.firstEvent.getD cause))) ∧
     (∀ k, let x := (mget s.mesh k).getD { nacks := 0, waiting := false, resendAt := 0, escalated := false, age := s.ctr };
       let y : MeshPkt := { nacks := x.nacks + 1, waiting := true, resendAt := s.clk 256 + 16 * 2 ^ min x.nacks 5,
                            escalated := decide (5 ≤ x.nacks + 1), age := x.age }
       (x.waiting = false → x.escalated = false → s.Gets (.meshPacketDrop k) { s with mesh := mset s.mesh k y }) ∧
       (x.waiting = true ∨ x.escalated = true → exec (.meshPacketDrop k) s = .next s)) ∧
     (∀ k x, mget s.mesh k = some x →
       let first := ∀ q ∈ s.mesh, q.2.escalated = true → q.2.waiting = false → x.age ≤ q.2.age
       (x.waiting = true → x.resendAt ≤ s.clk 256 → s.Gets (.meshResend k) { s with mesh := mset s.mesh k { x with waiting := false } }) ∧
       (x.waiting = false → x.escalated = false ∨ first → s.Gets (.meshResend k) { s with mesh := mdel s.mesh k }) ∧
       ((x.waiting = true ∧ s.clk 256 < x.resendAt) ∨ (x.waiting = false ∧ x.escalated = true ∧ ¬ first) →
         exec (.meshResend k) s = .next s)) ∧
     (∀ a v, s.hostOpen = true →
       let pa := a - Config.hdmBase
       let inside := Config.hdmBase ≤ a ∧ pa % 8 = 0 ∧ s.dev.base ≤ pa ∧ pa + 8 ≤ s.dev.base + Config.hbmBytes
       (∀ w, ¬ inside → s.Gets (.cxlMemAccess w a v) s) ∧
       (inside → ∃ u r, exec (.cxlMemAccess false a v) s = .next u ∧ u.host.reads = s.host.reads ++ [r] ∧ u.mem = s.mem ∧
         ((∀ i, i < 8 → s.privsAt (pa + i) 1 = []) →
           (∀ c ∈ s.ctxs, ∀ g ∈ c.2.regions, ∀ i, i < 8 → s.holdsPa c.1 g.2.next g.2.decl.bytes (pa + i) 1 = false) →
           r = BitVec.ofNat 64 (leNat (s.pread false pa 8)))) ∧
       (inside → s.codeHolds pa = true → s.Gets (.cxlMemAccess true a v) s) ∧
       (inside → s.codeHolds pa = false →
         let s1 := (s.privsAt pa).foldl (fun u x => privStore x.1 0 32 x.2 [0] 0 u) s
         s.Gets (.cxlMemAccess true a v) ((s1.regionsAt pa).foldl (fun u g => u.spoilRegion g.1 g.2) (s1.pwrite false pa (leBytes 8 v.toNat))) ∧
         (s.privsAt pa = [] → s.regionsAt pa = [] →
           ∃ u, exec (.cxlMemAccess true a v) s = .next u ∧ u.mem = writeCells s.mem (s.dev.cell pa) (leBytes 8 v.toNat) ∧
             { u with mem := s.mem, olds := s.olds } = s.tick))) ∧
     (∀ p v tok off a w, ∀ x ∈ ([(.lnkctlEnableSet p, .enableSet p), (.lnkctlEnableClear p, .enableClear p), (.lnkctlRetrain p, .retrain p),
         (.cxlMemAccess w a v, .cxl w a v), (.mbxbaseWrite v, .mbxbase v), (.mbxdoorWrite v, .mbxdoor v), (.rssizeWrite v, .rssize v),
         (.dbgstopWrite v, .dbgstop v), (.pfresolveRetry tok, .retry tok), (.pfresolveFail tok, .fail tok),
         (.hostRegisterWrite off v, .register off v)] : List (Instr × HostAct)),
       (s.hostUp = false → (s.ports.getD 0 default).st ≠ .retraining → exec x.1 s = .next s) ∧
       (s.hostOpen = false → s.hostUp = true ∨ (s.ports.getD 0 default).st = .retraining →
         exec x.1 s = .next { s with host := { s.host with waiting := s.host.waiting ++ [x.2] } })) ∧
     (s.dev.paired = true → s.Gets .peerPackageReset (s.breakPair 0xAE 0xFFFF9C)) ∧ (s.dev.paired = false → exec .peerPackageReset s = .next s))

/-- R14, R15, R439, R440, R442, R443: a microsecond passes and the islands' counters rise, within the package's limit from 100 µs after it
fell (log 121); at the end of ten, the energy of every island is divided among contexts by busy cycles (log 163); the shares of a card follow the demands within the limits (with no demand half each, the model's
choice, log 106); wear. R81, R277, R444 to R446: errors are counted, the third correctable one of a unit within a day and every
uncorrectable one starts its self-test; one in a clause traps before completion with one EVENT record (what the error names is log 133);
one of a context's state faults the context, after its pre-emption if that goes on (R446); a unit that fails its test is retired, and the
contexts with work on it fault (log 122; units of several parts, log 100). Intervals, monitors and causes of frames and Logbook are
logs 107, 109 and 101. -/
def Obligations.EnergyAndErrors : Prop :=
  (∀ (s : State),
     (let sum := fun (d : Nat → Nat) => (List.range 160).foldl (fun a k => a + d k) 0
      ∃ u d, exec .energyCounterTick s = .next u ∧ u.dev.time = s.dev.time + 1000 ∧
       u.energy.islands = mapIx (fun i x => x + d i) 0 s.energy.islands ∧
       (s.dev.time % 10000 ≠ 0 → u.energy.pending = mapIx (fun i x => x + d i) 0 s.energy.pending) ∧
       (s.dev.time % 10000 = 0 → ∀ i, i < 160 → i < s.energy.pending.length → u.energy.pending.getD i 0 = d i) ∧
       (∀ i, d i ≤ Config.islandEnergy s.dev.time i) ∧
       (1000 * sum (Config.islandEnergy s.dev.time) ≤ s.powerLimit → ∀ i, d i = Config.islandEnergy s.dev.time i) ∧
       (s.energy.lastLimit ≤ s.powerLimit → (∀ t, s.energy.fell = some t → t + 100000 ≤ s.dev.time) → 1000 * sum d ≤ s.powerLimit) ∧
       (∀ i, i < s.energy.islands.length → s.energy.islands.getD i 0 ≤ u.energy.islands.getD i 0) ∧ u.mem = s.mem ∧ u.waves = s.waves) ∧
     (∀ i c, 0x80 ≤ i → (∀ t ∈ s.teams, s.teamCtx t.2 = c → t.2.onCore = false) → s.busyOn i c = 0) ∧
     (∀ i, s.dev.time % 10000 = 0 → s.energy.pending.getD i 0 ≠ 0 →
       let live := mkeys s.ctxs fun x => x.st != .destroyed
       let busy := s.busyOn i
       let total := live.foldl (fun a c => a + busy c) 0
       ∃ u, exec (.energyAttribution i) s = .next u ∧ u.energy.pending = s.energy.pending.set i 0 ∧
         ((s.ctxs.map (·.1)).Nodup → ∀ c x, mget s.ctxs c = some x → x.st ≠ .destroyed → ∃ y, mget u.ctxs c = some y ∧
           y.energy = x.energy + if i < 0x98 then s.energy.pending.getD i 0 * busy c / total else 0)) ∧
     (∀ i, s.dev.time % 10000 ≠ 0 ∨ s.energy.pending.getD i 0 = 0 → exec (.energyAttribution i) s = .next s) ∧
     (∀ d0 d1, s.dev.pairCard = true → s.dev.paired = true →
       let lim := fun (v : Nat) => max 400000 (min 800000 v)
       let own := match Config.peerLimit s.ctr with
         | some v => (min s.energy.budget (1200000 - lim v), lim v)
         | none => (s.energy.budget, s.energy.peerBudget)
       let b := if s.dev.index = 0 then own else (own.2, own.1)
       let x := if d0 + d1 = 0 then 600000 else lim (1200000 * d0 / (d0 + d1))
       ∃ u, exec (.ebcShareInterval d0 d1) s = .next u ∧ (u.energy.budget, u.energy.peerBudget) = own ∧
         u.energy.share0 = min x b.1 ∧ u.energy.share1 = min (1200000 - x) b.2 ∧ u.energy.share0 + u.energy.share1 ≤ 1200000) ∧
     (∀ d0 d1, s.dev.pairCard = true → s.dev.paired = false →
       s.Gets (.ebcShareInterval d0 d1) { s with energy := { s.energy with share0 := 600000, share1 := 600000 } }) ∧
     (∀ d0 d1, s.dev.pairCard = false → exec (.ebcShareInterval d0 d1) s = .next s) ∧
     (s.energy.wearAt + 10000000000 ≤ s.dev.time → s.Gets .wearRefresh { s with energy := { s.energy with
       wear := mapIx (fun i _ => Config.wearHours s.now i) 0 s.energy.wear, wearAt := s.dev.time } }) ∧
     (s.dev.time < s.energy.wearAt + 10000000000 → exec .wearRefresh s = .next s)) ∧
  (∀ (s : State) (u : BitVec 24),
     (∃ t, exec (.correctableError u) s = .next t ∧ t.energy.ce = s.energy.ce + 1 ∧
       (u.toNat ∈ t.energy.testing ↔ u.toNat ∈ s.energy.testing ∨
         3 ≤ ((s.energy.ceTimes.filter fun x => decide (s.now < x.2 + 86400000000000) && x.1 == u.toNat).length) + 1)) ∧
     (∀ cause target lanes,
       ∃ t, exec (.uncorrectableError u cause target lanes) s = .next t ∧ u.toNat ∈ t.energy.testing ∧ t.energy.ue = s.energy.ue + 1) ∧
     (∀ cause target lanes x, cause = 0x98 ∨ cause = 0xAD ∨ 0xB0 ≤ cause ∧ cause ≤ 0xB3 ∨ 0xB7 ≤ cause ∧ cause ≤ 0xBF →
       mget s.ctxs target = some x → ∃ y, mget (s.ueEffect u.toNat cause target lanes).ctxs target = some y ∧
         (x.preempting = true → x.saved = false → y.st = x.st ∧ y.errs = x.errs ++ [(cause, 0, u.toNat)]) ∧
         (x.preempting = false ∨ x.saved = true → x.st ≠ .destroyed →
           y.st = .faulted ∧ (x.st ≠ .faulted → y.firstEvent = some (x.firstEvent.getD cause)))) ∧
     (∀ cause target lanes, cause = 0xA9 ∨ 0xB4 ≤ cause ∧ cause ≤ 0xB6 →
       s.ueEffect u.toNat cause target lanes = s.retireFrame target u.toNat ∧
         s.dev.cell target / 0x200000 ∈ (s.retireFrame target u.toNat).page.retired) ∧
     (∀ cause target lanes e, 0x58 ≤ cause ∧ cause ≤ 0x5F ∨ 0x7A ≤ cause ∧ cause ≤ 0x7F ∨ cause = 0x96 →
       begin_ { s with cur := target } 7 = some e → e.cl.set &&& lanes ≠ 0 →
       let s1 := ({ s with ctr := s.ctr + 2 } : State).ueEvent e.wv.ctxn cause u.toNat (s.launchOf e.wv) 0
       ∃ addr, s.ueEffect u.toNat cause target lanes = s1.faultNow target e.cl cause (e.cl.set &&& lanes) addr none ∧
         (cause = 0x96 → addr = 0) ∧ (cause = 0x5F → addr = e.cl.hdr) ∧
         ∀ f l, cause ≠ 0x96 → cause ≠ 0x5F → lowest (e.cl.set &&& lanes) = some l → (e.cl.words[e.cl.idx]?).bind decodeWord = some (.ld f) →
           addr = BitVec.ofInt 64 ((e.src64 f.a l : Int) + f.offset * sizeOf8 (f.mod.toNat % 8))) ∧
     (u.toNat ∈ s.energy.testing → ∃ t, exec (.unitSelfTestComplete u true) s = .next t ∧ t.dev = s.dev ∧ u.toNat ∉ t.energy.testing) ∧
     (u.toNat ∈ s.energy.testing → ∃ t, exec (.unitSelfTestComplete u false) s = .next t ∧ u.toNat ∉ t.energy.testing ∧
       u.toNat ∈ t.dev.retiredUnits ∧
       (∀ c x, c ∈ s.workOn u.toNat → mget s.ctxs c = some x → x.st ≠ .destroyed → x.preempting = false →
         ∃ y, mget t.ctxs c = some y ∧ y.st = .faulted) ∧
       (u.toNat % 256 < 0x40 → bits u.toNat 15 8 < 0xFF → bits u.toNat 15 8 ∈ t.dev.retiredCores) ∧
       (u.toNat % 256 < 0x40 → bits u.toNat 23 8 = 0xFFFF → u.toNat % 256 ∈ t.dev.retiredClusters) ∧
       (0x40 ≤ u.toNat % 256 → u.toNat % 256 < 0x80 → u.toNat % 256 - 0x40 ∈ t.dev.retiredMxes) ∧
       (0x80 ≤ u.toNat % 256 → u.toNat % 256 < 0x90 → bits u.toNat 15 8 < 0xFF → bits u.toNat 15 8 ∈ t.dev.retiredSlices) ∧
       (0x90 ≤ u.toNat % 256 → u.toNat % 256 < 0x98 → u.toNat % 256 - 0x90 ∈ t.dev.retiredHbm)) ∧
     (∀ pass, u.toNat ∉ s.energy.testing → exec (.unitSelfTestComplete u pass) s = .next s))

/-- R118, R119: a Pilot exception or watchdog writes a crash record and takes the complex down; it restarts with the queues in
flight and their contexts FAULTED and the rest of the ACTIVE contexts told so. R447, R99 to R101: a package reset ends every context
and keeps memory, the wake latch and the Logbook; without power nothing runs, and power-on starts with memory cleared and the leaf
counter at its limit; the first boot of a firmware version begins an alias generation, and a version booted before has its own.
What a crash record tells, what a reset and a loss of power keep, and generations are logs 108, 103, 104, 105 and 90; BOOTSTAT after a
reset is open (log 103). -/
def Obligations.PilotsResetsPowerAndFirmware : Prop :=
  (∀ (s : State),
     (∀ pilot cause pc addr, pilot < 12 → s.dev.pilotDown = none →
       ∃ u, exec (.pilotException pilot cause pc addr) s = .next u ∧ u.dev.pilotDown = some 0xA5 ∧ u.host.logIdx = (s.host.logIdx + 1) % 255 ∧
         u.host.logCount = min 255 (s.host.logCount + 1) ∧ (mget u.host.logRecs (s.host.logIdx % 255)).isSome = true ∧ u.ctxs = s.ctxs ∧
         u.host.events = s.host.events.drop 1) ∧
     (∀ pilot cause pc addr, pilot < 12 → s.dev.pilotDown ≠ none →
       ∃ u, exec (.pilotException pilot cause pc addr) s = .next u ∧ u.ctxs = [] ∧ u.mem = s.mem) ∧
     (∀ pilot, pilot < 12 → s.dev.pilotDown = none →
       ∃ u, exec (.pilotWatchdog pilot) s = .next u ∧ u.dev.pilotDown = some 0xAA ∧ u.host.logIdx = (s.host.logIdx + 1) % 255 ∧
         u.ctxs = s.ctxs ∧ u.host.events = s.host.events.drop 1) ∧
     (∀ pilot cause pc addr, 12 ≤ pilot →
       exec (.pilotException pilot cause pc addr) s = .next s ∧ exec (.pilotWatchdog pilot) s = .next s) ∧
     (∀ pilot, s.dev.pilotDown ≠ none → exec (.pilotWatchdog pilot) s = .next s) ∧
     (s.dev.pilotDown = none → exec .pilotComplexRestart s = .next s) ∧
     (∀ cause, s.dev.pilotDown = some cause → s.Gets .pilotComplexRestart (s.recover cause)) ∧
     (∀ cause, (s.recover cause).dev.pilotDown = none ∧ ((s.queues.map (·.1)).Nodup → ∀ q x, mget s.queues q = some x → x.inFlight = true →
       (∃ y, mget (s.recover cause).queues q = some y ∧ y.st = .faulted) ∧
       ∀ c, mget s.ctxs x.ctx = some c → c.st ≠ .destroyed → ∃ z, mget (s.recover cause).ctxs x.ctx = some z ∧ z.st = .faulted)) ∧
     (∀ cause c x, mget s.ctxs c = some x → x.st = .active → x.desc.meas = true →
       (s.ctxs.map (·.1)).Nodup → (s.queues.map (·.1)).Nodup → (∀ q ∈ s.queues, q.2.inFlight = true → q.2.ctx ≠ c) →
       ∃ y, mget (s.recover cause).ctxs c = some y ∧ y.st = .active ∧ y.appends.length = x.appends.length + 2)) ∧
  (∀ (s : State),
     (∃ u, exec .packageReset s = .next u ∧ u.ctxs = [] ∧ u.queues = [] ∧ u.waves = [] ∧ u.teams = [] ∧ u.grids = [] ∧ u.recs = [] ∧
       u.mem = s.mem ∧ u.hostMem = s.hostMem ∧ u.host.latch = s.host.latch ∧ u.host.logRecs = s.host.logRecs ∧
       u.host.mbxbase = 0 ∧ u.keys.leaf = s.keys.leaf ∧ u.keys.limit = s.keys.limit ∧
       u.keys.bootCount = (s.keys.bootCount + 1) % 2 ^ 32 ∧ u.keys.creates = 0 ∧ u.dev.paired = false) ∧
     (s.Gets .powerLoss { s with dev := { s.dev with powered := false } }) ∧
     (s.dev.powered = false → step s = .fault .unpowered) ∧
     (s.dev.powered = true → exec .powerOn s = .next s) ∧
     (s.dev.powered = false → ∃ u, exec .powerOn s = .next u ∧ u.dev.powered = true ∧ u.ctxs = [] ∧ u.mem = [] ∧ u.waves = [] ∧
       u.keys.leaf = s.keys.limit ∧ u.keys.gen = s.keys.gen ∧ u.dev.time = 0 ∧ u.host.logCount = 0) ∧
     (∀ v d, ∃ u, exec (.firmwareUpdate v d) s = .next u ∧ u.keys.fwDigest = d ∧ u.keys.fwVersion = v ∧ u.mem = s.mem ∧
       (let k := s.keys
        let ok := fun (i : Nat) => Config.flashWriteOk (k.flashWrites + i);
        (∀ g, mget k.versions v.toNat = some g → u.keys = { k with fwDigest := d, fwVersion := v, spare := none, gen := g, owed := false }) ∧
        (mget k.versions v.toNat = none → (∃ i, i < 3 ∧ ok i = true) → u.keys.gen = k.newest + 1 ∧
          mget u.keys.versions v.toNat = some u.keys.gen ∧ mget u.keys.genDigests u.keys.gen = some d ∧ u.keys.idLeaf = k.idLeaf + 1) ∧
        (mget k.versions v.toNat = none → (∀ i, i < 3 → ok i = false) → u.keys.gen = k.gen ∧ u.keys.owed = true)) ∧
       ∀ c x, mget s.ctxs c = some x → x.st ≠ .destroyed → x.desc.meas = true → (s.ctxs.map (·.1)).Nodup →
         ∃ y, mget u.ctxs c = some y ∧ y.appends = x.appends ++
           [{ type := 7, subject := v.toNat, addr := 0, len := 0, aux := 3, digest := d, waiter := .none }]))
end

