-- ==== Sys2Proof/Laws/Bits.lean ====
section
/-! SUPPORT. Bits of a concatenation, and the five formats read back field by field from the word they make (R58). -/
namespace Sys2Proof.Laws

theorem extract_high {a b : Nat} (x : BitVec a) (y : BitVec b) (s n : Nat) (h : b ≤ s) :
    (x ++ y).extractLsb' s n = x.extractLsb' (s - b) n := by
  apply BitVec.eq_of_getLsbD_eq
  intro i hi
  simp [BitVec.getLsbD_append, hi, show ¬ s + i < b by omega, show s + i - b = s - b + i by omega]

theorem extract_low {a b : Nat} (x : BitVec a) (y : BitVec b) (s n : Nat) (h : s + n ≤ b) :
    (x ++ y).extractLsb' s n = y.extractLsb' s n := by
  apply BitVec.eq_of_getLsbD_eq
  intro i hi
  simp [BitVec.getLsbD_append, hi, show s + i < b by omega]

theorem extract_all {n : Nat} (x : BitVec n) : x.extractLsb' 0 n = x := by
  apply BitVec.eq_of_getLsbD_eq
  intro i hi
  simp [hi]

theorem getLsbD_high {a b : Nat} (x : BitVec a) (y : BitVec b) (s : Nat) (h : b ≤ s) :
    (x ++ y).getLsbD s = x.getLsbD (s - b) := by
  simp [BitVec.getLsbD_append, show ¬ s < b by omega]

theorem getLsbD_low {a b : Nat} (x : BitVec a) (y : BitVec b) (s : Nat) (h : s < b) :
    (x ++ y).getLsbD s = y.getLsbD s := by
  simp [BitVec.getLsbD_append, h]

set_option maxRecDepth 4000 in
theorem f3_of_word (op : BitVec 8) (f : F3) : F3.of (f.word op) = f := by
  cases f
  simp (disch := decide) only [F3.of, F3.word, extract_high, extract_low, extract_all, getLsbD_high, getLsbD_low, Nat.reduceSub,
    BitVec.getLsbD_ofBool]
  simp

theorem fi_of_word (op : BitVec 8) (f : FI) : FI.of (f.word op) = f := by
  cases f
  simp (disch := decide) only [FI.of, FI.word, extract_high, extract_low, extract_all, Nat.reduceSub]

theorem fm_of_word (op : BitVec 8) (f : FM) : FM.of (f.word op) = f := by
  cases f
  simp (disch := decide) only [FM.of, FM.word, extract_high, extract_low, extract_all, getLsbD_high, getLsbD_low, Nat.reduceSub,
    BitVec.getLsbD_ofBool]
  simp

theorem fb_of_word (op : BitVec 8) (f : FB) : FB.of (f.word op) = f := by
  cases f
  simp (disch := decide) only [FB.of, FB.word, extract_high, extract_low, extract_all, Nat.reduceSub]

theorem fe_of_word (op : BitVec 8) (f : FE) : FE.of (f.word op) = f := by
  cases f
  simp (disch := decide) only [FE.of, FE.word, extract_high, extract_low, extract_all, Nat.reduceSub]

set_option maxRecDepth 4000 in
theorem op_f3 (op : BitVec 8) (f : F3) : opOf (f.word op) = op := by
  simp (disch := decide) only [opOf, F3.word, extract_high, extract_all, Nat.reduceSub]
theorem op_fi (op : BitVec 8) (f : FI) : opOf (f.word op) = op := by
  simp (disch := decide) only [opOf, FI.word, extract_high, extract_all, Nat.reduceSub]
theorem op_fm (op : BitVec 8) (f : FM) : opOf (f.word op) = op := by
  simp (disch := decide) only [opOf, FM.word, extract_high, extract_all, Nat.reduceSub]
theorem op_fb (op : BitVec 8) (f : FB) : opOf (f.word op) = op := by
  simp (disch := decide) only [opOf, FB.word, extract_high, extract_all, Nat.reduceSub]
theorem op_fe (op : BitVec 8) (f : FE) : opOf (f.word op) = op := by
  simp (disch := decide) only [opOf, FE.word, extract_high, extract_all, Nat.reduceSub]

end Sys2Proof.Laws
end

