-- ==== Sys2Proof/Laws/Maps.lean ====
section
/-! SUPPORT. Finite maps and lists changed at one place: what is read back after a change. -/
namespace Sys2Proof.Laws
open Sys2Proof.Machine

variable {α : Type}

@[simp] theorem mget_mset_self (m : Map α) (k : Nat) (y : α) : mget (mset m k y) k = some y := by
  induction m with
  | nil => simp [mset, mget]
  | cons h t ih => obtain ⟨a, b⟩ := h; unfold mset; split <;> (try split) <;> simp_all [mget]

theorem mget_mset_of_ne (m : Map α) {k j : Nat} (y : α) (h : j ≠ k) : mget (mset m k y) j = mget m j := by
  induction m with
  | nil => simp [mset, mget, h]
  | cons x t ih => obtain ⟨a, b⟩ := x; unfold mset; split <;> (try split) <;> simp_all [mget]

@[simp] theorem mget_mupd_self (m : Map α) (k : Nat) (f : α → α) : mget (mupd m k f) k = (mget m k).map f := by
  induction m with
  | nil => simp [mupd, mget]
  | cons h t ih => obtain ⟨a, b⟩ := h; by_cases e : k = a <;> simp [mupd, mget, e, ih]

theorem mget_mupd_of_ne (m : Map α) {k j : Nat} (f : α → α) (h : j ≠ k) : mget (mupd m k f) j = mget m j := by
  induction m with
  | nil => rfl
  | cons x t ih => obtain ⟨a, b⟩ := x; by_cases e : k = a <;> by_cases e' : j = a <;> simp_all [mupd, mget]

theorem mupd_mupd (m : Map α) (k : Nat) (f g : α → α) : mupd (mupd m k f) k g = mupd m k fun x => g (f x) := by
  induction m with
  | nil => rfl
  | cons x t ih => obtain ⟨a, b⟩ := x; by_cases e : k = a <;> simp [mupd, e, ih]

theorem mupd_congr (m : Map α) (k : Nat) {f g : α → α} (h : ∀ x, mget m k = some x → f x = g x) : mupd m k f = mupd m k g := by
  induction m with
  | nil => rfl
  | cons x t ih =>
    obtain ⟨a, b⟩ := x
    by_cases e : k = a
    · have := h b (by simp [mget, e]); simp [mupd, e, this]
    · simp only [mupd, e, if_false]; rw [ih]; intro y hy; exact h y (by simp [mget, e, hy])

theorem mupd_id (m : Map α) (k : Nat) : mupd m k (fun x => x) = m := by
  induction m with
  | nil => rfl
  | cons x t ih => obtain ⟨a, b⟩ := x; by_cases e : k = a <;> simp [mupd, e, ih]

/-- A change that leaves the value alone changes nothing. -/
theorem mupd_same (m : Map α) (k : Nat) {f : α → α} (h : ∀ x, mget m k = some x → f x = x) : mupd m k f = m := by
  rw [mupd_congr m k (g := fun x => x) h, mupd_id]

theorem length_mapIx (f : Nat → α → α) (n : Nat) (l : List α) : (mapIx f n l).length = l.length := by
  induction l generalizing n with
  | nil => rfl
  | cons a t ih => simp [mapIx, ih]

theorem getElem?_mapIx (f : Nat → α → α) (n : Nat) (l : List α) (i : Nat) :
    (mapIx f n l)[i]? = (l[i]?).map (f (n + i)) := by
  induction l generalizing n i with
  | nil => simp [mapIx]
  | cons a t ih => cases i with
    | zero => simp [mapIx]
    | succ j => simp only [mapIx, List.getElem?_cons_succ, ih]; congr 2; omega

theorem mapIx_congr {f g : Nat → α → α} (n : Nat) (l : List α) (h : ∀ i x, l[i]? = some x → f (n + i) x = g (n + i) x) :
    mapIx f n l = mapIx g n l := by
  apply List.ext_getElem?
  intro i
  rw [getElem?_mapIx, getElem?_mapIx]
  cases e : l[i]? with
  | none => rfl
  | some x => simp [h i x e]

theorem mapIx_mapIx (f g : Nat → α → α) (n : Nat) (l : List α) :
    mapIx g n (mapIx f n l) = mapIx (fun i x => g i (f i x)) n l := by
  induction l generalizing n with
  | nil => rfl
  | cons a t ih => simp [mapIx, ih]

theorem mapIx_same {f : Nat → α → α} (n : Nat) (l : List α) (h : ∀ i x, f i x = x) : mapIx f n l = l := by
  induction l generalizing n with
  | nil => rfl
  | cons a t ih => simp [mapIx, ih, h]

end Sys2Proof.Laws
end

