-- ==== Sys2Proof/Laws/State.lean ====
section
/-! SUPPORT. What each change of one part of the machine does to each field of State: one lemma per field per change. -/
namespace Sys2Proof.Laws
open Sys2Proof.Machine

section updWave
variable (s : State) (k : Nat) (f : Wave → Wave)

@[simp] theorem updWave_dev : (s.updWave k f).dev = s.dev := rfl
@[simp] theorem updWave_mem : (s.updWave k f).mem = s.mem := rfl
@[simp] theorem updWave_hostMem : (s.updWave k f).hostMem = s.hostMem := rfl
@[simp] theorem updWave_olds : (s.updWave k f).olds = s.olds := rfl
@[simp] theorem updWave_ctxs : (s.updWave k f).ctxs = s.ctxs := rfl
@[simp] theorem updWave_queues : (s.updWave k f).queues = s.queues := rfl
@[simp] theorem updWave_grids : (s.updWave k f).grids = s.grids := rfl
@[simp] theorem updWave_gangs : (s.updWave k f).gangs = s.gangs := rfl
@[simp] theorem updWave_teams : (s.updWave k f).teams = s.teams := rfl
@[simp] theorem updWave_waves : (s.updWave k f).waves = mupd s.waves k f := rfl
@[simp] theorem updWave_flows : (s.updWave k f).flows = s.flows := rfl
@[simp] theorem updWave_recs : (s.updWave k f).recs = s.recs := rfl
@[simp] theorem updWave_copies : (s.updWave k f).copies = s.copies := rfl
@[simp] theorem updWave_mxes : (s.updWave k f).mxes = s.mxes := rfl
@[simp] theorem updWave_mxSaved : (s.updWave k f).mxSaved = s.mxSaved := rfl
@[simp] theorem updWave_cmds : (s.updWave k f).cmds = s.cmds := rfl
@[simp] theorem updWave_mxDone : (s.updWave k f).mxDone = s.mxDone := rfl
@[simp] theorem updWave_page : (s.updWave k f).page = s.page := rfl
@[simp] theorem updWave_host : (s.updWave k f).host = s.host := rfl
@[simp] theorem updWave_ports : (s.updWave k f).ports = s.ports := rfl
@[simp] theorem updWave_mesh : (s.updWave k f).mesh = s.mesh := rfl
@[simp] theorem updWave_energy : (s.updWave k f).energy = s.energy := rfl
@[simp] theorem updWave_keys : (s.updWave k f).keys = s.keys := rfl
@[simp] theorem updWave_cur : (s.updWave k f).cur = s.cur := rfl
@[simp] theorem updWave_agenda : (s.updWave k f).agenda = s.agenda := rfl
@[simp] theorem updWave_ctr : (s.updWave k f).ctr = s.ctr := rfl
@[simp] theorem updWave_turn : (s.updWave k f).turn = s.turn := rfl
@[simp] theorem updWave_key : (s.updWave k f).key = s.key := rfl

end updWave

section updTeam
variable (s : State) (k : Nat) (f : Team → Team)

@[simp] theorem updTeam_dev : (s.updTeam k f).dev = s.dev := rfl
@[simp] theorem updTeam_mem : (s.updTeam k f).mem = s.mem := rfl
@[simp] theorem updTeam_hostMem : (s.updTeam k f).hostMem = s.hostMem := rfl
@[simp] theorem updTeam_olds : (s.updTeam k f).olds = s.olds := rfl
@[simp] theorem updTeam_ctxs : (s.updTeam k f).ctxs = s.ctxs := rfl
@[simp] theorem updTeam_queues : (s.updTeam k f).queues = s.queues := rfl
@[simp] theorem updTeam_grids : (s.updTeam k f).grids = s.grids := rfl
@[simp] theorem updTeam_gangs : (s.updTeam k f).gangs = s.gangs := rfl
@[simp] theorem updTeam_teams : (s.updTeam k f).teams = mupd s.teams k f := rfl
@[simp] theorem updTeam_waves : (s.updTeam k f).waves = s.waves := rfl
@[simp] theorem updTeam_flows : (s.updTeam k f).flows = s.flows := rfl
@[simp] theorem updTeam_recs : (s.updTeam k f).recs = s.recs := rfl
@[simp] theorem updTeam_copies : (s.updTeam k f).copies = s.copies := rfl
@[simp] theorem updTeam_mxes : (s.updTeam k f).mxes = s.mxes := rfl
@[simp] theorem updTeam_mxSaved : (s.updTeam k f).mxSaved = s.mxSaved := rfl
@[simp] theorem updTeam_cmds : (s.updTeam k f).cmds = s.cmds := rfl
@[simp] theorem updTeam_mxDone : (s.updTeam k f).mxDone = s.mxDone := rfl
@[simp] theorem updTeam_page : (s.updTeam k f).page = s.page := rfl
@[simp] theorem updTeam_host : (s.updTeam k f).host = s.host := rfl
@[simp] theorem updTeam_ports : (s.updTeam k f).ports = s.ports := rfl
@[simp] theorem updTeam_mesh : (s.updTeam k f).mesh = s.mesh := rfl
@[simp] theorem updTeam_energy : (s.updTeam k f).energy = s.energy := rfl
@[simp] theorem updTeam_keys : (s.updTeam k f).keys = s.keys := rfl
@[simp] theorem updTeam_cur : (s.updTeam k f).cur = s.cur := rfl
@[simp] theorem updTeam_agenda : (s.updTeam k f).agenda = s.agenda := rfl
@[simp] theorem updTeam_ctr : (s.updTeam k f).ctr = s.ctr := rfl
@[simp] theorem updTeam_turn : (s.updTeam k f).turn = s.turn := rfl
@[simp] theorem updTeam_key : (s.updTeam k f).key = s.key := rfl

end updTeam

section updCtx
variable (s : State) (k : Nat) (f : Ctx → Ctx)

@[simp] theorem updCtx_dev : (s.updCtx k f).dev = s.dev := rfl
@[simp] theorem updCtx_mem : (s.updCtx k f).mem = s.mem := rfl
@[simp] theorem updCtx_hostMem : (s.updCtx k f).hostMem = s.hostMem := rfl
@[simp] theorem updCtx_olds : (s.updCtx k f).olds = s.olds := rfl
@[simp] theorem updCtx_ctxs : (s.updCtx k f).ctxs = mupd s.ctxs k f := rfl
@[simp] theorem updCtx_queues : (s.updCtx k f).queues = s.queues := rfl
@[simp] theorem updCtx_grids : (s.updCtx k f).grids = s.grids := rfl
@[simp] theorem updCtx_gangs : (s.updCtx k f).gangs = s.gangs := rfl
@[simp] theorem updCtx_teams : (s.updCtx k f).teams = s.teams := rfl
@[simp] theorem updCtx_waves : (s.updCtx k f).waves = s.waves := rfl
@[simp] theorem updCtx_flows : (s.updCtx k f).flows = s.flows := rfl
@[simp] theorem updCtx_recs : (s.updCtx k f).recs = s.recs := rfl
@[simp] theorem updCtx_copies : (s.updCtx k f).copies = s.copies := rfl
@[simp] theorem updCtx_mxes : (s.updCtx k f).mxes = s.mxes := rfl
@[simp] theorem updCtx_mxSaved : (s.updCtx k f).mxSaved = s.mxSaved := rfl
@[simp] theorem updCtx_cmds : (s.updCtx k f).cmds = s.cmds := rfl
@[simp] theorem updCtx_mxDone : (s.updCtx k f).mxDone = s.mxDone := rfl
@[simp] theorem updCtx_page : (s.updCtx k f).page = s.page := rfl
@[simp] theorem updCtx_host : (s.updCtx k f).host = s.host := rfl
@[simp] theorem updCtx_ports : (s.updCtx k f).ports = s.ports := rfl
@[simp] theorem updCtx_mesh : (s.updCtx k f).mesh = s.mesh := rfl
@[simp] theorem updCtx_energy : (s.updCtx k f).energy = s.energy := rfl
@[simp] theorem updCtx_keys : (s.updCtx k f).keys = s.keys := rfl
@[simp] theorem updCtx_cur : (s.updCtx k f).cur = s.cur := rfl
@[simp] theorem updCtx_agenda : (s.updCtx k f).agenda = s.agenda := rfl
@[simp] theorem updCtx_ctr : (s.updCtx k f).ctr = s.ctr := rfl
@[simp] theorem updCtx_turn : (s.updCtx k f).turn = s.turn := rfl
@[simp] theorem updCtx_key : (s.updCtx k f).key = s.key := rfl

end updCtx

section updQueue
variable (s : State) (k : Nat) (f : Queue → Queue)

@[simp] theorem updQueue_dev : (s.updQueue k f).dev = s.dev := rfl
@[simp] theorem updQueue_mem : (s.updQueue k f).mem = s.mem := rfl
@[simp] theorem updQueue_hostMem : (s.updQueue k f).hostMem = s.hostMem := rfl
@[simp] theorem updQueue_olds : (s.updQueue k f).olds = s.olds := rfl
@[simp] theorem updQueue_ctxs : (s.updQueue k f).ctxs = s.ctxs := rfl
@[simp] theorem updQueue_queues : (s.updQueue k f).queues = mupd s.queues k f := rfl
@[simp] theorem updQueue_grids : (s.updQueue k f).grids = s.grids := rfl
@[simp] theorem updQueue_gangs : (s.updQueue k f).gangs = s.gangs := rfl
@[simp] theorem updQueue_teams : (s.updQueue k f).teams = s.teams := rfl
@[simp] theorem updQueue_waves : (s.updQueue k f).waves = s.waves := rfl
@[simp] theorem updQueue_flows : (s.updQueue k f).flows = s.flows := rfl
@[simp] theorem updQueue_recs : (s.updQueue k f).recs = s.recs := rfl
@[simp] theorem updQueue_copies : (s.updQueue k f).copies = s.copies := rfl
@[simp] theorem updQueue_mxes : (s.updQueue k f).mxes = s.mxes := rfl
@[simp] theorem updQueue_mxSaved : (s.updQueue k f).mxSaved = s.mxSaved := rfl
@[simp] theorem updQueue_cmds : (s.updQueue k f).cmds = s.cmds := rfl
@[simp] theorem updQueue_mxDone : (s.updQueue k f).mxDone = s.mxDone := rfl
@[simp] theorem updQueue_page : (s.updQueue k f).page = s.page := rfl
@[simp] theorem updQueue_host : (s.updQueue k f).host = s.host := rfl
@[simp] theorem updQueue_ports : (s.updQueue k f).ports = s.ports := rfl
@[simp] theorem updQueue_mesh : (s.updQueue k f).mesh = s.mesh := rfl
@[simp] theorem updQueue_energy : (s.updQueue k f).energy = s.energy := rfl
@[simp] theorem updQueue_keys : (s.updQueue k f).keys = s.keys := rfl
@[simp] theorem updQueue_cur : (s.updQueue k f).cur = s.cur := rfl
@[simp] theorem updQueue_agenda : (s.updQueue k f).agenda = s.agenda := rfl
@[simp] theorem updQueue_ctr : (s.updQueue k f).ctr = s.ctr := rfl
@[simp] theorem updQueue_turn : (s.updQueue k f).turn = s.turn := rfl
@[simp] theorem updQueue_key : (s.updQueue k f).key = s.key := rfl

end updQueue

section updGrid
variable (s : State) (k : Nat) (f : Grid → Grid)

@[simp] theorem updGrid_dev : (s.updGrid k f).dev = s.dev := rfl
@[simp] theorem updGrid_mem : (s.updGrid k f).mem = s.mem := rfl
@[simp] theorem updGrid_hostMem : (s.updGrid k f).hostMem = s.hostMem := rfl
@[simp] theorem updGrid_olds : (s.updGrid k f).olds = s.olds := rfl
@[simp] theorem updGrid_ctxs : (s.updGrid k f).ctxs = s.ctxs := rfl
@[simp] theorem updGrid_queues : (s.updGrid k f).queues = s.queues := rfl
@[simp] theorem updGrid_grids : (s.updGrid k f).grids = mupd s.grids k f := rfl
@[simp] theorem updGrid_gangs : (s.updGrid k f).gangs = s.gangs := rfl
@[simp] theorem updGrid_teams : (s.updGrid k f).teams = s.teams := rfl
@[simp] theorem updGrid_waves : (s.updGrid k f).waves = s.waves := rfl
@[simp] theorem updGrid_flows : (s.updGrid k f).flows = s.flows := rfl
@[simp] theorem updGrid_recs : (s.updGrid k f).recs = s.recs := rfl
@[simp] theorem updGrid_copies : (s.updGrid k f).copies = s.copies := rfl
@[simp] theorem updGrid_mxes : (s.updGrid k f).mxes = s.mxes := rfl
@[simp] theorem updGrid_mxSaved : (s.updGrid k f).mxSaved = s.mxSaved := rfl
@[simp] theorem updGrid_cmds : (s.updGrid k f).cmds = s.cmds := rfl
@[simp] theorem updGrid_mxDone : (s.updGrid k f).mxDone = s.mxDone := rfl
@[simp] theorem updGrid_page : (s.updGrid k f).page = s.page := rfl
@[simp] theorem updGrid_host : (s.updGrid k f).host = s.host := rfl
@[simp] theorem updGrid_ports : (s.updGrid k f).ports = s.ports := rfl
@[simp] theorem updGrid_mesh : (s.updGrid k f).mesh = s.mesh := rfl
@[simp] theorem updGrid_energy : (s.updGrid k f).energy = s.energy := rfl
@[simp] theorem updGrid_keys : (s.updGrid k f).keys = s.keys := rfl
@[simp] theorem updGrid_cur : (s.updGrid k f).cur = s.cur := rfl
@[simp] theorem updGrid_agenda : (s.updGrid k f).agenda = s.agenda := rfl
@[simp] theorem updGrid_ctr : (s.updGrid k f).ctr = s.ctr := rfl
@[simp] theorem updGrid_turn : (s.updGrid k f).turn = s.turn := rfl
@[simp] theorem updGrid_key : (s.updGrid k f).key = s.key := rfl

end updGrid

section updGang
variable (s : State) (k : Nat) (f : Gang → Gang)

@[simp] theorem updGang_dev : (s.updGang k f).dev = s.dev := rfl
@[simp] theorem updGang_mem : (s.updGang k f).mem = s.mem := rfl
@[simp] theorem updGang_hostMem : (s.updGang k f).hostMem = s.hostMem := rfl
@[simp] theorem updGang_olds : (s.updGang k f).olds = s.olds := rfl
@[simp] theorem updGang_ctxs : (s.updGang k f).ctxs = s.ctxs := rfl
@[simp] theorem updGang_queues : (s.updGang k f).queues = s.queues := rfl
@[simp] theorem updGang_grids : (s.updGang k f).grids = s.grids := rfl
@[simp] theorem updGang_gangs : (s.updGang k f).gangs = mupd s.gangs k f := rfl
@[simp] theorem updGang_teams : (s.updGang k f).teams = s.teams := rfl
@[simp] theorem updGang_waves : (s.updGang k f).waves = s.waves := rfl
@[simp] theorem updGang_flows : (s.updGang k f).flows = s.flows := rfl
@[simp] theorem updGang_recs : (s.updGang k f).recs = s.recs := rfl
@[simp] theorem updGang_copies : (s.updGang k f).copies = s.copies := rfl
@[simp] theorem updGang_mxes : (s.updGang k f).mxes = s.mxes := rfl
@[simp] theorem updGang_mxSaved : (s.updGang k f).mxSaved = s.mxSaved := rfl
@[simp] theorem updGang_cmds : (s.updGang k f).cmds = s.cmds := rfl
@[simp] theorem updGang_mxDone : (s.updGang k f).mxDone = s.mxDone := rfl
@[simp] theorem updGang_page : (s.updGang k f).page = s.page := rfl
@[simp] theorem updGang_host : (s.updGang k f).host = s.host := rfl
@[simp] theorem updGang_ports : (s.updGang k f).ports = s.ports := rfl
@[simp] theorem updGang_mesh : (s.updGang k f).mesh = s.mesh := rfl
@[simp] theorem updGang_energy : (s.updGang k f).energy = s.energy := rfl
@[simp] theorem updGang_keys : (s.updGang k f).keys = s.keys := rfl
@[simp] theorem updGang_cur : (s.updGang k f).cur = s.cur := rfl
@[simp] theorem updGang_agenda : (s.updGang k f).agenda = s.agenda := rfl
@[simp] theorem updGang_ctr : (s.updGang k f).ctr = s.ctr := rfl
@[simp] theorem updGang_turn : (s.updGang k f).turn = s.turn := rfl
@[simp] theorem updGang_key : (s.updGang k f).key = s.key := rfl

end updGang

section updFlow
variable (s : State) (k : Nat) (f : Flow → Flow)

@[simp] theorem updFlow_dev : (s.updFlow k f).dev = s.dev := rfl
@[simp] theorem updFlow_mem : (s.updFlow k f).mem = s.mem := rfl
@[simp] theorem updFlow_hostMem : (s.updFlow k f).hostMem = s.hostMem := rfl
@[simp] theorem updFlow_olds : (s.updFlow k f).olds = s.olds := rfl
@[simp] theorem updFlow_ctxs : (s.updFlow k f).ctxs = s.ctxs := rfl
@[simp] theorem updFlow_queues : (s.updFlow k f).queues = s.queues := rfl
@[simp] theorem updFlow_grids : (s.updFlow k f).grids = s.grids := rfl
@[simp] theorem updFlow_gangs : (s.updFlow k f).gangs = s.gangs := rfl
@[simp] theorem updFlow_teams : (s.updFlow k f).teams = s.teams := rfl
@[simp] theorem updFlow_waves : (s.updFlow k f).waves = s.waves := rfl
@[simp] theorem updFlow_flows : (s.updFlow k f).flows = mupd s.flows k f := rfl
@[simp] theorem updFlow_recs : (s.updFlow k f).recs = s.recs := rfl
@[simp] theorem updFlow_copies : (s.updFlow k f).copies = s.copies := rfl
@[simp] theorem updFlow_mxes : (s.updFlow k f).mxes = s.mxes := rfl
@[simp] theorem updFlow_mxSaved : (s.updFlow k f).mxSaved = s.mxSaved := rfl
@[simp] theorem updFlow_cmds : (s.updFlow k f).cmds = s.cmds := rfl
@[simp] theorem updFlow_mxDone : (s.updFlow k f).mxDone = s.mxDone := rfl
@[simp] theorem updFlow_page : (s.updFlow k f).page = s.page := rfl
@[simp] theorem updFlow_host : (s.updFlow k f).host = s.host := rfl
@[simp] theorem updFlow_ports : (s.updFlow k f).ports = s.ports := rfl
@[simp] theorem updFlow_mesh : (s.updFlow k f).mesh = s.mesh := rfl
@[simp] theorem updFlow_energy : (s.updFlow k f).energy = s.energy := rfl
@[simp] theorem updFlow_keys : (s.updFlow k f).keys = s.keys := rfl
@[simp] theorem updFlow_cur : (s.updFlow k f).cur = s.cur := rfl
@[simp] theorem updFlow_agenda : (s.updFlow k f).agenda = s.agenda := rfl
@[simp] theorem updFlow_ctr : (s.updFlow k f).ctr = s.ctr := rfl
@[simp] theorem updFlow_turn : (s.updFlow k f).turn = s.turn := rfl
@[simp] theorem updFlow_key : (s.updFlow k f).key = s.key := rfl

end updFlow

section updRec
variable (s : State) (k : Nat) (f : Record → Record)

@[simp] theorem updRec_dev : (s.updRec k f).dev = s.dev := rfl
@[simp] theorem updRec_mem : (s.updRec k f).mem = s.mem := rfl
@[simp] theorem updRec_hostMem : (s.updRec k f).hostMem = s.hostMem := rfl
@[simp] theorem updRec_olds : (s.updRec k f).olds = s.olds := rfl
@[simp] theorem updRec_ctxs : (s.updRec k f).ctxs = s.ctxs := rfl
@[simp] theorem updRec_queues : (s.updRec k f).queues = s.queues := rfl
@[simp] theorem updRec_grids : (s.updRec k f).grids = s.grids := rfl
@[simp] theorem updRec_gangs : (s.updRec k f).gangs = s.gangs := rfl
@[simp] theorem updRec_teams : (s.updRec k f).teams = s.teams := rfl
@[simp] theorem updRec_waves : (s.updRec k f).waves = s.waves := rfl
@[simp] theorem updRec_flows : (s.updRec k f).flows = s.flows := rfl
@[simp] theorem updRec_recs : (s.updRec k f).recs = mupd s.recs k f := rfl
@[simp] theorem updRec_copies : (s.updRec k f).copies = s.copies := rfl
@[simp] theorem updRec_mxes : (s.updRec k f).mxes = s.mxes := rfl
@[simp] theorem updRec_mxSaved : (s.updRec k f).mxSaved = s.mxSaved := rfl
@[simp] theorem updRec_cmds : (s.updRec k f).cmds = s.cmds := rfl
@[simp] theorem updRec_mxDone : (s.updRec k f).mxDone = s.mxDone := rfl
@[simp] theorem updRec_page : (s.updRec k f).page = s.page := rfl
@[simp] theorem updRec_host : (s.updRec k f).host = s.host := rfl
@[simp] theorem updRec_ports : (s.updRec k f).ports = s.ports := rfl
@[simp] theorem updRec_mesh : (s.updRec k f).mesh = s.mesh := rfl
@[simp] theorem updRec_energy : (s.updRec k f).energy = s.energy := rfl
@[simp] theorem updRec_keys : (s.updRec k f).keys = s.keys := rfl
@[simp] theorem updRec_cur : (s.updRec k f).cur = s.cur := rfl
@[simp] theorem updRec_agenda : (s.updRec k f).agenda = s.agenda := rfl
@[simp] theorem updRec_ctr : (s.updRec k f).ctr = s.ctr := rfl
@[simp] theorem updRec_turn : (s.updRec k f).turn = s.turn := rfl
@[simp] theorem updRec_key : (s.updRec k f).key = s.key := rfl

end updRec

section pwrite
variable (s : State) (sys : Bool) (a : Nat) (bs : List Byte)

@[simp] theorem pwrite_dev : (s.pwrite sys a bs).dev = s.dev := by cases sys <;> rfl
@[simp] theorem pwrite_mem : (s.pwrite sys a bs).mem = if sys then s.mem else writeCells s.mem (s.dev.cell a) bs := by cases sys <;> rfl
@[simp] theorem pwrite_hostMem : (s.pwrite sys a bs).hostMem = if sys then writeCells s.hostMem a bs else s.hostMem := by cases sys <;> rfl
@[simp] theorem pwrite_ctxs : (s.pwrite sys a bs).ctxs = s.ctxs := by cases sys <;> rfl
@[simp] theorem pwrite_queues : (s.pwrite sys a bs).queues = s.queues := by cases sys <;> rfl
@[simp] theorem pwrite_grids : (s.pwrite sys a bs).grids = s.grids := by cases sys <;> rfl
@[simp] theorem pwrite_gangs : (s.pwrite sys a bs).gangs = s.gangs := by cases sys <;> rfl
@[simp] theorem pwrite_teams : (s.pwrite sys a bs).teams = s.teams := by cases sys <;> rfl
@[simp] theorem pwrite_waves : (s.pwrite sys a bs).waves = s.waves := by cases sys <;> rfl
@[simp] theorem pwrite_flows : (s.pwrite sys a bs).flows = s.flows := by cases sys <;> rfl
@[simp] theorem pwrite_recs : (s.pwrite sys a bs).recs = s.recs := by cases sys <;> rfl
@[simp] theorem pwrite_copies : (s.pwrite sys a bs).copies = s.copies := by cases sys <;> rfl
@[simp] theorem pwrite_mxes : (s.pwrite sys a bs).mxes = s.mxes := by cases sys <;> rfl
@[simp] theorem pwrite_mxSaved : (s.pwrite sys a bs).mxSaved = s.mxSaved := by cases sys <;> rfl
@[simp] theorem pwrite_cmds : (s.pwrite sys a bs).cmds = s.cmds := by cases sys <;> rfl
@[simp] theorem pwrite_mxDone : (s.pwrite sys a bs).mxDone = s.mxDone := by cases sys <;> rfl
@[simp] theorem pwrite_page : (s.pwrite sys a bs).page = s.page := by cases sys <;> rfl
@[simp] theorem pwrite_host : (s.pwrite sys a bs).host = s.host := by cases sys <;> rfl
@[simp] theorem pwrite_ports : (s.pwrite sys a bs).ports = s.ports := by cases sys <;> rfl
@[simp] theorem pwrite_mesh : (s.pwrite sys a bs).mesh = s.mesh := by cases sys <;> rfl
@[simp] theorem pwrite_energy : (s.pwrite sys a bs).energy = s.energy := by cases sys <;> rfl
@[simp] theorem pwrite_keys : (s.pwrite sys a bs).keys = s.keys := by cases sys <;> rfl
@[simp] theorem pwrite_cur : (s.pwrite sys a bs).cur = s.cur := by cases sys <;> rfl
@[simp] theorem pwrite_agenda : (s.pwrite sys a bs).agenda = s.agenda := by cases sys <;> rfl
@[simp] theorem pwrite_ctr : (s.pwrite sys a bs).ctr = s.ctr := by cases sys <;> rfl
@[simp] theorem pwrite_turn : (s.pwrite sys a bs).turn = s.turn := by cases sys <;> rfl
@[simp] theorem pwrite_key : (s.pwrite sys a bs).key = s.key := by cases sys <;> rfl

end pwrite

section tick
variable (s : State)

@[simp] theorem tick_dev : s.tick.dev = s.dev := rfl
@[simp] theorem tick_mem : s.tick.mem = s.mem := rfl
@[simp] theorem tick_hostMem : s.tick.hostMem = s.hostMem := rfl
@[simp] theorem tick_olds : s.tick.olds = s.olds := rfl
@[simp] theorem tick_ctxs : s.tick.ctxs = s.ctxs := rfl
@[simp] theorem tick_queues : s.tick.queues = s.queues := rfl
@[simp] theorem tick_grids : s.tick.grids = s.grids := rfl
@[simp] theorem tick_gangs : s.tick.gangs = s.gangs := rfl
@[simp] theorem tick_teams : s.tick.teams = s.teams := rfl
@[simp] theorem tick_waves : s.tick.waves = s.waves := rfl
@[simp] theorem tick_flows : s.tick.flows = s.flows := rfl
@[simp] theorem tick_recs : s.tick.recs = s.recs := rfl
@[simp] theorem tick_copies : s.tick.copies = s.copies := rfl
@[simp] theorem tick_mxes : s.tick.mxes = s.mxes := rfl
@[simp] theorem tick_mxSaved : s.tick.mxSaved = s.mxSaved := rfl
@[simp] theorem tick_cmds : s.tick.cmds = s.cmds := rfl
@[simp] theorem tick_mxDone : s.tick.mxDone = s.mxDone := rfl
@[simp] theorem tick_page : s.tick.page = s.page := rfl
@[simp] theorem tick_host : s.tick.host = s.host := rfl
@[simp] theorem tick_ports : s.tick.ports = s.ports := rfl
@[simp] theorem tick_mesh : s.tick.mesh = s.mesh := rfl
@[simp] theorem tick_energy : s.tick.energy = s.energy := rfl
@[simp] theorem tick_keys : s.tick.keys = s.keys := rfl
@[simp] theorem tick_cur : s.tick.cur = s.cur := rfl
@[simp] theorem tick_agenda : s.tick.agenda = s.agenda := rfl
@[simp] theorem tick_ctr : s.tick.ctr = s.ctr + 1 := rfl
@[simp] theorem tick_turn : s.tick.turn = s.turn := rfl
@[simp] theorem tick_key : s.tick.key = s.key := rfl

end tick

section wave
variable (wv : Wave) (m : LaneMask) (f : Nat → Lane → Lane)

@[simp] theorem updLanes_team : (wv.updLanes m f).team = wv.team := rfl
@[simp] theorem updLanes_rank : (wv.updLanes m f).rank = wv.rank := rfl
@[simp] theorem updLanes_core : (wv.updLanes m f).core = wv.core := rfl
@[simp] theorem updLanes_quad : (wv.updLanes m f).quad = wv.quad := rfl
@[simp] theorem updLanes_ctxn : (wv.updLanes m f).ctxn = wv.ctxn := rfl
@[simp] theorem updLanes_st : (wv.updLanes m f).st = wv.st := rfl
@[simp] theorem updLanes_trapped : (wv.updLanes m f).trapped = wv.trapped := rfl
@[simp] theorem updLanes_alloc : (wv.updLanes m f).alloc = wv.alloc := rfl
@[simp] theorem updLanes_w : (wv.updLanes m f).w = wv.w := rfl
@[simp] theorem updLanes_jm : (wv.updLanes m f).jm = wv.jm := rfl
@[simp] theorem updLanes_wk : (wv.updLanes m f).wk = wv.wk := rfl
@[simp] theorem updLanes_sh : (wv.updLanes m f).sh = wv.sh := rfl
@[simp] theorem updLanes_staged : (wv.updLanes m f).staged = wv.staged := rfl
@[simp] theorem updLanes_lastSet : (wv.updLanes m f).lastSet = wv.lastSet := rfl
@[simp] theorem updLanes_turn : (wv.updLanes m f).turn = wv.turn := rfl
@[simp] theorem updLanes_waited : (wv.updLanes m f).waited = wv.waited := rfl
@[simp] theorem updLanes_clause : (wv.updLanes m f).clause = wv.clause := rfl
@[simp] theorem updLanes_perf : (wv.updLanes m f).perf = wv.perf := rfl
@[simp] theorem updLanes_flights : (wv.updLanes m f).flights = wv.flights := rfl
@[simp] theorem updLanes_parks : (wv.updLanes m f).parks = wv.parks := rfl
@[simp] theorem updLanes_faultWait : (wv.updLanes m f).faultWait = wv.faultWait := rfl
@[simp] theorem updLanes_pend : (wv.updLanes m f).pend = wv.pend := rfl
@[simp] theorem updLanes_pendNxt : (wv.updLanes m f).pendNxt = wv.pendNxt := rfl
@[simp] theorem updLanes_x : (wv.updLanes m f).x = wv.x := rfl
@[simp] theorem updLanes_dbg : (wv.updLanes m f).dbg = wv.dbg := rfl
@[simp] theorem updLanes_sleep : (wv.updLanes m f).sleep = wv.sleep := rfl
@[simp] theorem updLanes_kidsWait : (wv.updLanes m f).kidsWait = wv.kidsWait := rfl
@[simp] theorem updLanes_mfreads : (wv.updLanes m f).mfreads = wv.mfreads := rfl
@[simp] theorem updLanes_berth : (wv.updLanes m f).berth = wv.berth := rfl
@[simp] theorem updLanes_mxStop : (wv.updLanes m f).mxStop = wv.mxStop := rfl
@[simp] theorem updLanes_priv : (wv.updLanes m f).priv = wv.priv := rfl
@[simp] theorem updLanes_lanes : (wv.updLanes m f).lanes = mapIx (fun l ln => if inMask m l then f l ln else ln) 0 wv.lanes := rfl

end wave

section lane
variable (ln : Lane) (n : Nat) (x : Word) (b : Bool) (g : BitVec 5)

@[simp] theorem setV_pc : (ln.setV n x).pc = ln.pc := rfl
@[simp] theorem setV_depth : (ln.setV n x).depth = ln.depth := rfl
@[simp] theorem setV_meet : (ln.setV n x).meet = ln.meet := rfl
@[simp] theorem setV_exited : (ln.setV n x).exited = ln.exited := rfl
@[simp] theorem setV_block : (ln.setV n x).block = ln.block := rfl
@[simp] theorem setV_p : (ln.setV n x).p = ln.p := rfl
@[simp] theorem setV_i0 : (ln.setV n x).i0 = ln.i0 := rfl
@[simp] theorem setV_i1 : (ln.setV n x).i1 = ln.i1 := rfl
@[simp] theorem setV_i2 : (ln.setV n x).i2 = ln.i2 := rfl
@[simp] theorem setV_i3 : (ln.setV n x).i3 = ln.i3 := rfl
@[simp] theorem setV_lsr : (ln.setV n x).lsr = ln.lsr := rfl
@[simp] theorem setV_srcnt : (ln.setV n x).srcnt = ln.srcnt := rfl
@[simp] theorem setV_v : (ln.setV n x).v = ln.v.set n x := rfl
@[simp] theorem setV_xlpc : (ln.setV n x).xlpc = ln.xlpc := rfl
@[simp] theorem setV_held : (ln.setV n x).held = ln.held := rfl
@[simp] theorem setV_lid : (ln.setV n x).lid = ln.lid := rfl
@[simp] theorem flag_pc : (ln.flag g).pc = ln.pc := rfl
@[simp] theorem flag_depth : (ln.flag g).depth = ln.depth := rfl
@[simp] theorem flag_meet : (ln.flag g).meet = ln.meet := rfl
@[simp] theorem flag_exited : (ln.flag g).exited = ln.exited := rfl
@[simp] theorem flag_block : (ln.flag g).block = ln.block := rfl
@[simp] theorem flag_p : (ln.flag g).p = ln.p := rfl
@[simp] theorem flag_i0 : (ln.flag g).i0 = ln.i0 := rfl
@[simp] theorem flag_i1 : (ln.flag g).i1 = ln.i1 := rfl
@[simp] theorem flag_i2 : (ln.flag g).i2 = ln.i2 := rfl
@[simp] theorem flag_i3 : (ln.flag g).i3 = ln.i3 := rfl
@[simp] theorem flag_lsr : (ln.flag g).lsr = ln.lsr ||| g.zeroExtend 32 := rfl
@[simp] theorem flag_srcnt : (ln.flag g).srcnt = ln.srcnt := rfl
@[simp] theorem flag_v : (ln.flag g).v = ln.v := rfl
@[simp] theorem flag_xlpc : (ln.flag g).xlpc = ln.xlpc := rfl
@[simp] theorem flag_held : (ln.flag g).held = ln.held := rfl
@[simp] theorem flag_lid : (ln.flag g).lid = ln.lid := rfl
@[simp] theorem setPred_pc : (ln.setPred n b).pc = ln.pc := by unfold Lane.setPred; split <;> rfl
@[simp] theorem setPred_depth : (ln.setPred n b).depth = ln.depth := by unfold Lane.setPred; split <;> rfl
@[simp] theorem setPred_meet : (ln.setPred n b).meet = ln.meet := by unfold Lane.setPred; split <;> rfl
@[simp] theorem setPred_exited : (ln.setPred n b).exited = ln.exited := by unfold Lane.setPred; split <;> rfl
@[simp] theorem setPred_block : (ln.setPred n b).block = ln.block := by unfold Lane.setPred; split <;> rfl
@[simp] theorem setPred_i0 : (ln.setPred n b).i0 = ln.i0 := by unfold Lane.setPred; split <;> rfl
@[simp] theorem setPred_i1 : (ln.setPred n b).i1 = ln.i1 := by unfold Lane.setPred; split <;> rfl
@[simp] theorem setPred_i2 : (ln.setPred n b).i2 = ln.i2 := by unfold Lane.setPred; split <;> rfl
@[simp] theorem setPred_i3 : (ln.setPred n b).i3 = ln.i3 := by unfold Lane.setPred; split <;> rfl
@[simp] theorem setPred_lsr : (ln.setPred n b).lsr = ln.lsr := by unfold Lane.setPred; split <;> rfl
@[simp] theorem setPred_srcnt : (ln.setPred n b).srcnt = ln.srcnt := by unfold Lane.setPred; split <;> rfl
@[simp] theorem setPred_v : (ln.setPred n b).v = ln.v := by unfold Lane.setPred; split <;> rfl
@[simp] theorem setPred_xlpc : (ln.setPred n b).xlpc = ln.xlpc := by unfold Lane.setPred; split <;> rfl
@[simp] theorem setPred_held : (ln.setPred n b).held = ln.held := by unfold Lane.setPred; split <;> rfl
@[simp] theorem setPred_lid : (ln.setPred n b).lid = ln.lid := by unfold Lane.setPred; split <;> rfl

end lane

end Sys2Proof.Laws
end

