-- ==== Sys2Proof/Laws/Frame.lean ====
section
/-! SUPPORT. The frame of one instruction: what it sees, what its operands read, and everything a short result, a long
result and a fault can do. -/
namespace Sys2Proof.Laws
open Sys2Proof.Machine

/-! ## What an instruction sees -/

/-- What `begin_` answers. -/
theorem begin_eq {s : State} {p : BitVec 4} {e : Env} (h : begin_ s p = some e) :
    mget s.waves s.cur = some e.wv ∧ e.wv.clause = some e.cl ∧ e.s = s ∧ e.w = s.cur ∧
      e.L = e.wv.predMask s.ctr (e.cl.set &&& e.wv.live) p := by
  unfold begin_ at h
  split at h
  · cases h
  · split at h
    · cases h
    · cases h; exact ⟨‹_›, ‹_›, rfl, rfl, rfl⟩

theorem begin_wave {s : State} {p : BitVec 4} {e : Env} (h : begin_ s p = some e) : s.wave s.cur = e.wv := by
  simp [State.wave, (begin_eq h).1]

section note
variable (e : Env) (f : Form) (ms : List Nat)

@[simp] theorem note_w : (e.note f ms).w = e.w := rfl
@[simp] theorem note_L : (e.note f ms).L = e.L := rfl
@[simp] theorem note_l0 : (e.note f ms).l0 = e.l0 := rfl
@[simp] theorem note_lanes : (e.note f ms).wv.lanes = e.wv.lanes := rfl
@[simp] theorem note_lane (l : Nat) : (e.note f ms).wv.lane l = e.wv.lane l := rfl
@[simp] theorem note_wregs : (e.note f ms).wv.w = e.wv.w := rfl
@[simp] theorem note_index (l n : Nat) (b : Bool) : (e.note f ms).wv.index l n b = e.wv.index l n b := rfl
@[simp] theorem note_rv (r l : Nat) : (e.note f ms).rv r l = e.rv r l := rfl
@[simp] theorem note_rw (r l : Nat) : (e.note f ms).rw r l = e.rw r l := rfl
@[simp] theorem note_rp (n l : Nat) : (e.note f ms).rp n l = e.rp n l := rfl
@[simp] theorem note_src (ck : ConstKind) (sp : BitVec 8) (l : Nat) : (e.note f ms).src ck sp l = e.src ck sp l := rfl
@[simp] theorem note_src64 (sp : BitVec 8) (l : Nat) : (e.note f ms).src64 sp l = e.src64 sp l := rfl
@[simp] theorem note_srcD (sp : BitVec 8) (l : Nat) : (e.note f ms).srcD sp l = e.srcD sp l := rfl
@[simp] theorem note_put (d : BitVec 8) (k l x : Nat) (b : Bool) : (e.note f ms).put d k l x b = e.put d k l x b := rfl
@[simp] theorem note_put64 (d : BitVec 8) (l x : Nat) : (e.note f ms).put64 d l x = e.put64 d l x := rfl
@[simp] theorem note_done (u : State) : (e.note f ms).done u = e.done u := rfl
@[simp] theorem note_toLane (d : BitVec 8) (k : Nat) (b : Bool) (l x : Nat) (ln : Lane) :
    (e.note f ms).toLane d k b l x ln = e.toLane d k b l x ln := rfl

end note

/-- The frame of an instruction that is at hand and whose token can count. -/
theorem issue_eq {f : Form} {p : BitVec 4} {ms : List Nat} {tok : Option Nat} {s : State} {e : Env} (k : Env → State)
    (h : begin_ s p = some e) (ht : e.full tok = false) (hf : e.indexFault f = none) :
    issue f p ms tok s k = .next (k (e.note f ms)) := by
  simp [issue, h, ht, hf]

/-- The frame of an instruction that waits behind others: with none waiting, the frame of any instruction. -/
theorem issueAfter_eq {f : Form} {p : BitVec 4} {ms : List Nat} {tok : Option Nat} {s : State} {e : Env}
    (k : Env → State) (h : begin_ s p = some e) (ho : e.behind = 0) : issueAfter f p ms tok s k = issue f p ms tok s k := by
  simp [issueAfter, h, ho]

/-- At hand, from the instruction's form. -/
theorem atHand_form {s : State} {i : Instr} {e : Env} {f : Form} {p : BitVec 4} (h : s.AtHand i e) (hf : formOf i = some (f, p)) :
    begin_ s p = some e ∧ e.indexFault f = none := by
  obtain ⟨⟨f', p', h1, h2, h3⟩, -⟩ := h
  rw [hf] at h1; cases h1; exact ⟨h2, h3⟩

/-- At hand, the form's own checks passed. -/
theorem atHand_wf {s : State} {i : Instr} {e : Env} {f : Form} {p : BitVec 4} (h : s.AtHand i e) (hf : formOf i = some (f, p)) :
    f.rsv = true ∧ f.mods = true ∧ p ≠ 15 := by
  have hw := h.wf
  simp only [Instr.wellFormed, Instr.decodeCause, hf, Form.cause] at hw
  cases h1 : f.rsv <;> cases h2 : f.mods <;> by_cases h3 : p = 15 <;> simp_all

/-! ## Destinations -/

theorem foldl_put (e : Env) (d : BitVec 8) (k l x : Nat) (b : Bool) (ln : Lane) :
    (e.put d k l x b).foldl Lane.put ln = e.toLane d k b l x ln := by
  unfold Env.put Env.toLane
  by_cases h1 : d.toNat < 0xC0
  · simp [h1, Lane.put]
  · by_cases h2 : d.toNat < 0xE0
    · have h3 : ¬ (0xE0 ≤ d.toNat ∧ d.toNat < 0xE4) := by omega
      simp only [h1, h2, h3, if_false, if_true]
      split <;> simp [Lane.put]
    · by_cases h3 : d.toNat < 0xE4
      · have h4 : 0xE0 ≤ d.toNat ∧ d.toNat < 0xE4 := ⟨by omega, h3⟩
        simp only [h1, h2, h3, h4, if_false, if_true, and_self]
        cases e.wv.index l (d.toNat - 0xE0) b <;> simp [Lane.put]
      · have h4 : ¬ (0xE0 ≤ d.toNat ∧ d.toNat < 0xE4) := by omega
        simp [h1, h2, h3]

theorem foldl_putP (n l : Nat) (b : Bool) (ln : Lane) : (putP n l b).foldl Lane.put ln = ln.setPred n b := by
  unfold putP
  by_cases h : n < 7
  · cases b <;> simp [h, Lane.put]
  · simp [h, Lane.setPred]

theorem mask_ne_zero_of_lowest {m : LaneMask} {l : Nat} (h : lowest m = some l) : m ≠ 0 := by
  rintro rfl
  simp [lowest, lanesOf, inMask] at h

theorem inMask_lowest {m : LaneMask} {l : Nat} (h : lowest m = some l) : inMask m l = true ∧ l < 32 := by
  have := List.mem_of_head? h
  simp only [lanesOf, List.mem_filter, List.mem_range] at this
  exact ⟨this.2, this.1⟩

theorem lowest_none {m : LaneMask} (h : lowest m = none) : m = 0 := by
  apply BitVec.eq_of_getLsbD_eq
  intro i hi
  simp only [lowest, List.head?_eq_none_iff, lanesOf] at h
  have := List.filter_eq_nil_iff.1 h i (by simpa using hi)
  simpa [inMask] using this

theorem putWave_put (e : Env) (d : BitVec 8) (k x : Nat) (b : Bool) (l : Nat) (h : lowest e.L = some l) (wv : Wave) (c : Nat → Nat)
    (hc : c l = x) :
    (e.put d k l x b).foldl Wave.putWave wv = { wv with w := e.toFile d k c wv.w } := by
  have hl : e.l0 = l := by simp [Env.l0, h]
  have hz : ¬ e.L = 0#32 := mask_ne_zero_of_lowest h
  unfold Env.put Env.toFile
  by_cases h1 : d.toNat < 0xC0
  · simp [h1, Wave.putWave, show ¬ 0xC0 ≤ d.toNat by omega]
  · by_cases h2 : d.toNat < 0xE0
    · simp [h1, h2, hl, Wave.putWave, hz, hc, show 0xC0 ≤ d.toNat by omega]
    · by_cases h3 : d.toNat < 0xE4
      · simp only [h1, h2, h3, if_false, if_true, and_false, false_and]
        cases e.wv.index l (d.toNat - 0xE0) b <;> simp [Wave.putWave]
      · simp [h1, h2, h3]

theorem putWave_putP (n l : Nat) (b : Bool) (wv : Wave) : (putP n l b).foldl Wave.putWave wv = wv := by
  unfold putP; split <;> simp [Wave.putWave]

theorem toFile_zero (e : Env) (d : BitVec 8) (k : Nat) (c : Nat → Nat) (w : List Word) (h : lowest e.L = none) :
    e.toFile d k c w = w := by
  simp [Env.toFile, lowest_none h]

theorem toLane_congr (e : Env) (d : BitVec 8) (k : Nat) (b : Bool) (l : Nat) {x y : Nat} (ln : Lane)
    (h : BitVec.ofNat 32 x = BitVec.ofNat 32 y) : e.toLane d k b l x ln = e.toLane d k b l y ln := by
  unfold Env.toLane; simp only [h]

theorem toFile_congr (e : Env) (d : BitVec 8) (k : Nat) {x y : Nat → Nat} (w : List Word)
    (h : BitVec.ofNat 32 (x e.l0) = BitVec.ofNat 32 (y e.l0)) : e.toFile d k x w = e.toFile d k y w := by
  unfold Env.toFile; simp only [h]

/-! ## Results -/

/-- Registers that results still go to change at most where new writes reach them. -/
theorem overwrite_waves (s : State) (w : Nat) (ws : List RegWrite) (k : Nat) :
    mget (s.overwrite w ws).waves k = (if k = w then (mget s.waves k).map (fun wv =>
      { wv with flights := overFlights s.ctr ws wv.flights, parks := wv.parks.map fun p => { p with dst := stillOwn s.ctr ws p.dst } })
     else mget s.waves k) := by
  by_cases h : k = w
  · subst h; simp [State.overwrite]
  · simp [State.overwrite, h, mget_mupd_of_ne]

theorem mmap_mmap (m : Map α) (f g : Nat → α → α) : mmap (mmap m f) g = mmap m fun k x => g k (f k x) := by
  simp [mmap, Function.comp_def]

theorem mmap_congr (m : Map α) {f g : Nat → α → α} (h : ∀ k x, f k x = g k x) : mmap m f = mmap m g := by
  have : f = g := funext fun k => funext fun x => h k x
  rw [this]

theorem mmap_mupd (m : Map α) (k : Nat) (f : α → α) (g : Nat → α → α) (h : ∀ x, g k (f x) = g k x) :
    mmap (mupd m k f) g = mmap m g := by
  induction m with
  | nil => rfl
  | cons a t ih =>
    obtain ⟨j, v⟩ := a
    unfold mupd
    split
    · rename_i hk; subst hk; simp [mmap, h]
    · simp only [mmap, List.map_cons] at ih ⊢; rw [ih]

/-- New writes take registers from what is outstanding, and nothing else. -/
theorem overwrite_outstanding (s : State) (w : Nat) (ws : List RegWrite) : (s.overwrite w ws).outstanding = s.outstanding := by
  unfold State.outstanding State.overwrite
  refine Prod.ext ?_ (Prod.ext ?_ ?_)
  · dsimp only
    rw [mmap_mmap]
    exact mmap_congr _ fun k x => by by_cases h : x.wave = w <;> simp only [h, if_true, if_false]
  · dsimp only
    rw [mmap_mmap]
    exact mmap_congr _ fun k x => by by_cases h : x.wave = w <;> simp only [h, if_true, if_false]
  dsimp only
  apply mmap_mupd
  intro x
  simp only [List.map_map]
  congr 1
  apply List.map_congr_left
  intro r _
  simp only [Function.comp]
  cases hr : r.waiter <;> simp [hr]
  rename_i v t dst
  by_cases h : v = w <;> simp [h, hr]

/-- The state after new writes to a wave's registers, where `s1` is `s0` with the wave `v`. -/
theorem leaves_over (e : Env) (s1 s0 : State) (v v0 : Wave) (ws : List RegWrite)
    (hv : mget s1.waves e.w = some v) (ho : ∀ k, k ≠ e.w → mget s1.waves k = mget s0.waves k)
    (hr : { s1 with waves := s0.waves } = s0) (hi : e.Is v v0)
    (hnf : v.flights.length ≤ e.wv.flights.length) (hnp : v.parks.length ≤ e.wv.parks.length) :
    e.Leaves (if e.s.quiet e.w e.wv then s1 else s1.overwrite e.w ws) s0 v0 := by
  cases hq : e.s.quiet e.w e.wv
  · simp only [Bool.false_eq_true, if_false]
    refine ⟨⟨_, by rw [overwrite_waves, if_pos rfl, hv]; rfl, ?_⟩, ?_, ?_, by rw [overwrite_outstanding, ← hr]; rfl,
      fun hx => by simp [hq] at hx⟩
    · refine ⟨hi.clause, hi.same, ?_, ?_, ?_, ?_, fun hx => by simp [hq] at hx⟩
      · rw [← hi.flights]; simp [overFlights, Flight.core]
      · rw [← hi.newFlights]
        simp [overFlights, List.drop_eq_nil_of_le hnf, hnf]
      · rw [← hi.parks]; simp [Park.core]
      · rw [← hi.newParks]
        simp [List.drop_eq_nil_of_le hnp, hnp]
    · intro k hk; rw [overwrite_waves, if_neg hk]; exact ho k hk
    · rw [← hr]; rfl
  · simp only [if_true]
    have h1 : s1.copies = s0.copies := by rw [← hr]
    have h2 : s1.cmds = s0.cmds := by rw [← hr]
    have h3 : s1.ctxs = s0.ctxs := by rw [← hr]
    refine ⟨⟨v, hv, hi⟩, ho, ?_, by simp [State.outstanding, h1, h2, h3], fun _ => ⟨h1, h2, h3⟩⟩
    rw [← hr]

/-- The state after a wave took its results: `v` is the wave with its lanes and `w` registers replaced. -/
theorem leaves_settle (e : Env) (f : Form) (ms : List Nat) (v : Wave) (ws : Unit → List RegWrite) (lanes : List Lane) (w : List Word)
    (hw : mget e.s.waves e.w = some e.wv) (hc : e.wv.clause = some e.cl)
    (hv : v = { (e.note f ms).wv with lanes := lanes, w := w }) :
    e.Leaves ((e.note f ms).settleOver ws ((e.note f ms).s.updWave e.w fun _ => v)) e.s { e.wv with lanes := lanes, w := w } := by
  have hg : mget ((e.note f ms).s.updWave e.w fun _ => v).waves e.w = some v := by simp [Env.note, hw]
  have ho : ∀ k, k ≠ e.w → mget ((e.note f ms).s.updWave e.w fun _ => v).waves k = mget e.s.waves k := by
    intro k hk; simp [Env.note, mget_mupd_of_ne _ _ hk]
  have hi : e.Is v { e.wv with lanes := lanes, w := w } := by
    subst hv
    exact ⟨⟨_, _, rfl, hc, rfl⟩, rfl, rfl, rfl, rfl, rfl, fun _ => ⟨rfl, rfl⟩⟩
  subst hv
  exact leaves_over e _ e.s _ _ (ws ()) hg ho rfl hi (Nat.le_refl _) (Nat.le_refl _)

/-- A short-latency instruction: each active lane takes what `g` says, the wave's registers what `g` says of the lowest one. -/
theorem short_ran {i : Instr} {f : Form} {p : BitVec 4} {ms : List Nat} {s : State} {e : Env} (g : Env → Nat → LaneOut)
    (hi : exec i s = issue f p ms none s fun e => e.short (g e))
    (h : begin_ s p = some e) (hf : e.indexFault f = none) (lf : Nat → Lane → Lane) (w : List Word)
    (hl : ∀ l ln, inMask e.L l = true → e.wv.lanes[l]? = some ln → ln.take (g (e.note f ms) l) = lf l ln)
    (hw : ∀ wv : Wave, wv.w = e.wv.w → (match lowest e.L with
        | none => wv
        | some l => (g (e.note f ms) l).regs.foldl Wave.putWave wv) = { wv with w := w }) :
    e.Ran i lf w := by
  obtain ⟨h1, h2, h3, h4, -⟩ := begin_eq h
  refine ⟨_, ?_, leaves_settle e f ms ((e.note f ms).apply (g (e.note f ms)))
    (fun _ => (lanesOf e.L).flatMap fun l => (g (e.note f ms) l).regs) _ _ (by rw [h3, h4]; exact h1) h2 ?_⟩
  · rw [h3, hi, issue_eq _ h rfl hf]; rfl
  · unfold Env.apply
    have := hw ({ (e.note f ms).wv with
      lanes := mapIx (fun l ln => if inMask e.L l then ln.take (g (e.note f ms) l) else ln) 0 e.wv.lanes }) rfl
    simp only [note_L, note_lanes]
    refine Eq.trans this ?_
    congr 1
    apply mapIx_congr
    intro l ln hln
    simp only [Nat.zero_add]
    by_cases hm : inMask e.L l = true
    · simp [hm, hl l ln hm hln]
    · simp [hm]

/-- A short-latency instruction with a 32-bit destination and flags. -/
theorem short_sets {i : Instr} {f : Form} {p : BitVec 4} {ms : List Nat} {s : State} {e : Env} {d : BitVec 8} {x : Nat → Nat}
    {fl : Nat → Flags} {dr : Nat → Nat} (g : Env → Nat → Nat) (gf : Env → Nat → Flags)
    (gd : Env → Nat → Nat)
    (hi : exec i s = issue f p ms none s fun e => e.short fun l =>
      { regs := e.put d 0 l (g e l), flags := gf e l, draws := gd e l })
    (h : begin_ s p = some e) (hf : e.indexFault f = none)
    (hx : ∀ l, inMask e.L l = true → BitVec.ofNat 32 (g (e.note f ms) l) = BitVec.ofNat 32 (x l))
    (hg : ∀ l, inMask e.L l = true → gf (e.note f ms) l = fl l)
    (hd : ∀ l, inMask e.L l = true → gd (e.note f ms) l = dr l) : e.Sets i d x fl dr := by
  refine short_ran _ hi h hf _ _ ?_ ?_
  · intro l ln hm _
    simp only [Lane.take, foldl_put, note_put]
    rw [toLane_congr e d 0 false l ln (hx l hm), hg l hm, hd l hm]
    rfl
  · intro wv hwv
    split
    · rename_i hn; rw [toFile_zero _ _ _ _ _ hn, ← hwv]
    · rename_i l hl
      simp only [note_put]
      rw [putWave_put e d 0 _ false l hl wv (fun l => g (e.note f ms) l) rfl, ← hwv]
      rw [toFile_congr e d 0 (y := x) wv.w (by simpa [Env.l0, hl] using hx l (inMask_lowest hl).1)]

theorem ofNat_mod (x : Nat) : BitVec.ofNat 32 (x % 2 ^ 32) = BitVec.ofNat 32 x := by
  apply BitVec.eq_of_toNat_eq; simp

/-- A short-latency instruction with a 64-bit destination and flags. -/
theorem short_sets64 {i : Instr} {f : Form} {p : BitVec 4} {ms : List Nat} {s : State} {e : Env} {d : BitVec 8} {x : Nat → Nat}
    {fl : Nat → Flags} {dr : Nat → Nat} (g : Env → Nat → Nat) (gf : Env → Nat → Flags)
    (gd : Env → Nat → Nat)
    (hi : exec i s = issue f p ms none s fun e => e.short fun l =>
      { regs := e.put64 d l (g e l), flags := gf e l, draws := gd e l })
    (h : begin_ s p = some e) (hf : e.indexFault f = none)
    (hx : ∀ l, inMask e.L l = true → g (e.note f ms) l = x l)
    (hg : ∀ l, inMask e.L l = true → gf (e.note f ms) l = fl l)
    (hd : ∀ l, inMask e.L l = true → gd (e.note f ms) l = dr l) : e.Sets64 i d x fl dr := by
  refine short_ran _ hi h hf _ _ ?_ ?_
  · intro l ln hm _
    simp only [Lane.take, Env.put64, List.foldl_append, foldl_put, note_toLane, hx l hm, hg l hm, hd l hm]
    rw [toLane_congr e d 0 true l ln (ofNat_mod (x l))]
    rfl
  · intro wv hwv
    split
    · rename_i hn; rw [toFile_zero _ _ _ _ _ hn, toFile_zero _ _ _ _ _ hn, ← hwv]
    · rename_i l hl
      simp only [Env.put64, note_put, List.foldl_append, hx l (inMask_lowest hl).1]
      have h0 : e.l0 = l := by simp [Env.l0, hl]
      rw [putWave_put e d 0 _ true l hl wv (fun l => x l % 2 ^ 32) rfl,
        putWave_put e d 1 _ true l hl _ (fun l => x l / 2 ^ 32) rfl, ← hwv]
      simp only
      rw [toFile_congr e d 0 (y := x) wv.w (ofNat_mod (x e.l0))]

/-- A short-latency instruction with a 32-bit destination, a predicate destination and flags. -/
theorem short_setsP {i : Instr} {f : Form} {p : BitVec 4} {ms : List Nat} {s : State} {e : Env} {d : BitVec 8} {x : Nat → Nat}
    {n : Nat} {b : Nat → Bool} {fl : Nat → Flags} (g : Env → Nat → Nat) (gb : Env → Nat → Bool) (gf : Env → Nat → Flags)
    (hi : exec i s = issue f p ms none s fun e => e.short fun l =>
      { regs := e.put d 0 l (g e l) ++ putP n l (gb e l), flags := gf e l })
    (h : begin_ s p = some e) (hf : e.indexFault f = none)
    (hx : ∀ l, inMask e.L l = true → BitVec.ofNat 32 (g (e.note f ms) l) = BitVec.ofNat 32 (x l))
    (hb : ∀ l, inMask e.L l = true → gb (e.note f ms) l = b l)
    (hg : ∀ l, inMask e.L l = true → gf (e.note f ms) l = fl l) : e.SetsP i d x n b fl := by
  refine short_ran _ hi h hf _ _ ?_ ?_
  · intro l ln hm _
    simp only [Lane.take, note_put, List.foldl_append, foldl_put, foldl_putP, hb l hm, hg l hm]
    rw [toLane_congr e d 0 false l ln (hx l hm)]
    simp [Lane.flag]
  · intro wv hwv
    split
    · rename_i hn; rw [toFile_zero _ _ _ _ _ hn, ← hwv]
    · rename_i l hl
      simp only [note_put, List.foldl_append, putWave_putP]
      rw [putWave_put e d 0 _ false l hl wv (fun l => g (e.note f ms) l) rfl, ← hwv]
      rw [toFile_congr e d 0 (y := x) wv.w (by simpa [Env.l0, hl] using hx l (inMask_lowest hl).1)]

/-- The state after a long-latency operation was put on its way; `s1` is `s0` with the wave `v`. -/
theorem leaves_launch (e e' : Env) (s1 s0 : State) (v v0 : Wave) (t : Option Nat) (hold : Bool) (ws : List RegWrite)
    (fl : List (Nat × Flags)) (he : e'.w = e.w ∧ e'.L = e.L ∧ e'.s.quiet e'.w e'.wv = e.s.quiet e.w e.wv) (hh : e'.cl.set = e.cl.set)
    (hv : mget s1.waves e.w = some v) (ho : ∀ k, k ≠ e.w → mget s1.waves k = mget s0.waves k)
    (hr : { s1 with waves := s0.waves } = s0) (hi : e.Is v v0)
    (hf : v0.flights = e.wv.flights) (hp : v0.parks = e.wv.parks) :
    e.Leaves (s1.launch e' t hold ws fl) s0 (if e.L = 0 then v0 else
      { (v0.tokUp t) with flights := v0.flights ++ [{ tok := t, hold := e.holds hold, writes := ws, flags := fl }] }) := by
  obtain ⟨h1, h2, h3⟩ := he
  have hh : e'.holds hold = e.holds hold := by unfold Env.holds; rw [hh]
  rw [h1] at h3
  have hnf : v.flights.length = e.wv.flights.length := by
    have := congrArg List.length hi.flights; simpa [hf] using this
  have hnp : v.parks.length = e.wv.parks.length := by
    have := congrArg List.length hi.parks; simpa [hp] using this
  have hL := leaves_over e s1 s0 v v0 ws hv ho hr hi (Nat.le_of_eq hnf) (Nat.le_of_eq hnp)
  unfold State.launch
  rw [h1, h2, h3, hh]
  by_cases hz : e.L = 0
  · simp only [hz, if_true]
    refine ⟨⟨v, hv, hi⟩, ho, by rw [← hr], by rw [← hr]; rfl, fun _ => ?_⟩
    rw [← hr]; exact ⟨rfl, rfl, rfl⟩
  · simp only [hz, if_false]
    generalize hs2 : (if e.s.quiet e.w e.wv = true then s1 else s1.overwrite e.w ws) = s2 at hL ⊢
    obtain ⟨⟨x, hx, hxi⟩, hw, hrest, hkept, hquiet⟩ := hL
    have hlen : x.flights.length = e.wv.flights.length := by
      have := congrArg List.length hxi.flights; simpa [hf] using this
    refine ⟨⟨_, by simp [hx]; rfl, ?_⟩, ?_, hrest, hkept, hquiet⟩
    · obtain ⟨c, c0, hc, hc0, hcc⟩ := hxi.clause
      have hs := hxi.same
      have key : ∀ (y : Wave) (n : Option Nat) (fs : List Flight), { (y.tokUp n) with flights := fs } =
          { y with flights := fs, wk := (y.tokUp n).wk } := by
        intro y n fs; cases n <;> rfl
      have hwk : (x.tokUp t).wk = (v0.tokUp t).wk := by
        have : x.wk = v0.wk := by rw [← hs]
        cases t <;> simp [Wave.tokUp, this]
      rw [key, key, hwk]
      refine ⟨⟨c, c0, hc, hc0, hcc⟩, ?_, ?_, ?_, hxi.parks, hxi.newParks, fun hq => ?_⟩
      · rw [← hs]
      · simp [hxi.flights]
      · simp [hlen, hf]
      · obtain ⟨q1, q2⟩ := hxi.quiet hq; exact ⟨by simp [q1], q2⟩
    · intro k hk; simp [mget_mupd_of_ne _ _ hk, hw k hk]

end Sys2Proof.Laws
end

