-- ==== Sys2Proof/Laws/Memory.lean ====
section
/-! SUPPORT. Memory as a canonical list of bytes: what is read after a write, and that every operation keeps the form. -/
namespace Sys2Proof.Laws
open Sys2Proof.Machine

theorem readCell_of_lt {lo : Nat} {m : List Host.Cell} (h : wfFrom lo m = true) {x : Nat} (hx : x < lo) : readCell m x = 0 := by
  induction m generalizing lo with
  | nil => rfl
  | cons c t ih =>
    obtain ⟨a, b⟩ := c
    simp only [wfFrom, Bool.and_eq_true, decide_eq_true_eq] at h
    simp [readCell, show ¬ x = a by omega, show x < a by omega]

theorem wfFrom_mono {lo lo' : Nat} {m : List Host.Cell} (h : wfFrom lo m = true) (hl : lo' ≤ lo) : wfFrom lo' m = true := by
  cases m with
  | nil => rfl
  | cons c t =>
    obtain ⟨a, b⟩ := c
    simp only [wfFrom, Bool.and_eq_true, decide_eq_true_eq] at h ⊢
    exact ⟨⟨by omega, h.1.2⟩, h.2⟩

theorem writeCell_wfFrom {lo : Nat} {m : List Host.Cell} (h : wfFrom lo m = true) {x : Nat} (hx : lo ≤ x) (y : Byte) :
    wfFrom lo (writeCell m x y) = true := by
  induction m generalizing lo with
  | nil => by_cases e : y = 0#8 <;> simp [writeCell, wfFrom, e, hx]
  | cons c t ih =>
    obtain ⟨a, b⟩ := c
    simp only [wfFrom, Bool.and_eq_true, decide_eq_true_eq, bne_iff_ne, ne_eq] at h
    unfold writeCell
    by_cases ex : x = a
    · subst ex
      by_cases e : y = 0#8
      · simpa [e] using wfFrom_mono h.2 (by omega)
      · simp [wfFrom, e, hx, h.2]
    · by_cases el : x < a
      · by_cases e : y = 0#8
        · simpa [ex, el, e, wfFrom] using h
        · simp [ex, el, e, wfFrom, hx, h.2, show x + 1 ≤ a by omega]; exact h.1.2
      · simp only [ex, el, if_false, wfFrom, Bool.and_eq_true, decide_eq_true_eq, bne_iff_ne, ne_eq]
        exact ⟨h.1, ih h.2 (by omega)⟩

/-- Writing a byte keeps the canonical form. -/
theorem writeCell_wf {m : List Host.Cell} (h : Memory.wf m = true) (x : Nat) (y : Byte) : Memory.wf (writeCell m x y) = true :=
  writeCell_wfFrom h (Nat.zero_le x) y

/-- Writing bytes keeps the canonical form. -/
theorem writeCells_wf {m : List Host.Cell} (h : Memory.wf m = true) (x : Nat) (bs : List Byte) :
    Memory.wf (writeCells m x bs) = true := by
  induction bs generalizing m x with
  | nil => exact h
  | cons b t ih => exact ih (writeCell_wf h x b) (x + 1)

theorem filter_wfFrom {lo : Nat} {m : List Host.Cell} (h : wfFrom lo m = true) (p : Host.Cell → Bool) :
    wfFrom lo (m.filter p) = true := by
  induction m generalizing lo with
  | nil => rfl
  | cons c t ih =>
    obtain ⟨a, b⟩ := c
    simp only [wfFrom, Bool.and_eq_true, decide_eq_true_eq] at h
    by_cases e : p (a, b) = true
    · simp [e, wfFrom, h.1, ih h.2]; simpa using h.1.2
    · simpa [e] using wfFrom_mono (ih h.2) (by omega)

/-- Dropping bytes keeps the canonical form. -/
theorem clearCells_wf {m : List Host.Cell} (h : Memory.wf m = true) (a n : Nat) : Memory.wf (clearCells m a n) = true :=
  filter_wfFrom h _

theorem readCell_writeCell_from {lo : Nat} {m : List Host.Cell} (h : wfFrom lo m = true) (x : Nat) (y : Byte) (z : Nat) :
    readCell (writeCell m x y) z = if z = x then y else readCell m z := by
  induction m generalizing lo with
  | nil =>
    by_cases e : y = 0#8 <;> by_cases ez : z = x <;> simp [writeCell, readCell, e, ez]
  | cons c t ih =>
    obtain ⟨a, b⟩ := c
    simp only [wfFrom, Bool.and_eq_true, decide_eq_true_eq, bne_iff_ne, ne_eq] at h
    unfold writeCell
    by_cases ex : x = a
    · subst ex
      by_cases e : y = 0#8
      · simp only [if_true, e]
        by_cases ez : z = x
        · subst ez; simpa using readCell_of_lt h.2 (by omega)
        · by_cases el : z < x
          · simp [readCell, ez, el, readCell_of_lt h.2 (show z < x + 1 by omega)]
          · simp [readCell, ez, el]
      · by_cases ez : z = x <;> simp [readCell, e, ez]
    · by_cases el : x < a
      · by_cases e : y = 0#8
        · by_cases ez : z = x
          · subst ez; simp [readCell, ex, el, e]
          · simp [readCell, ex, el, e, ez]
        · by_cases ez : z = x
          · subst ez; simp [readCell, ex, el, e]
          · by_cases ea : z = a
            · subst ea; simp [readCell, ex, el, e, ez]; omega
            · by_cases ezx : z < x
              · simp [readCell, ex, el, e, ez, ea, ezx, show z < a by omega]
              · simp [readCell, ex, el, e, ez, ea, ezx]
      · simp only [ex, el, if_false, readCell]
        by_cases ea : z = a
        · subst ea; simp [Ne.symm ex]
        · by_cases eza : z < a
          · simp [ea, eza, show ¬ z = x by omega]
          · simp [ea, eza, ih h.2]

/-- A read after a write of one byte. -/
theorem readCell_writeCell {m : List Host.Cell} (h : Memory.wf m = true) (x : Nat) (y : Byte) (z : Nat) :
    readCell (writeCell m x y) z = if z = x then y else readCell m z :=
  readCell_writeCell_from h x y z

/-- A read after a write of bytes: the byte written there, else the old one. -/
theorem readCell_writeCells {m : List Host.Cell} (h : Memory.wf m = true) (x : Nat) (bs : List Byte) (z : Nat) :
    readCell (writeCells m x bs) z = if x ≤ z ∧ z < x + bs.length then bs.getD (z - x) 0 else readCell m z := by
  induction bs generalizing m x with
  | nil => rw [if_neg fun h => Nat.not_lt.mpr h.1 h.2]; rfl
  | cons b t ih =>
    rw [writeCells, ih (writeCell_wf h x b), readCell_writeCell h]
    by_cases e : z = x
    · subst e; simp [show ¬ z + 1 ≤ z by omega]
    · by_cases el : x ≤ z
      · simp [e, show x + 1 ≤ z by omega, el, show z - x = z - (x + 1) + 1 by omega]
        congr 1
        apply propext; omega
      · simp [e, el, show ¬ x + 1 ≤ z by omega]

theorem length_readCells (m : List Host.Cell) (x n : Nat) : (readCells m x n).length = n := by
  induction n generalizing x with
  | zero => rfl
  | succ k ih => simp [readCells, ih]

theorem getD_readCells (m : List Host.Cell) (x n i : Nat) (h : i < n) : (readCells m x n).getD i 0 = readCell m (x + i) := by
  induction n generalizing x i with
  | zero => omega
  | succ k ih => cases i with
    | zero => simp [readCells]
    | succ j =>
      have := ih (x + 1) j (by omega)
      simp only [readCells, List.getD_cons_succ, this]; congr 1; omega

/-- Bytes read where they were just written. -/
theorem readCells_writeCells {m : List Host.Cell} (h : Memory.wf m = true) (x : Nat) (bs : List Byte) :
    readCells (writeCells m x bs) x bs.length = bs := by
  apply List.ext_getElem (by rw [length_readCells])
  intro i h1 h2
  have hg := getD_readCells (writeCells m x bs) x bs.length i h2
  rw [readCell_writeCells h, if_pos ⟨by omega, by omega⟩] at hg
  simp only [Nat.add_sub_cancel_left] at hg
  simpa [List.getD_eq_getElem?_getD, h1, h2] using hg

end Sys2Proof.Laws
end

