-- ==== Sys2Proof/Laws/Operands.lean ====
section
/-! SUPPORT. Operands as words: their ranges, and the integers they stand for (R22, R63, R64). -/
namespace Sys2Proof.Laws
open Sys2Proof.Machine

theorem constInt_lt (sp : Nat) : constInt sp < 2 ^ 32 := by
  unfold constInt
  rw [List.getD_eq_getElem?_getD]
  cases h : ([0, 1, 2, 4, 8, 16, 0xFFFFFFFF, 0xFFFFFFFE, 0x3F000000, 0x3F800000, 0x40000000, 0xBF800000, 0x3E800000, 0x40490FDB,
   0x3FB8AA3B] : List Nat)[sp - 0xF0]? with
  | none => simp
  | some x =>
    have := List.mem_of_getElem? h
    simp at this; simp; omega

/-- A 32-bit operand is a 32-bit number. -/
theorem src_lt (e : Env) (sp : BitVec 8) (l : Nat) : e.src constInt sp l < 2 ^ 32 := by
  have hv : ∀ w : Word, w.toNat < 2 ^ 32 := fun w => w.isLt
  have hs : e.special sp.toNat l < 2 ^ 32 := Nat.mod_lt _ (by decide)
  by_cases h1 : sp.toNat < 0xC0
  · simp only [Env.src, h1, if_true]; exact hv _
  · by_cases h2 : sp.toNat < 0xE0
    · simp only [Env.src, h1, h2, if_true, if_false]; exact hv _
    · by_cases h3 : sp.toNat < 0xE4
      · simp only [Env.src, h1, h2, h3, if_true, if_false]
        cases e.wv.index l (sp.toNat - 0xE0) false with
        | none => exact Nat.two_pow_pos 32
        | some r => exact hv _
      · by_cases h4 : 0xF0 ≤ sp.toNat
        · simp only [Env.src, h1, h2, h3, h4, if_true, if_false]; exact constInt_lt _
        · simp only [Env.src, h1, h2, h3, h4, if_false]; exact hs

theorem wrapNat_eq (w : Nat) (x : Int) : wrapNat w x = (BitVec.ofInt w x).toNat := by
  simp [wrapNat, BitVec.toNat_ofInt]

theorem pair_lt (x y : Word) : x.toNat + 2 ^ 32 * y.toNat < 2 ^ 64 := by
  have := x.isLt; have := y.isLt; omega

/-- A 64-bit operand is a 64-bit number. -/
theorem src64_lt (e : Env) (sp : BitVec 8) (l : Nat) : e.src64 sp l < 2 ^ 64 := by
  have hw : ∀ x, wrapNat 64 x < 2 ^ 64 := fun x => by rw [wrapNat_eq]; exact (BitVec.ofInt 64 x).isLt
  by_cases h1 : sp.toNat < 0xC0
  · simp only [Env.src64, h1, if_true]; exact pair_lt _ _
  · by_cases h2 : sp.toNat < 0xE0
    · simp only [Env.src64, h1, h2, if_true, if_false]; exact pair_lt _ _
    · by_cases h3 : sp.toNat < 0xE4
      · simp only [Env.src64, h1, h2, h3, if_true, if_false]
        cases e.wv.index l (sp.toNat - 0xE0) true with
        | none => exact Nat.two_pow_pos 64
        | some r => exact pair_lt _ _
      · by_cases h4 : sp.toNat = 0xED
        · simp only [Env.src64, h4]; exact (by decide : 2 ^ 64 - 1 < 2 ^ 64)
        · by_cases h5 : sp.toNat = 0xEF
          · simp only [Env.src64, h5]
            exact Nat.lt_trans (Nat.mod_lt _ (by decide)) (by decide)
          · by_cases h6 : 0xF8 ≤ sp.toNat
            · simp only [Env.src64, h1, h2, h3, h4, h5, h6, if_true, if_false]
              exact Nat.lt_trans (constInt_lt _) (by decide)
            · by_cases h7 : 0xF0 ≤ sp.toNat
              · simp only [Env.src64, h1, h2, h3, h4, h5, h6, h7, if_true, if_false]; exact hw _
              · simp only [Env.src64, h1, h2, h3, h4, h5, h6, h7, if_false]; exact hw _

theorem toNat_ofNat_lt {w x : Nat} (h : x < 2 ^ w) : (BitVec.ofNat w x).toNat = x := by
  rw [BitVec.toNat_ofNat, Nat.mod_eq_of_lt h]

theorem wa_toNat (e : Env) (f : F3) (l : Nat) : (e.wa f l).toNat = e.a f l := toNat_ofNat_lt (src_lt e f.a l)
theorem wb_toNat (e : Env) (f : F3) (l : Nat) : (e.wb f l).toNat = e.b f l := toNat_ofNat_lt (src_lt e f.b l)
theorem wc_toNat (e : Env) (f : F3) (l : Nat) : (e.wc f l).toNat = e.c f l := toNat_ofNat_lt (src_lt e f.c l)
theorem wi_toNat (e : Env) (f : FI) (l : Nat) : (e.wi f l).toNat = e.src constInt f.a l := toNat_ofNat_lt (src_lt e f.a l)
theorem wide_toNat (e : Env) (sp : BitVec 8) (l : Nat) : (e.wide sp l).toNat = e.src64 sp l := toNat_ofNat_lt (src64_lt e sp l)

theorem sx_toNat {w : Nat} (x : BitVec w) : sx w x.toNat = x.toInt := by
  simp only [sx, BitVec.toInt]
  rw [Nat.mod_eq_of_lt x.isLt]

/-- The integer a word stands for, in either signedness. -/
theorem extInt_toNat {w : Nat} (sg : Bool) (x : BitVec w) : extInt sg w x.toNat = numOf sg x := by
  unfold extInt numOf
  split
  · exact sx_toNat x
  · rw [Nat.mod_eq_of_lt x.isLt]

theorem ai_eq (e : Env) (f : F3) (l : Nat) : e.ai f l = numOf f.signed (e.wa f l) := by
  rw [← extInt_toNat, wa_toNat]; rfl
theorem bi_eq (e : Env) (f : F3) (l : Nat) : e.bi f l = numOf f.signed (e.wb f l) := by
  rw [← extInt_toNat, wb_toNat]; rfl
theorem ci_eq (e : Env) (f : F3) (l : Nat) : e.ci f l = numOf f.signed (e.wc f l) := by
  rw [← extInt_toNat, wc_toNat]; rfl

theorem clampInt_eq (lo hi x : Int) (h : lo ≤ hi) : clampInt lo hi x = max lo (min x hi) := by
  unfold clampInt; repeat' split
  all_goals omega

theorem two_pow_pos_int (w : Nat) : (0 : Int) < 2 ^ w := by
  have := Nat.two_pow_pos w
  have h : ((2 ^ w : Nat) : Int) = 2 ^ w := by simp
  omega

/-- R22: the fitted integer, in words. -/
theorem fitInt_eq (sat sg : Bool) (w : Nat) (x : Int) : fitInt sat sg w x = (satTo sat sg w x).toNat := by
  unfold fitInt satTo
  rw [wrapNat_eq]
  congr 2
  have := two_pow_pos_int (w - 1)
  have := two_pow_pos_int w
  cases sat <;> cases sg <;> simp [intLo, intHi]
  · rw [clampInt_eq]; omega
  · rw [clampInt_eq]; omega

/-- A 32-bit result of an instruction at hand. -/
theorem sets_of {i : Instr} {f : Form} {p : BitVec 4} {ms : List Nat} {s : State} {e : Env} {d : BitVec 8} {x : Nat → Nat}
    (h : s.AtHand i e) (hf : formOf i = some (f, p)) (g : Env → Nat → Nat)
    (hi : exec i s = issue f p ms none s fun e => e.short fun l => { regs := e.put d 0 l (g e l) })
    (hn : ∀ l, g (e.note f ms) l = g e l) (hx : ∀ l, BitVec.ofNat 32 (g e l) = BitVec.ofNat 32 (x l)) : e.Sets i d x := by
  obtain ⟨h1, h2⟩ := atHand_form h hf
  exact short_sets g (fun _ _ => 0) (fun _ _ => 0) hi h1 h2 (fun l _ => by rw [hn]; exact hx l) (fun _ _ => rfl) (fun _ _ => rfl)

/-- A 64-bit result of an instruction at hand. -/
theorem sets64_of {i : Instr} {f : Form} {p : BitVec 4} {ms : List Nat} {s : State} {e : Env} {d : BitVec 8} {x : Nat → Nat}
    (h : s.AtHand i e) (hf : formOf i = some (f, p)) (g : Env → Nat → Nat)
    (hi : exec i s = issue f p ms none s fun e => e.short fun l => { regs := e.put64 d l (g e l) })
    (hn : ∀ l, g (e.note f ms) l = g e l) (hx : ∀ l, g e l = x l) : e.Sets64 i d x := by
  obtain ⟨h1, h2⟩ := atHand_form h hf
  exact short_sets64 g (fun _ _ => 0) (fun _ _ => 0) hi h1 h2 (fun l _ => by rw [hn]; exact hx l) (fun _ _ => rfl) (fun _ _ => rfl)

end Sys2Proof.Laws
end

