-- ==== Sys2Proof/Laws/Ops.lean ====
section
/-! SUPPORT. What the shared operations over memory, and those at a clause's end, can do: the memories keep their canonical form;
settling waves, barriers and steps leave memory alone; what retiring a clause and entering a trap leave of the wave. -/
namespace Sys2Proof.Laws
open Sys2Proof.Machine

/-! ## Memory -/

/-- The two memories of a state are those of another. -/
def SameMem (s t : State) : Prop := t.mem = s.mem ∧ t.hostMem = s.hostMem

theorem sameMem_refl (s : State) : SameMem s s := ⟨rfl, rfl⟩
theorem sameMem_trans {s t u : State} (h : SameMem s t) (k : SameMem t u) : SameMem s u := ⟨k.1.trans h.1, k.2.trans h.2⟩
theorem sameMem_foldl {α : Type} (f : State → α → State) (hf : ∀ s a, SameMem s (f s a)) (l : List α) (s : State) : SameMem s (l.foldl f s) := by
  induction l generalizing s with
  | nil => exact sameMem_refl s
  | cons a l ih => exact sameMem_trans (hf s a) (ih (f s a))
theorem sameMem_ite {c : Prop} [Decidable c] {s a b : State} (h : SameMem s a) (k : SameMem s b) : SameMem s (if c then a else b) := by
  split
  · exact h
  · exact k
theorem memOk_of_sameMem {s t : State} (h : SameMem s t) (k : s.memOk) : t.memOk := ⟨h.1 ▸ k.1, h.2 ▸ k.2⟩

theorem pwrite_memOk {s : State} (h : s.memOk) (sys : Bool) (a : Nat) (bs : List Byte) : (s.pwrite sys a bs).memOk := by
  cases sys
  · exact ⟨writeCells_wf h.1 _ bs, h.2⟩
  · exact ⟨h.1, writeCells_wf h.2 a bs⟩

/-- A write through translations changes the memories only, and the record of what they held before. -/
theorem vwriteGo_only (c ag : Nat) (ps : List (Nat × Nat)) (bs : List Byte) (s : State) :
    ∃ m h o, vwriteGo c ag ps bs s = { s with mem := m, hostMem := h, olds := o } := by
  induction ps generalizing bs s with
  | nil => exact ⟨s.mem, s.hostMem, s.olds, rfl⟩
  | cons p ps ih =>
    obtain ⟨va, k⟩ := p
    rw [vwriteGo]
    split
    · rename_i sys pa e _
      obtain ⟨m, h, o, hm⟩ := ih (bs.drop k) (s.pwrite sys pa (bs.take k))
      exact ⟨m, h, o, by rw [hm]; cases sys <;> rfl⟩
    · exact ih _ s
theorem vwrite_only (s : State) (c va : Nat) (bs : List Byte) (ag : Nat) :
    ∃ m h o, s.vwrite c va bs ag = { s with mem := m, hostMem := h, olds := o } := vwriteGo_only c ag _ bs s

theorem vwriteGo_memOk (c ag : Nat) (ps : List (Nat × Nat)) (bs : List Byte) {s : State} (h : s.memOk) : (vwriteGo c ag ps bs s).memOk := by
  induction ps generalizing bs s with
  | nil => exact h
  | cons p ps ih =>
    obtain ⟨va, k⟩ := p
    rw [vwriteGo]
    split
    · exact ih _ (pwrite_memOk h _ _ _)
    · exact ih _ h
theorem vwrite_memOk {s : State} (h : s.memOk) (c va : Nat) (bs : List Byte) (ag : Nat) : (s.vwrite c va bs ag).memOk :=
  vwriteGo_memOk c ag _ bs h

theorem privStore_sameMem (c w l va : Nat) (bs : List Byte) (i : Nat) (s : State) : SameMem s (privStore c w l va bs i s) := by
  induction bs generalizing i s with
  | nil => exact sameMem_refl s
  | cons b bs ih =>
    rw [privStore]
    split
    · exact ih _ s
    · exact sameMem_trans ⟨rfl, rfl⟩ (ih _ _)
/-- What a store does to private memory changes no byte of memory. -/
theorem privAfter_sameMem (s : State) (c w l va : Nat) (bs : List Byte) : SameMem s (s.privAfter c w l va bs) :=
  sameMem_ite (privStore_sameMem ..) (sameMem_refl s)
theorem writeAs_memOk {s : State} (h : s.memOk) (ag c w l va : Nat) (bs : List Byte) : (s.writeAs ag c w l va bs).memOk :=
  memOk_of_sameMem (privAfter_sameMem ..) (vwrite_memOk h ..)
theorem svwrite_memOk {s : State} (h : s.memOk) (c va : Nat) (bs : List Byte) : (s.svwrite c va bs).memOk := writeAs_memOk h ..
theorem gwrite_memOk {s : State} (h : s.memOk) (c w l va : Nat) (bs : List Byte) : (s.gwrite c w l va bs).memOk := writeAs_memOk h ..

/-! ## A boundary -/

theorem retireWave_sameMem (s : State) (w : Nat) : SameMem s (s.retireWave w) := by
  unfold State.retireWave
  simp only
  split <;> exact ⟨rfl, rfl⟩
theorem dock_sameMem (s : State) (w : Nat) : SameMem s (s.dock w) := ⟨rfl, rfl⟩
theorem settleRun_sameMem (s : State) (w : Nat) (wv : Wave) : SameMem s (s.settleRun w wv) := by
  have h : ∀ f, SameMem s (s.updWave w f) := fun _ => ⟨rfl, rfl⟩
  unfold State.settleRun
  exact sameMem_ite (sameMem_ite (sameMem_trans (h _) (dock_sameMem _ w)) (sameMem_ite (h _) (sameMem_ite (h _) (h _))))
    (sameMem_ite (h _) (h _))
theorem settleAt_sameMem (grp : Bool) (s : State) (w : Nat) : SameMem s (s.settleAt grp w) := by
  unfold State.settleAt
  split
  · exact sameMem_refl s
  · have h : ∀ f, SameMem s (s.updWave w f) := fun _ => ⟨rfl, rfl⟩
    exact sameMem_ite (sameMem_refl s) (sameMem_ite (h _) (sameMem_ite (h _) (sameMem_ite (h _)
      (sameMem_ite (sameMem_ite (retireWave_sameMem s w) (h _)) (settleRun_sameMem s w _)))))
theorem unblock_sameMem (s : State) (b : Block) (ws : List Nat) : SameMem s (s.unblock b ws) :=
  sameMem_trans (sameMem_foldl (fun (s : State) w => s.updWave w fun x =>
    { x with lanes := x.lanes.map fun ln => if ln.block = b then { ln with block := .none } else ln }) (fun _ _ => ⟨rfl, rfl⟩) ws s)
    (sameMem_foldl _ (settleAt_sameMem false) ws _)
theorem syncBar_sameMem (t : Nat) (s : State) (b : Nat) : SameMem s (s.syncBar t b) := by
  unfold State.syncBar
  simp only
  split
  · exact sameMem_trans ⟨rfl, rfl⟩ (unblock_sameMem ..)
  · exact ⟨rfl, rfl⟩
theorem syncBarg_sameMem (g : Nat) (s : State) (b : Nat) : SameMem s (s.syncBarg g b) := by
  unfold State.syncBarg
  exact sameMem_ite (sameMem_trans ⟨rfl, rfl⟩ (unblock_sameMem ..)) ⟨rfl, rfl⟩
theorem syncStep_sameMem (t : Nat) (s : State) (k : Nat) : SameMem s (s.syncStep t k) := by
  unfold State.syncStep
  exact sameMem_ite (sameMem_refl s) (sameMem_trans (sameMem_foldl (State.stepTeam k) (fun _ _ => ⟨rfl, rfl⟩) _ s) (unblock_sameMem ..))
theorem syncTeam_sameMem (s : State) (t : Nat) : SameMem s (s.syncTeam t) := by
  unfold State.syncTeam
  refine sameMem_trans (t := (List.range 16).foldl (State.syncBar t) s) (sameMem_foldl _ (syncBar_sameMem t) _ s)
    (sameMem_trans ?_ (sameMem_foldl _ (syncStep_sameMem t) _ _))
  split
  · exact sameMem_foldl _ (syncBarg_sameMem _) _ _
  · exact sameMem_refl _
theorem markRunnable_sameMem (s : State) (t : Nat) : SameMem s (s.markRunnable t) := by
  unfold State.markRunnable
  exact sameMem_ite ⟨rfl, rfl⟩ (sameMem_refl s)
theorem noteRunnable_sameMem (s : State) (w : Nat) : SameMem s (s.noteRunnable w) := by
  unfold State.noteRunnable
  exact sameMem_ite (markRunnable_sameMem ..) (sameMem_refl s)
theorem boundaryAt_sameMem (grp : Bool) (s : State) (w : Nat) : SameMem s (s.boundaryAt grp w) := by
  have h := settleAt_sameMem grp s w
  unfold State.boundaryAt
  exact sameMem_ite (sameMem_ite h (sameMem_trans h (syncTeam_sameMem ..))) (noteRunnable_sameMem s w)
/-- Settling a wave and what its team waits for changes no byte of memory. -/
theorem boundary_sameMem (s : State) (w : Nat) : SameMem s (s.boundary w) := boundaryAt_sameMem true s w

/-! ## The end of a clause, the entry to a trap -/

/-- What landing one result leaves of a wave: all but its lanes, `w` registers, shapes and tokens. -/
theorem landFlight_only (v : Wave) (f : Flight) :
    ∃ ls w sh wk, v.landFlight f = { v with lanes := ls, w := w, sh := sh, wk := wk } := by
  have hp : ∀ (ws : List RegWrite) (x : Wave), ∃ w sh, ws.foldl Wave.putWave x = { x with w := w, sh := sh } := by
    intro ws
    induction ws with
    | nil => exact fun x => ⟨x.w, x.sh, rfl⟩
    | cons r ws ih =>
      intro x
      obtain ⟨w, sh, h⟩ := ih (x.putWave r)
      refine ⟨w, sh, h.trans ?_⟩
      unfold Wave.putWave
      split <;> rfl
  have hm : ∀ (fs : List (Nat × Flags)) (x : Wave), ∃ ls, x.merge fs = { x with lanes := ls } := by
    intro fs
    induction fs with
    | nil => exact fun x => ⟨x.lanes, rfl⟩
    | cons a fs ih =>
      intro x
      obtain ⟨ls, h⟩ := ih (x.updLane a.1 fun ln => ln.flag a.2)
      exact ⟨ls, h⟩
  obtain ⟨w, sh, h1⟩ := hp f.writes { v with lanes := mapIx (fun l ln => (f.writes.filter fun r => r.lane == l).foldl Lane.put ln) 0 v.lanes }
  obtain ⟨ls, h2⟩ := hm f.flags (v.land f.writes)
  have h3 : v.land f.writes = { v with lanes := mapIx (fun l ln => (f.writes.filter fun r => r.lane == l).foldl Lane.put ln) 0 v.lanes, w := w, sh := sh } := h1
  rw [h3] at h2
  unfold Wave.landFlight
  rw [h3, h2]
  cases f.tok
  · exact ⟨ls, w, sh, v.wk, rfl⟩
  · exact ⟨ls, w, sh, _, rfl⟩
/-- What landing every result leaves of a wave. -/
theorem landAll_only (v : Wave) : ∃ ls w sh wk, v.landAll = { v with lanes := ls, w := w, sh := sh, wk := wk, flights := [] } := by
  have h : ∀ (fs : List Flight) (x : Wave), ∃ ls w sh wk, fs.foldl Wave.landFlight x = { x with lanes := ls, w := w, sh := sh, wk := wk } := by
    intro fs
    induction fs with
    | nil => exact fun x => ⟨x.lanes, x.w, x.sh, x.wk, rfl⟩
    | cons f fs ih =>
      intro x
      obtain ⟨ls, w, sh, wk, hx⟩ := landFlight_only x f
      obtain ⟨ls', w', sh', wk', hy⟩ := ih (x.landFlight f)
      exact ⟨ls', w', sh', wk', by rw [List.foldl_cons, hy, hx]⟩
  exact h v.flights { v with flights := [] }
@[simp] theorem landAll_trapped (v : Wave) : v.landAll.trapped = v.trapped := by obtain ⟨_, _, _, _, h⟩ := landAll_only v; rw [h]
@[simp] theorem landAll_ctxn (v : Wave) : v.landAll.ctxn = v.ctxn := by obtain ⟨_, _, _, _, h⟩ := landAll_only v; rw [h]
@[simp] theorem landAll_clause (v : Wave) : v.landAll.clause = v.clause := by obtain ⟨_, _, _, _, h⟩ := landAll_only v; rw [h]
@[simp] theorem landAll_flights (v : Wave) : v.landAll.flights = [] := by obtain ⟨_, _, _, _, h⟩ := landAll_only v; rw [h]
/-- With no result in flight nothing lands. -/
theorem landAll_idle {v : Wave} (h : v.flights = []) : v.landAll = v := by
  unfold Wave.landAll
  rw [h]
  cases v
  cases h
  rfl

/-- R427: a wave outside a trap, whose context has a handler, enters it with its results landed: the trap registers, then the boundary. -/
theorem takeTrap_enters {s : State} {w : Nat} {v : Wave} (hw : mget s.waves w = some v) (ht : v.trapped = false)
    (hb : (s.ctx v.ctxn).desc.trapbase ≠ 0) (S : LaneMask) (hdr nxt : DWord) (after : Bool) (c : Cond) :
    ∃ x : Wave, s.takeTrap w S hdr nxt after c = (s.updWave w fun _ => x).boundary w ∧ x.trapped = true ∧ x.clause = none ∧ x.lastSet = S ∧
      x.x = { xpc := pcBits hdr, cause := BitVec.ofNat 32 c.cause, addr := c.addr, lanes := c.lanes, info := c.info,
              resume := if after then 1 else 0, s := S } ∧ x.w = v.landAll.w ∧ x.flights = [] := by
  have hv : s.wave w = v := by rw [State.wave, hw]; rfl
  have hl : v.landAll.trapped = false ∧ v.landAll.ctxn = v.ctxn ∧ v.landAll.flights = [] := by rw [landAll_trapped, landAll_ctxn, landAll_flights]; exact ⟨ht, rfl, rfl⟩
  unfold State.takeTrap
  simp only [hv, hl, Bool.false_eq_true, if_false, if_neg hb]
  exact ⟨_, rfl, rfl, rfl, rfl, rfl, rfl, rfl⟩
/-- Entering a trap handler changes no byte of memory. -/
theorem takeTrap_sameMem {s : State} {w : Nat} {v : Wave} (hw : mget s.waves w = some v) (ht : v.trapped = false)
    (hb : (s.ctx v.ctxn).desc.trapbase ≠ 0) (S : LaneMask) (hdr nxt : DWord) (after : Bool) (c : Cond) :
    SameMem s (s.takeTrap w S hdr nxt after c) := by
  obtain ⟨x, hx, -⟩ := takeTrap_enters hw ht hb S hdr nxt after c
  exact hx ▸ sameMem_trans ⟨rfl, rfl⟩ (boundary_sameMem _ w)
/-- A clause without a condition retires: its lanes move, the wave settles, a pending step traps. -/
theorem retireClause_plain {s : State} {w : Nat} {v : Wave} {c : Clause} (hw : mget s.waves w = some v) (hc : v.clause = some c)
    (h : c.cond = none) : s.retireClause w =
      (s.updWave w fun x => c.retireWave (c.retireLanes x)).boundaryTrap w c.set c.hdr := by
  have hv : s.wave w = v := by rw [State.wave, hw]; rfl
  unfold State.retireClause
  simp only [hv, hc, h]
/-- A clause with a condition retires into its trap. -/
theorem retireClause_cond {s : State} {w : Nat} {v : Wave} {c : Clause} {k : Cond} (hw : mget s.waves w = some v) (hc : v.clause = some c)
    (h : c.cond = some k) : s.retireClause w =
      (s.updWave w fun x => c.retireWave (c.retireLanes x)).takeTrap w c.set c.hdr c.nxt true k := by
  have hv : s.wave w = v := by rw [State.wave, hw]; rfl
  unfold State.retireClause
  simp only [hv, hc, h]

end Sys2Proof.Laws
end

