-- ==== Sys2Proof/Tests/Slice0.lean ====
section
/-! SUPPORT. Tests: words of the spec decode to their instructions; ill-formed words are refused; and for every statement with
hypotheses, states and operands that meet them, clause by clause (`meets` says so of a small example machine). -/
namespace Sys2Proof.Tests
open Sys2Proof.Machine

/-! ## The example machine -/

/-- A register-format instruction with every field zero but its predicate, `p7`. -/
def r : F3 :=
  { pred := 7, mod := 0, d := 0, a := 0, b := 0, c := 0, fmt := 0, rnd := 0, sat := false, markA := false, markB := false
    markC := false, reuse := false, negA := false, negB := false, absA := false, absB := false }
/-- An immediate-format one. -/
def im : FI := { pred := 7, mod := 0, d := 0, a := 0, imm := 0 }
/-- A memory-format one; it counts on token 0. -/
def m : FM := { pred := 7, mod := 0, d := 0, a := 0, b := 0, scope := 0, order := 0, wk := 0, tv := true, off := 0 }
/-- A branch-format one. -/
def b : FB := { pred := 7, mod := 0, d := 0, a := 0, off := 0 }
/-- An engine-format one. -/
def en : FE := { pred := 7, mod := 0, d := 0, a := 0, b := 0, c := 0, imm := 0 }

/-- A translation of every address below 2^34 to the device address of the same number, readable, writable and executable, in the TLBs of
core 0 and its cluster; service agents use it too. -/
def tlb : List TlbEnt := [0, 256, svc].map fun o => { owner := o, ctx := 0, va := 0, size := 0x400000000, leaf := 0x1F9 }
/-- One wave of 32 lanes in a clause of its team, on core 0. -/
def full : State := let s := State.reset.withWord 0; { s with page := { s.page with tlb := tlb } }
/-- A change of its wave. -/
def onWave (f : Wave → Wave) (s : State) : State := s.updWave s.cur f
/-- A change of its clause. -/
def onClause (f : Clause → Clause) : State → State := onWave fun v => { v with clause := v.clause.map f }
/-- A change of its team. -/
def onTeam (f : Team → Team) (s : State) : State := { s with teams := mmap s.teams fun _ => f }
/-- A change of its context. -/
def onCtx (f : Ctx → Ctx) (s : State) : State := { s with ctxs := mmap s.ctxs fun _ => f }
/-- A change of each of its lanes. -/
def onLanes (f : Nat → Lane → Lane) : State → State := onWave fun v => { v with lanes := mapIx f 0 v.lanes }
/-- The same with lanes 0 and 31 active. -/
def lab : State := onClause (fun c => { c with set := 0x80000001 }) full
/-- The same with no lane active. -/
def idle : State := onClause (fun c => { c with set := 0 }) full
/-- The same with its registers `v4` to `v7` holding a word in every lane. -/
def holding (x : Word) (s : State) : State := onLanes (fun _ l => { l with v := (((l.v.set 4 x).set 5 0).set 6 x).set 7 0 }) s

/-- What an instruction sees. -/
def look (s : State) (i : Instr) : Env :=
  ((formOf i).bind fun x => begin_ s x.2).getD { raw := s, s := s, w := 0, wv := default, cl := default, L := 0 }
/-- Whether an instruction is at hand. -/
def handed (s : State) (i : Instr) : Bool :=
  match formOf i with
  | some (f, p) => match begin_ s p with
    | some e => (e.indexFault f).isNone && i.wellFormed e.wv.alloc
    | none => false
  | none => false
/-- Whether an instruction is at hand and what it sees meets a condition. -/
def meets (s : State) (i : Instr) (c : Env → Bool := fun _ => true) : Bool := handed s i && c (look s i)
/-- The same, where its token can count. -/
def meetsR (s : State) (i : Instr) (f : FM) (c : Env → Bool := fun _ => true) : Bool :=
  meets s i fun e => !e.full (tokenOf f) && c e
/-- The same, where moreover no operation of its lanes waits. -/
def meetsM (s : State) (i : Instr) (f : FM) (c : Env → Bool := fun _ => true) : Bool :=
  meetsR s i f fun e => e.behind == 0 && c e
/-- The same of an engine instruction: its token can count, and no access of its lanes waits. -/
def meetsS (s : State) (i : Instr) (c : Env → Bool := fun _ => true) : Bool :=
  meets s i fun e => !e.full (some 0) && e.behind == 0 && c e
/-- The active lanes all meet a condition. -/
def every (e : Env) (c : Nat → Bool) : Bool := (lanesOf e.L).all c

/-- The state an instruction leaves. -/
def ran (i : Instr) (s : State) : State := match exec i s with
  | .next u => u
  | _ => s

/-- What `meets` answers is a witness. -/
theorem test_meets {s : State} {i : Instr} {c : Env → Bool} (h : meets s i c = true) :
    s.AtHand i (look s i) ∧ c (look s i) = true := by
  simp only [meets, Bool.and_eq_true] at h
  refine ⟨?_, h.2⟩
  have h := h.1
  unfold handed at h
  split at h
  · rename_i f p hf
    split at h
    · rename_i e he
      simp only [Bool.and_eq_true, Option.isNone_iff_eq_none] at h
      have hl : look s i = e := by simp [look, hf, he]
      rw [hl]
      exact ⟨⟨f, p, hf, he, h.1⟩, h.2⟩
    · cases h
  · cases h

/-- Of a memory instruction. -/
theorem test_meetsR {s : State} {i : Instr} {f : FM} {c : Env → Bool} (h : meetsR s i f c = true) :
    s.Room i f (look s i) ∧ c (look s i) = true := by
  have h1 := test_meets h
  simp only [Bool.and_eq_true, Bool.not_eq_true'] at h1
  exact ⟨⟨h1.1, h1.2.1⟩, h1.2.2⟩
/-- Of one behind which no operation waits. -/
theorem test_meetsM {s : State} {i : Instr} {f : FM} {c : Env → Bool} (h : meetsM s i f c = true) :
    s.Ready i f (look s i) ∧ c (look s i) = true := by
  have h1 := test_meetsR h
  simp only [Bool.and_eq_true, beq_iff_eq] at h1
  exact ⟨⟨h1.1, h1.2.1⟩, h1.2.2⟩

/-- Of an engine instruction with token 0. -/
theorem test_meetsS {s : State} {i : Instr} {c : Env → Bool} (h : meetsS s i c = true) :
    s.AtHand i (look s i) ∧ (look s i).full (some 0) = false ∧ (look s i).settled ∧ c (look s i) = true := by
  have h1 := test_meets h
  simp only [Bool.and_eq_true, Bool.not_eq_true', beq_iff_eq] at h1
  exact ⟨h1.1, h1.2.1.1, h1.2.1.2, h1.2.2⟩

/-! ## Integer and logic instructions -/

theorem test_MovesLogicAndBitFields : [Instr.mov r, .mov { r with mod := 1 }, .movi { im with imm := 0xFFFFFFFF }, .movw { r with d := 190 },
    .sel r, .sel { r with mod := 15 }, .lop3 { r with fmt := 15, rnd := 7, sat := true }, .andi im, .ori im, .xori im, .bfe r,
    .bfe { r with mod := 1 }, .bfi r, .popc r, .clz r, .ctz r, .brev r, .prmt r].all (meets lab) = true := by decide
theorem test_IntegerArithmeticIsExactThenFitted : [Instr.iadd { r with d := 191, mod := 1, sat := true }, .iadd { r with d := 0xE8 },
    .isub r, .imul r, .imulh r, .imad r, .iaddi im, .imin r, .imax { r with mod := 1 }, .iabs { r with sat := true }, .ineg r,
    .isad { r with sat := true }].all (meets lab) = true := by decide
theorem test_CarriesWideSumsAndDotProducts : [Instr.iaddc { r with c := 0x77 }, .isubb { r with c := 0x06 }, .imadw r,
    .iaddw { r with mod := 3, sat := true }, .iaddw r, .lea { r with mod := 15 }, .lea r, .idp4 { r with mod := 3, sat := true },
    .idp2 r].all (meets lab) = true := by decide
theorem test_ShiftsUseTheWholeAmount : [Instr.shl r, .shr r, .sar r, .fsh r, .fsh { r with mod := 1 }, .rot r, .rot { r with mod := 1 },
    .shw r, .shw { r with mod := 1 }, .shw { r with mod := 2 }].all (meets lab) = true := by decide
theorem test_ComparesVotesAndLaneExchange : ([Instr.iset { r with c := 7, mod := 7 }, .iset { r with fmt := 5, rnd := 4, mod := 8, c := 0x2F },
    .iseti im, .plop { r with fmt := 8, a := 7, b := 15, c := 7 }, .shfl r, .shfl { r with mod := 1 }, .shfl { r with mod := 2 },
    .shfl { r with mod := 3, rnd := 4, c := 0xFD }, .bcast r, .bcast { r with mod := 1 }] ++
    [0, 1, 2, 4, 5].map (fun k => Instr.vote { r with mod := k, a := 15, b := 8 }) ++ [Instr.vote { r with mod := 3 }]).all (meets lab) &&
    meets idle (.vote r) = true := by decide
theorem test_IntegerConversions : ([0, 1, 2, 3, 4, 5].map (fun k => Instr.cvti { r with mod := k }) ++
    [6, 7, 8, 9, 10, 11, 12, 13, 14].map fun k => Instr.cvti { r with mod := k, sat := true }).all (meets lab) = true := by decide

/-! ## Floating point, matrices -/

theorem test_FloatArithmeticRoundsTheExactResultOnce : [Instr.fadd { r with rnd := 6, negA := true, absB := true, sat := true }, .fmul r,
    .ffma r, .faddi { im with mod := 14 }, .fmuli im, .dadd r, .dmul r, .dfma r, .hmul2 { r with fmt := 2 }, .hfma2 { r with fmt := 1 },
    .hadd2 { r with fmt := 1 }].all (meets lab) = true := by decide
theorem test_FloatMinimaComparesAndClasses : [Instr.fmin r, .fmax { r with mod := 1 }, .fclmp r, .dmin r, .dmax r, .hmin2 { r with fmt := 1 }, .hmax2 { r with fmt := 2 }, .frnd r, .drnd r,
    .fscale r, .fexpt r, .fmant r, .fset { r with fmt := 13, mod := 7 }, .dset r, .hset2 { r with mod := 15 }, .hset2 r, .fclass r].all
    (meets lab) = true := by decide
theorem test_FloatConversions : [Instr.f2i r, .f2i { r with mod := 7, fmt := 3, rnd := 6 }, .i2f r, .i2f { r with mod := 7, fmt := 3 }, .f2f r,
    .f2f { r with fmt := 3, mod := 5, c := 3 }, .f2fp { r with fmt := 1 }, .f2fp { r with fmt := 11, mod := 3 },
    .f2fp { r with fmt := 4, mod := 1 }].all (meets lab) = true := by decide
theorem test_ValuesRound : ([fp32, fp16, bf16, fp64, e4m3, e5m2].length == 6 && decide (1 ≤ 1 ∧ 6 ≤ 6 ∧ 2 ^ 32 - 1 < 2 ^ 32)) = true := by decide
theorem test_SpecialOperands : let v := fun (x m : Nat) (ex : Int) (neg : Bool) => fp32.val x = .fin neg m ex ∧ m ≠ 0
    let a := fun (m : Nat) (ex : Int) => (m : Rat) * (2 : Rat) ^ ex
    (fp32.val 0x7F800001 = .nan true ∧ fp64.val 0x7FF8000000000000 = .nan false ∧ v 0x3F800000 0x800000 (-23) false ∧ v 0xBF800000 0x800000 (-23) true ∧
      fp64.val 0x3FF0000000000000 = .fin false 0x10000000000000 (-52)) ∧
    (a 0x800000 (-23) = (1 : Nat) ∧ a 0x800000 (-23) = (4 : Rat) ^ (0 : Int) ∧ a 0x800000 (-23) = (2 : Rat) ^ (0 : Int) ∧ a 0x10000000000000 (-52) = (4 : Rat) ^ (0 : Int)) ∧
    (fp32.at_ 0x3F800000 * fp32.at_ 0x3F800000 ≤ 1 ∧ 1 < fp32.at_ 0x3F800001 * fp32.at_ 0x3F800001) ∧
    (fp32.at_ 0x3F7FFFFF * fp32.at_ 0x3F7FFFFF * a 0x800001 (-23) ≤ 1 ∧ 1 < fp32.at_ 0x3F800000 * fp32.at_ 0x3F800000 * a 0x800001 (-23) ∧ v 0x3F800001 0x800001 (-23) false) ∧
    (v 0xC3150000 0x950000 (-16) true ∧ a 0x950000 (-16) = (149 : Nat)) ∧ (v 0x43000000 0x800000 (-16) false ∧ 128 ≤ a 0x800000 (-16)) ∧
    (v 0x3F000000 0x800000 (-24) false ∧ 2 * a 0x800000 (-24) = (1 : Nat)) ∧ (v 0x3E800000 0x800000 (-25) false ∧ 4 * a 0x800000 (-25) = (1 : Nat)) ∧
    (v 0x397FFFFF 0xFFFFFF (-36) false ∧ a 0xFFFFFF (-36) < (2 : Rat) ^ (-12 : Int)) ∧ (v 0x41200000 0xA00000 (-20) false ∧ 10 ≤ a 0xA00000 (-20)) ∧
    (v 0x41900000 0x900000 (-19) false ∧ 18 ≤ a 0x900000 (-19)) := by decide +kernel
theorem test_SpecialFunctionsLandUnderTheirToken : [Instr.rcp r, .rsq r, .sqrt { r with mod := 15 }, .exp2 r, .log2 r, .sincy r, .coscy r, .tanh r,
    .sigm r, .drcp r, .drsq r].all (fun i => meets lab i fun e => !e.full (some 15) && !e.full (some 0)) = true := by decide
theorem test_MatrixProductsLandUnderTheirToken : let f := { r with d := 32, a := 4, b := 8, c := 0xE8 }
    let is := [Instr.mmaF16 f, .mmaBf16 { f with c := 32, reuse := true }, .mmaE4 f, .mmaE5 f, .mmaZb8 { f with fmt := 10 }, .mmaZb5 f, .mmaZb3 f, .mmaI8 { f with fmt := 3 }]
    is.all (fun i => meets full i fun e => !e.full (some 0) && e.L == BitVec.allOnes 32) && is.all (meets lab) = true := by decide
theorem test_BlockFormatsPackAndUnpack : [Instr.zbpack { r with d := 32, fmt := 6 }, .zbpack { r with d := 32, fmt := 8, mod := 2 },
    .zbunp { r with a := 32, fmt := 7 }, .zbexp { r with mod := 4 }, .zbexp { r with fmt := 6 }].all (meets lab) = true := by decide

/-! ## Control flow and waves -/

/-- The example machine at a call depth. -/
def deep (n : BitVec 6) : State := onLanes (fun _ l => { l with depth := n }) lab
theorem test_TransfersMoveTheActiveLanes : ([Instr.nop r, .bra b, .brx r].all (meets lab) &&
    [Instr.call b, .callx r].all (fun i => meets (deep 62) i fun e => every e fun l => (e.wv.lane l).depth.toNat != 63) &&
    meets (deep 63) (.ret r) && [Instr.call b, .callx r].all (meets (deep 63)) && meets lab (.ret r)) = true := by decide
theorem test_MeetingPointsAndJoinMasks : (meets lab (.meet { b with mod := 7 }) && meets idle (.meet b) && meets lab (.mvmeet r) &&
    meets lab (.mvmeet { r with mod := 1 }) && meets idle (.jmop { r with mod := 4 }) && meets lab (.jmop { r with b := 7 }) &&
    [1, 2, 3, 4].all fun k => meets lab (.jmop { r with mod := k })) = true := by decide
/-- The example machine as a berth. -/
def berth : State := onWave (fun v => { v with berth := some default }) lab
theorem test_WaveScheduling : (meets lab (.exit r) (fun e => e.wv.berth == none) && meets berth (.exit r) (fun e => e.wv.berth != none) &&
    [lab, idle].all fun s => meets s (.yield r) && meets s (.sleep im) && meets s (.sleep { im with imm := 1 }) && meets s (.waitkids r) &&
      meets s (.region { im with imm := 0x80000001 })) = true := by decide
/-- The team's core is full of waves of 192 registers (R151). -/
def crowded : State := { lab with waves := (List.range 20).foldl (fun ws k => mset ws (100 + k) { lab.wave lab.cur with quad := k % 4 }) lab.waves }
/-- The example machine with its grid changed. -/
def onGrid (f : Grid → Grid) (s : State) : State := { s with grids := mmap s.grids fun _ => f }
/-- 65,536 children of the context. -/
def crowd : Map Grid := List.replicate 65536 (1000, { (default : Grid) with ctx := 0, st := .decoded, parent := some 1 })
theorem test_SpawnAndLaunch : (meetsS idle (.spawn r) (fun e => e.L == 0) && meetsS berth (.spawn r) (fun e => e.wv.berth != none) &&
    meetsS crowded (.spawn { r with mod := 14 }) (fun e => decide (e.s.spawnRoom e.w = none) && e.wv.berth == none) && meetsS crowded (.spawn r) (fun e => e.L != 0 && decide (e.s.spawnRoom e.w = none) && e.wv.berth == none) &&
    meetsS lab (.spawn { r with mod := 8 }) (fun e => decide (e.s.spawnRoom e.w = some (1, 1)) && (mget e.s.waves e.s.key).isNone && e.wv.berth == none) &&
    meetsS idle (.launch r) && meetsS berth (.launch r) && meetsS (onClause (fun c => { c with set := 2 }) full) (.launch r)
      (fun e => every e fun l => decide (e.s.leader e.wv.team ≠ some (e.w, l))) &&
    [15, 16].all fun d => meetsS (onGrid (fun g => { g with depth := d }) lab) (.launch r) fun e =>
      decide (e.s.leader e.wv.team = some (e.w, 0)) && inMask e.L 0 && decide (e.s.childrenOf e.wv.ctxn < 65536) && e.wv.berth == none) = true := by decide
theorem test_LaunchLimit : ({ lab with grids := crowd } : State).childrenOf 0 = 65536 := by
  rw [State.childrenOf, show ({ lab with grids := crowd } : State).grids = crowd from rfl, crowd, List.filter_replicate_of_pos (by decide), List.length_replicate]

/-! ## Memory -/

/-- A private array of 64 bytes a lane for one team of one wave (R160). -/
def priv : State := onGrid (fun g => { g with privBase := 0x100000, privTeams := 1, privSize := 64, entry := { g.entry with waves := 1 } })
  (onTeam (fun t => { t with priv := some 0 }) lab)
/-- The line at offset 0 of the team's store in a state. -/
def tagged (t : Tag) (o : Nat := 0) (s : State := lab) : State := onTeam (fun x => { x with loc := x.loc.setTag 0 { tag := t, owner := o, ovf := true } }) s
theorem test_GlobalLoadsAndStores : ([Instr.ld { m with mod := 4 }, .ldc { m with mod := 0 }, .st { m with mod := 7 }].zip [0, 0, 1]).all (fun x =>
    meetsM lab x.1 { m with mod := 4 } fun e => every e (fun l => decide (e.place x.2 4 (e.ea m 4 l) = .inl 0) && decide (e.wv.watched 0 true true = none))
      && e.todo == e.L) = true := by decide
theorem test_LoadedValuesAreExtended : [0, 1, 2, 3, 4, 5, 6, 7].map sizeOf8 = [1, 1, 2, 2, 4, 8, 16, 32] := by decide
theorem test_PrivateAndLocalAccesses : ((meetsM priv (.ldp { m with mod := 6, off := 1 }) m fun e => every e fun l => decide (e.privPlace { m with mod := 6, off := 1 } 0 16 l = .inl 16)) &&
    (meetsM priv (.stp { m with mod := 4, off := 15 }) m fun e => every e fun l => decide (e.privPlace { m with off := 15 } 1 4 l = .inl 60)) &&
    (meetsM lab (.ldl { m with mod := 4 }) m fun e => every e fun l => decide (e.loadPlace { m with mod := 4 } false 4 l = .inl { team := 2, off := 0 }) &&
      !e.s.inFifo { team := 2, off := 0 } && !e.s.loadWaits false { team := 2, off := 0 }) &&
    (meetsM (tagged .full) (.ldlw { m with mod := 4 }) m fun e => every e fun l => decide (e.loadPlace { m with mod := 4 } true 4 l = .inl { team := 2, off := 0 }) &&
      !e.s.inFifo { team := 2, off := 0 } && !e.s.loadWaits true { team := 2, off := 0 }) &&
    meetsM lab (.stl { m with mod := 4 }) m fun e => every e fun l => decide (e.storePlace { m with mod := 4 } 4 l = .inl { team := 2, off := 0 })) = true := by decide
theorem test_AtomicsAndFences : ([(Instr.atom { m with d := 8 }, 4), (.acas { m with d := 8, mod := 1 }, 8)].all (fun x => meetsM lab x.1 m fun e => every e fun l =>
      decide (e.place 2 x.2 (e.ea m x.2 l) = .inl 0 ∧ e.wv.watched 0 true true = none)) &&
    [(Instr.atoml { m with d := 8 }, 4), (.acasl { m with d := 8, mod := 1 }, 8)].all (fun x => meetsM lab x.1 m fun e => every e fun l => decide (e.atomPlace m x.2 l = .inl { team := 2, off := 0 })) &&
    [Instr.fence { m with scope := 5, order := 3 }, .pref m, .cctl { m with mod := 3, tv := false }].all (fun i => meetsM lab i m) &&
    meetsM lab (.fence { m with scope := 5, order := 3, tv := false }) { m with tv := false } && meetsM idle (.fence { m with scope := 5, order := 3 }) m fun (e : Env) => e.L == 0) &&
    (let fe : Flight := { tok := some 0, hold := 0, writes := [], flags := [], fence := true }
     [0, 1].all (fun n => (([fe, fe] : List Flight)[n]?).any (·.fence))) &&
    (
    meetsM lab (.cctl m) m fun e => every e fun l => decide (e.ea m 1 l = .inl 0 ∧ e.s.maintFault e.wv.ctxn 0 e.wv.core = none)) = true := by decide
theorem test_SegmentsAreStoredAndExpanded : (meetsM idle (.stz m) m && meetsM idle (.ldz m) m && meetsM (holding 256 lab) (.stz { m with b := 4, mod := 1 }) m fun e =>
    e.L != 0 && e.performed &&& e.L == 0 && decide (e.ea m 16 e.l0 = .inl 0 ∧ (segment 4 (e.segEls { m with b := 4, mod := 1 })).length = 16 ∧ 16 ≤ e.src constInt 4 e.l0 ∧ e.place 1 16 (.inl 0) = .inl 0)) = true := by decide +kernel
theorem test_SegmentsAreLoaded : (meetsM { (holding 256 lab) with mem := [(2, 0x20), (4, 0x10)] } (.ldz { m with b := 4, mod := 1 }) m fun e =>
    let hd := e.s.gread e.wv.ctxn e.w e.l0 0 16 e.s.ctr
    let num := fun (o n : Nat) => leNat ((hd.drop o).take n)
    e.L != 0 && decide (e.place 0 16 (e.ea { m with b := 4, mod := 1 } 16 e.l0) = .inl 0 ∧ num 4 4 ≤ e.src constInt 4 e.l0 ∧ num 0 2 ≤ 64 ∧ num 2 2 = (segElem { m with b := 4, mod := 1 }).2 ∧ num 8 8 < 2 ^ 32 ∧
      popN 64 (num 8 8) = num 0 2 ∧ num 4 4 = segBytes (num 0 2) (segElem { m with mod := 1 }).1 ∧ num 4 4 ≤ 2 ^ 57 ∧ e.s.rangeFault e.wv.ctxn 16 (num 4 4 - 16) 0 e.wv.core = none)) = true := by decide +kernel
theorem test_SegmentsExpand : (segment 2 (List.replicate 64 1)).length = 144 ∧ (segment 4 (List.replicate 32 0)).length = 16 := by decide +kernel
theorem test_AccessesFaultOrChangeOnlyTheirBytes : ([(Instr.ld { m with mod := 4, off := 0x3FFF }, 0, 4), (.ldc { m with mod := 5, off := 0x3FFF }, 0, 8), (.atom { m with d := 8, off := 0x3FFF }, 2, 4),
      (.acas { m with d := 8, mod := 1, off := 0x3FFF }, 2, 8)].all (fun x => meetsM lab x.1 m fun e => inMask e.L 0 && decide ((e.src64 0 0 : Int) + (-1) * x.2.2 < 0)) &&
    meetsM (holding 2 lab) (.ld { m with a := 4, mod := 4 }) m fun e => inMask e.L 0 && e.src64 4 0 % 4 == 2) &&
    (match lab.translate 0 0x1FFF 1 with | .ok _ pa _ => pa == 0x1FFF | _ => false) = true := by decide

theorem test_LocalAndPrivateAccessesFault : let f := { m with a := 4, mod := 4 }
    let back := { m with mod := 4, off := 0x3FFF }
    let all_ := fun (g : FM) => [Instr.ldl g, .ldlw g, .stl g, .atoml { g with d := 8, mod := 0 }, .acasl { g with d := 8, mod := 0 }]
    let at_ := fun (x : Nat) (c : Env → Bool) => (all_ f).all fun i => meetsR (holding (BitVec.ofNat 32 x) lab) i f fun e => inMask e.todo 0 && e.src constInt 4 0 == x && c e
    ((all_ back).all (fun i => meetsR lab i back fun e => inMask e.L 0 && decide ((e.src constInt 0 0 : Int) + back.offset * 4 < 0)) &&
    [2 ^ 23, 2 ^ 22 - 4, 2 ^ 18].all (fun x => at_ x fun _ => decide (2 ^ 23 ≤ x ∨ x % 2 ^ 23 < 2 ^ 22 ∧ 2 ^ 18 ≤ x)) &&
    at_ 2 (fun e => match e.localAt 2 false with | .inl p => p.off % 4 == 2 | _ => false) &&
    at_ (2 ^ 18 - 4) (fun e => decide (e.team.loc.size ≤ 2 ^ 18 - 4)) &&
    [(lab, f), (berth, f), (priv, { f with a := 0, off := 16 }), (holding 2 priv, f), (priv, { f with a := 0, off := 0x3FFF })].all fun x =>
      [Instr.ldp x.2, .stp x.2].all fun i => meetsR x.1 i x.2 fun e => inMask e.todo 0 && match e.privPlace x.2 0 4 0 with | .inr (.cause c _) => c == 0x43 | _ => false) = true := by decide +kernel

/-! ## Tags, counters, futures, barriers -/

theorem test_TagsAndArrivalCounters : let p : LPlace := { team := 2, off := 0 }
    ((meetsM lab (.tag { m with mod := 6 }) m fun e => every e fun l => decide (e.tagSet { m with mod := 6 } l = .inl p)) &&
    (meetsM lab (.tagq m) m fun e => every e fun l => decide (e.tagPlace m l = .inl p)) &&
    (meetsM lab (.acinit m) m fun e => every e fun l => decide (e.atomPlace m 16 l = .inl p)) &&
    (meetsM lab (.acadd m) m fun e => every e fun l => decide (e.atomPlace m 16 l = .inl p)) && (mget lab.teams p.team).any (fun t => t.loc.sums.isEmpty && Memory.wf t.loc.data) &&
    meetsM lab (.acwait m) m fun e => every e fun l => decide (e.waitPlace m l = .inl p ∧ (e.s.loc p.team).ctrDone 0 = true)) = true := by decide
theorem test_FuturesAreFilledTakenAndHandedOver : ([Instr.fput { m with b := 4 }, .fget m, .ftry m].all (fun i => meetsM lab i m fun e => every e fun l =>
      decide (e.futurePlace m l = .inl { team := 2, off := 0 })) && lab.futureState { team := 2, off := 0 } == 0) = true := by decide
theorem test_WaitingOperationsPark : let p : LPlace := { team := 2, off := 0 }
    ((meetsM (tagged .filling) (.ldl { m with mod := 4 }) m fun e => every e fun l => decide (e.loadPlace { m with mod := 4 } false 4 l = .inl p ∧ e.s.inFifo p = false ∧ e.s.loadWaits false p = true)) &&
    (meetsM lab (.ldlw { m with mod := 4 }) m fun e => every e fun l => decide (e.loadPlace { m with mod := 4 } true 4 l = .inl p ∧ e.s.loadWaits true p = true)) &&
    (meetsM (onTeam (fun t => { t with loc := t.loc.write 0 [1] }) lab) (.acwait m) m fun e => every e fun l => decide (e.waitPlace m l = .inl p ∧ (e.s.loc p.team).ctrDone 0 = false)) &&
    meetsM lab (.fget m) m fun e => every e fun l => decide (e.futurePlace m l = .inl p ∧ e.s.futureFull p = false)) = true := by decide
/-- Operations that wait in the wave: what they are, their lanes and their numbers. -/
def waits (ks : List (Nat × Instr × List Nat)) (s : State) : State :=
  onWave (fun v => { v with parks := ks.map fun k => { seq := k.1, instr := k.2.1, tok := none, hold := 0, lanes := k.2.2.map fun l => (l, [2, 0, 0]), dst := [] } }) s
/-- The same with the future at offset 0 full. -/
def filled : State := { lab with teams := (ran (.fput m) lab).teams }
theorem test_FuturesAreHandedOver : let p : LPlace := { team := 2, off := 0 }
    let at_ := fun (i : Nat) (s : State) (queued core : Bool) => (mget s.waves 3).any fun v => (v.parks[i]?).any fun k => k.instr == .fget m && k.lanes == [(0, parkLane p 0)] &&
      !inMask (v.waiting Park.orders i) 0 && k.flags.isEmpty && (s.ctx v.ctxn).runs && decide (s.ownFault p 16 0 = none) && Memory.wf (s.loc 2).data && (s.teamOf v).onCore == core && s.futureQueued k.seq p == queued && s.futureState p == 0 && (mget s.teams 2).isSome
    (at_ 0 (waits [(1, .fget m, [0])] lab) false true && at_ 1 (waits [(1, .fget m, [31]), (2, .fget m, [0])] lab) true true &&
    at_ 0 (onTeam (fun t => { t with st := .parked }) (waits [(1, .fget m, [0])] lab)) false false &&
    (meetsM { filled with waves := (onClause (fun c => { c with set := 1 }) lab).waves } (.fget m) m fun e => e.L == 1 && decide (e.futurePlace m 0 = .inl p) && (fgetRun e.s.key 0 [(0, p)] e.s).2.1.isEmpty) &&
    meetsM filled (.fput { m with mod := 1 }) m fun e => every e (fun l => decide (e.futurePlace { m with mod := 1 } l = .inl p)) && !(fputRun e m [(0, p), (31, p)] e.s).1.isEmpty) = true := by decide +kernel
theorem test_AccessesWaitBehindOthers : let p : LPlace := { team := 2, off := 0 }
    let s := waits [(1, .stl m, [0, 31])] lab
    let go := fun (i : Instr) (c : Env → Bool) => meetsR s i m fun e => e.behind != 0 && e.L != 0 && c e
    ([(Instr.ld { m with mod := 4 }, 0), (.st { m with mod := 4 }, 1), (.atom { m with d := 8 }, 2), (.acas { m with d := 8 }, 2)].all (fun x => go x.1 fun e =>
      every e (fun l => decide (e.place x.2 4 (e.ea m 4 l) = .inl 0 ∧ e.wv.watched 0 (x.2 != 1) (x.2 != 0) = none)) && e.behind &&& e.todo != 0) &&
    [Instr.atoml { m with d := 8 }, .acasl { m with d := 8 }].all (fun i => go i fun e => every e fun l => decide (e.atomPlace m 4 l = .inl p)) &&
    go (.signal m) (fun e => e.behind &&& e.todo != 0 && every e fun l => decide (e.place 1 8 (e.ea m 8 l) = .inl 0)) &&
    go (.tag { m with mod := 6 }) (fun e => e.behind &&& e.todo != 0 && every e fun l => decide (e.tagSet { m with mod := 6 } l = .inl p)) &&
    go (.tagq m) (fun e => every e fun l => decide (e.tagPlace m l = .inl p)) &&
    [Instr.acinit m, .acadd m].all (fun i => go i fun e => e.behind &&& e.todo != 0 && every e fun l => decide (e.atomPlace m 16 l = .inl p)) &&
    [Instr.ldp { m with mod := 4 }, .stp { m with mod := 4 }].all (fun i => meetsR (waits [(1, .stl m, [0, 31])] priv) i m fun e => e.behind &&& e.todo != 0 &&
      every e fun l => decide (e.privPlace { m with mod := 4 } 1 4 l = .inl 0)) &&
    go (.stl { m with mod := 4 }) (fun e => e.todo != 0 && every e fun l => decide (e.storePlace { m with mod := 4 } 4 l = .inl p ∧ e.s.inFifo p = false) && inMask e.behind l) &&
    go (.fence { m with scope := 5, order := 3 }) fun _ => true) = true := by decide +kernel
theorem test_OperationsAreHeld : let sees := fun (s : State) (c : Env → Bool) => (begin_ s 7).any c
    (sees (onWave (fun v => { v with wk := List.replicate 16 63 }) lab) (fun e => (List.range 16).all fun t => e.full (some t)) &&
    [Instr.fence m, .stl m, .shld en, .mxwait en].all fun i => sees (waits [(1, i, [0])] lab) fun e => e.behind != 0) = true := by decide +kernel
theorem test_BarriersAndElection : let gang := onTeam (fun t => { t with gang := some 9 }) lab
    ([Instr.bar { im with imm := 15 }, .barg { im with imm := 3 }].all (fun i => meets gang i && meets berth i) && meets lab (.barg im) && meets lab (.elect r) &&
    meets lab (.elect { r with mod := 15 }) fun e => (e.s.liveWaves e.wv.team).all fun k => decide (e.wv.rank ≤ (e.s.wave k).rank)) = true := by decide
/-! ## Copies, images, planes -/

/-- The same with lane 0 active. -/
def solo : State := onClause (fun c => { c with set := 1 }) full
/-- A shape in shape register 0: rank 1, eight elements of FP32 at 0x2000, boxes of four. -/
def line8 : Nat := 0x30000000000000000000000000000000000000000000000000000000000000000000008000000000000001000000000000000000000000000002000
/-- With a shape register set. -/
def shaped (x : Nat) (k : Nat := 0) : State → State := onWave fun v => { v with sh := v.sh.set k (BitVec.ofNat 512 x) }
theorem test_CopiesStartAsJobs : let big := shaped line8 0 (holding 1 solo)
    ([Instr.lcopy en, .lcopyo en, .tcopyo en, .tcopy en, .tred { en with imm := 0x10 }].all (fun i => meetsS idle i) &&
    [Instr.tcopy { en with b := 8 }, .tred { en with b := 8, imm := 0x10 }].all (fun i => meetsS solo i fun e => (e.tileDest 8 0).ok && (e.tileDest 8 0).named.isEmpty) &&
    (meetsS lab (.lcopy { en with imm := 8, c := 0xC0 }) fun e => decide (e.counterAt 0 = .inl 0)) && (meetsS solo (.lcopy en) fun e => decide (e.lcPlace false en 0 = .inl (0, 0))) &&
    (meetsS solo (.lcopyo en) fun e => decide (e.lcPlace true en 0 = .inl (0, 0))) &&
    (meetsS big (.tcopy { en with b := 4, imm := 0x10 }) fun e => let d := e.tileDest 4 0
      d.ok && d.named == [0] && decide (e.destFault d true (extent (shapeOf (e.shapeReg 0)).fmt d.off (prod (shapeOf (e.shapeReg 0)).boxes)) = none) && (match e.tilePieces (shapeOf (e.shapeReg 0)) 0 (e.tileOrg 0 0) 0 with | .inl _ => true | _ => false)) &&
    (meetsS big (.tcopyo en) fun e => decide (e.tileSource 0 16 = none) && (match e.tilePieces (shapeOf (e.shapeReg 0)) 0 (e.tileOrg 0 0) 1 with | .inl _ => true | _ => false)) &&
    meetsS big (.tred { en with b := 4, imm := 0x10 }) fun e => let d := e.tileDest 4 0
      d.ok && d.named == [0] && decide (e.destFault d true 16 = none ∧ prod (shapeOf (e.shapeReg 0)).box * 4 = 16 ∧ d.off + 16 ≤ e.team.loc.size) && decide (e.tileSource 0 16 = none)) = true := by decide +kernel
theorem test_CopiesLandAndComplete : let big := onTeam (fun t => { t with sub := 1 }) (shaped line8 0 (holding 1 solo))
    let starts := fun (i : Instr) (c : State → CopyJob → Bool) => let u := ran i big
      match mget u.copies 4 with
      | some j => c u j && (mget u.waves j.wave).isSome
      | none => false
    let t := { en with b := 4, imm := 0x10 }
    (starts (.lcopy en) (fun u j => decide (j.kind = .lcopy) && !u.lighterTested j && j.ctr.isNone) && starts (.lcopy { en with imm := 8, c := 0xC0 }) (fun u j => j.ctr == some 0 && u.rangeReady j.team 0 16) &&
      starts (.lcopyo en) (fun u j => decide (j.kind = .lcopyo) && !u.lighterTested j && (j.gone u).isNone) &&
      starts (.tcopyo en) (fun u j => decide (j.kind = .tcopyo) && !j.moved && !u.lighterTested j && (j.gone u).isNone && u.canAck 4 { j with moved := true }) &&
      starts (.tcopy t) (fun u j => decide (j.kind = .tcopy) && u.canArrive 4 j 2 && (mget j.opened 2).isNone && u.canArrive 4 { j with opened := [(2, [0])] } 2 && (mget u.teams 2).isSome && u.canAck 4 { j with arrived := [2] }) &&
      starts (.tred t) (fun u j => decide (j.kind = .tred 0) && u.canArrive 4 j 2 && u.canAck 4 { j with arrived := [2] })) = true := by decide +kernel
theorem test_ImageReadsLandFourChannels : let s := { solo with mem := [(16, 128)] }
    ([Instr.tex { en with d := 8 }, .texf { en with d := 8 }].all (fun i => meetsS s i) && (meets s (.tex { en with d := 8 }) fun e => match e.texLane { en with d := 8 } e.s.ctr 0 with | .inl _ => true | _ => false) &&
      meets s (.texf { en with d := 8 }) fun e => match e.texfLane { en with d := 8 } e.s.ctr 0 with | .inl _ => true | _ => false) = true := by decide
theorem test_ImagesAndTheirTaps : let s := { solo with mem := [(16, 128)] }
    let sees := fun (s : State) (c : Env → Bool) => (begin_ s 7).any c
    let f := { en with d := 8 }
    let im := fun (e : Env) => match e.imageOf f 0 0 with | .inl x => some x | _ => none
    let fin := fun (e : Env) (f : FE) => match fp32.val (e.coord f 0 0) with | .fin .. => true | _ => false
    (sees s (fun e => (im e).any fun x => decide (e.src constInt 0 0 ≤ x.levels ∧ 0 < (x.level 0).w ∧ 0 < (x.level 0).h ∧ 0 < (x.level 0).d ∧ dimRegs x.kind = 1 ∧ x.kind ≤ 3) &&
      (match e.texRead 0 (x.level 0).base (texelBytes x.tfmt) 1 0 with | .inl _ => true | _ => false) &&
      (match e.texRead 0 (e.src64 0 0) 32 32 0 with
        | .inl b => (sampler b).any fun sm => match e.texels x sm.border 0 0 (levelTaps x sm [fp32.val (e.coord f 0 0)] 0 256) with | .inl _ => true | _ => false
        | _ => false) && fin e f) &&
    sees (holding 5 s) (fun e => (im e).any fun x => decide (x.levels < e.src constInt 4 0)) &&
    sees (holding 0x7FC00000 s) fun e => (im e).isSome && !fin e { f with a := 4 }) = true := by decide +kernel
/-- A slot 0 of one cell, of a rule. -/
def slotted (rule fmt : Nat) : State := onTeam (fun t => { t with slots := [(0, { (default : Region) with decl := { cells := 1, fxscale := 0, fmt := fmt, carry := true, rule := rule }, baseB := 128 })] }) lab
theorem test_PlaneStoresLoadsAndBinds : let c : PCell := { ref := .slot 2 0, i := 0 }
    let bound := onGrid (fun g => { g with entry := { g.entry with plnn := 1, pln0 := 0 } }) (onCtx (fun x => { x with objs := [{ (default : CodeObj) with addr := 0, planes := [{ cells := 1, fxscale := 0, fmt := 0, carry := true, rule := 0 }] }] })
      (onLanes (fun _ l => { l with v := (l.v.set 4 0).set 5 128 }) lab))
    ((meetsM (slotted 0 0) (.pst m) m fun e => every e fun l => decide (e.storeCell m (·.takes 0) l = .inl c)) &&
    (meetsM (slotted 1 0) (.pstp m) m fun e => every e fun l => decide (e.storeCell m (·.rule == 1) l = .inl c)) &&
    (meetsM (slotted 0 0) (.pld m) m fun e => every e fun l => decide (e.loadCell m false false l = .inl c)) &&
    (meetsM (slotted 0 12) (.pld { m with mod := 1 }) m fun e => every e fun l => decide (e.loadCell m true false l = .inl c)) &&
    (meetsM (slotted 1 0) (.pldx m) m fun e => every e fun l => decide (e.loadCell m false true l = .inl c)) &&
    meetsM idle (.pqry m) m && [0, 1].all (fun k => meetsM (slotted 0 0) (.pqry { m with mod := k }) m fun e => e.L != 0 && e.performed &&& e.L == 0 && (e.s.regionAt 0 (.slot 2 0)).isSome) &&
    meetsM idle (.pbind { m with a := 4 }) m && (meetsM bound (.pbind { m with a := 4 }) m fun e => e.L != 0 && e.performed &&& e.L == 0 && e.wv.berth == none &&
      (e.s.planeOf e.team 0).any fun d => decide (mget e.team.slots 0 = none) && e.team.bindOk d 0 128 && !e.s.bindClash e.team 0 0) &&
    (meetsM (slotted 0 0) (.pbind { m with d := 0x80 }) m fun e => (mget e.team.slots 0).isSome && e.team.gang == none && e.L != 0 && e.performed &&& e.L == 0 && e.wv.berth == none) &&
    (meetsM (onTeam (fun t => { t with gang := some 9 }) (slotted 0 0)) (.pbind { m with d := 0x80 }) m fun e => (mget e.team.slots 0).isSome && e.team.gang == some 9 && e.L != 0 && e.performed &&& e.L == 0 && e.wv.berth == none) &&
    meets (slotted 0 0) (.pstep { m with tv := false }) && meets berth (.pstep { m with tv := false }) && meets lab (.pstep { m with tv := false }) fun e => decide (mget e.team.slots 0 = none)) = true := by decide
theorem test_GlobalRegionsAreReached : let g := { (default : Region) with decl := { cells := 1, fxscale := 0, fmt := 0, carry := true, rule := 0 }, baseB := 128 }
    let at_ := fun (home : Nat) => onCtx (fun c => { c with home := home, regions := [(0, g)] }) lab
    let f := { m with mod := 8 }
    let c : PCell := { ref := .glob 0, i := 0 }
    let entry := leBytes 8 0x8000 ++ leBytes 8 0x9000 ++ leBytes 8 0x100000004 ++ leBytes 8 1
    let new := onCtx (fun c => { c with desc := { c.desc with planecnt := 1, planetab := 0x4000 } }) { lab with mem := writeCells [] 0x4000 entry, page := { lab.page with tlb := tlb.map fun t => { t with leaf := t.leaf ||| 0x400 } } }
    ((meetsM (at_ 0) (.pst f) m fun e => !e.s.awayFrom e.wv.ctxn && (mget e.ctx.regions 0).isSome && every e fun l => decide (e.storeCell f (·.takes 0) l = .inl c)) &&
    (meetsM (at_ 0) (.pld f) m fun e => !e.s.awayFrom e.wv.ctxn && (mget e.ctx.regions 0).isSome && every e fun l => decide (e.loadCell f false false l = .inl c)) &&
    [Instr.pst f, .pstp f, .pld f, .pldx f, .pqry f].all (fun i => meetsM (at_ 1) i m fun e => e.L != 0 && e.s.awayFrom e.wv.ctxn) &&
    meetsM new (.pqry f) m fun e => !e.s.awayFrom e.wv.ctxn && e.L != 0 && e.performed == 0 && (mget e.ctx.regions 0).isNone && decide (0 < e.ctx.desc.planecnt ∧ e.s.declareFault e.wv.ctxn 0 = none) &&
      (e.s.declare e.wv.ctxn 0).isSome) = true := by decide +kernel
/-! ## Records and rays -/

/-- A ray record of flow graph 5. -/
def rec : Record := { (default : Record) with flow := 5, ray := true, st := .delivered, words := List.replicate 32 0, hidden := List.replicate 16 0 }
/-- A flow graph with task stage 0 and ray stage 1, each other's successor. -/
def flow : Flow := { (default : Flow) with st := .running, stages := [{ (default : Stage) with task := true, succ := [0, 1] }, { (default : Stage) with succ := [0] }], rootn := 1, blocal := 0 }
/-- A scene at 0: cells of edge 1. -/
def scene : List Host.Cell := [(22, 0x80), (23, 0x3F), (26, 0x80), (27, 0x3F), (30, 0x80), (31, 0x3F)]
/-- A berth wave of that graph at stage 0 whose lane 0 holds record 9. -/
def holds (x : Record) : State := { onWave (fun v => { v with berth := some { flow := 5, stage := 0, delivered := 0 }, jm := v.jm.set 7 1 })
    (onCtx (fun c => { c with desc := { c.desc with stagecnt := 4 } }) (onLanes (fun l n => if l = 0 then { n with held := some 9 } else n) solo)) with
  recs := [(9, x)], flows := [(5, flow)], mem := scene }
/-- A traversal that is at its end. -/
def trav : Trav := { stack := [], tbest := 0x7F800000, cont := 0, hitStage := 0, cand := none }
/-- A candidate. -/
def cand : Cand := { custom := false, front := true, t := 0, prim := 0, inst := 0, bary := 0, stage := 0 }
theorem test_RaysAreTracedAnsweredRetired : let f := { en with b := 0xC0 }
    (meetsS idle (.rretire en) (fun e => e.L == 0) && (meetsS (holds rec) (.rretire en) fun e => e.wv.berth != none && decide (e.heldRec true 0 = .inl (9, rec))) &&
    (meetsS (holds rec) (.rtrace f) fun e => e.wv.berth != none && match e.traceLane f 0 with | .inl (k, va, _) => k == 9 && va == 0 | _ => false) &&
    (let x := { rec with trav := some { trav with cand := some cand } }
     meetsS (holds x) (.rhit en) fun e => e.wv.berth != none && e.todo == 1 && decide (e.hitLane 0 = .inl (9, x, cand))) &&
    (mget (onClause (fun c => { c with dropRec := 1 }) (holds rec)).waves 3).any fun v => v.clause.any fun c => inMask c.set 0 && inMask c.dropRec 0 &&
      v.lanes.length == 32 && v.jm.length == 8 && inMask (v.jm.getD 7 0) 0) = true := by decide +kernel
theorem test_RecordFieldsAndRadiance : let s := holds rec
    ([Instr.rld en, .rst { en with imm := 0x7C }, .rkey en, .rkey { en with imm := 1 }].all (fun i => meetsS s i fun e => e.wv.berth != none && e.todo == 1 && decide (e.heldRec false 0 = .inl (9, rec))) &&
    (let g := { (default : Region) with decl := { cells := 4, fxscale := 0, fmt := 12, carry := true, rule := 0 } }
     meetsS (onCtx (fun c => { c with regions := [(0, g)] }) s) (.racc en) fun e => !e.s.awayFrom e.wv.ctxn && decide (mget e.ctx.regions 0 = some g ∧ e.raccLane en g 0 = .inl 0)) &&
    [0, 6].all fun k => meetsS s (.rstat { en with imm := k }) fun e => e.wv.berth != none) = true := by decide +kernel
theorem test_NewRecordsAndDocking : let s := holds rec
    ((meetsS s (.renq { en with imm := 1 }) fun e => e.todo == 1 && e.wv.berth.any fun b => match e.renqLane { en with imm := 1 } b 0 with
      | .inl ws => (e.s.renq 0 5 0 true [(0, ws)]).any fun u => (mget u.waves e.w).isSome
      | _ => false) &&
    [1, 3].all (fun k => meetsS { s with recs := [], dev := { s.dev with masks := [] } } (.renq { en with imm := k }) fun e => e.todo == 1 && e.wv.berth.any fun b =>
      match e.renqLane { en with imm := k } b 0 with
      | .inl ws => (e.s.renq 0 5 0 true [(0, ws)]).isNone
      | _ => false) &&
    meetsS idle (.dock en) (fun e => e.L == 0) && meetsS s (.dock en) (fun e => e.L != 0 && e.wv.berth != none) && meetsS lab (.dock en) fun e => e.L != 0 && e.wv.berth == none) = true := by
  decide +kernel
/-- A record that waits in a bin of stage 0 of that graph; its berth is DOCKED. -/
def binned (x : Record) : State := onWave (fun v => { v with st := .docked, clause := none }) (holds { x with st := .binned })
/-- A record that traverses, in a scene's treelet of one custom primitive at 0x1000. -/
def travels (t : Trav) : State :=
  let s := holds { rec with st := .traversing, trav := some t }
  { s with mem := scene ++ [(0x103F, 1)], page := { s.page with tlb := tlb.map fun e => { e with leaf := e.leaf ||| 0x800 } } }
theorem test_TraversalsStep : let top : StackEnt := { (default : StackEnt) with treelet := 0x1000, kind := .leaf, dist := Dist.of 0x3F800000, ray := { (default : RayCtx) with o := [0, 0, 0], d := [0, 0, 0x3F800000] } }
    let at_ := fun (s : State) (c : Record → Trav → Bool) => (mget s.recs 9).any fun r => decide (r.st = .traversing) && !r.waits && (s.ctx r.ctx).runs && !s.clusterTested r.cluster && r.trav.any (c r)
    let visits := fun (s : State) (c : Visit → Bool) => at_ s fun r t => t.cand.isNone && t.stack == [top] && c (s.visit r top [])
    let one := { trav with stack := [top] }
    (at_ (travels { trav with cand := some cand }) (fun _ t => t.cand == some cand) &&
    at_ (travels trav) (fun r t => t.cand.isNone && t.stack.isEmpty && match (travels trav).scene r.ctx r.scene (256 + r.cluster) with | .ok _ => true | _ => false) &&
    visits (travels { one with tbest := 0 }) (fun x => match x with | .go _ => true | _ => false) &&
    visits { travels one with page := lab.page } (fun x => match x with | .bad c => c == 0x8E | _ => false) &&
    visits (travels one) (fun x => match x with | .cand y => y.trav.any (·.cand.isSome) | _ => false)) = true := by decide +kernel
theorem test_RecordsAreDelivered : (let s := binned rec;
      (s.bins.find? (fun b => b.recs.head?.map (·.1) == some 9)).any (fun b => !b.oldest.ripe && decide (s.patience b ≤ s.now - b.oldest.binnedAt)) &&
      !s.serviceTested 0x98 && (leastBy s.rankBin (s.deliverable 0)).any (fun b => b.flow == 5 && (s.berthFor b == some 3) && (returnSpilled (b.recs.take 32) s).any fun u =>
        (mget u.waves 3).isSome && (u.ctx (u.flow 5).ctx).runs && (s.ctx (s.flow 5).ctx).runs) &&
      (onWave (fun v => { v with berth := some { flow := 5, stage := 1, delivered := 0 } }) s).retargetTo 3 == some 0) = true ∧
    (let s := holds { rec with spill := some 0 };
      s.spillOldest (s.partOf 0) == some 9 && (s.rangeFault 0 (s.ctx 0).desc.spillbase (64 * rec.units) 0).isNone &&
      ({ s with page := { s.page with tlb := [] } } : State).spillOldest (s.partOf 0) == some 9 &&
      (({ s with page := { s.page with tlb := [] } } : State).rangeFault 0 (s.ctx 0).desc.spillbase (64 * rec.units) 0).isSome &&
      ((mget (holds rec).flows 5).any fun f => decide (f.st = .running ∧ f.rooted < f.rootn) && (f.start.isNone || f.start.isSome)) &&
      ((holds rec).renq 0 5 0 true [(0, [0, 0, 0, 0, 0, 0, 0, 0])]).isSome) = true := by decide +kernel
/-! ## The matrix engine -/

/-- A local shape of one element of eight. -/
def dot : Nat := 0x8000000000000009000000000000000000000000000000000
/-- That shape as a tensor at the start of the team's store. -/
def local8 : Nat := line8 - 0x2000 + 2 ^ 135
/-- A queued command of the wave. -/
def queued : State := ran (.mxlda { en with a := 0 }) (shaped line8 0 solo)
theorem test_ShapesWaitAndQuery : (let ln := fun (t : Tag) => tagged t 0 solo
    let p : LPlace := { team := 2, off := 0 }
    [Instr.shld en, .mxwait en].all (fun i => meetsS idle i fun e => e.L == 0) && (meetsS solo (.shld en) fun e => e.behind == 0 && e.L != 0 && decide (e.place 0 64 (eaOf (e.src64 0 0) 0 64) = .inl 0)) &&
    [(ln .empty, false), (ln .filling, true)].all (fun x => meetsS x.1 (.shld { en with imm := 16 }) fun e => e.behind == 0 && decide (e.shPlace { en with imm := 16 } = .inl p ∧ e.s.loadWaits false p = x.2)) &&
    [(en, 0), ({ en with imm := 16 }, 1)].all (fun x => (meets (waits [(1, .stl m, [0])] solo) (.shld x.1) fun e => !e.full (some 0) && e.L != 0 && inMask e.behind e.l0 &&
      (x.2 == 1 || decide (e.place 0 64 (eaOf (e.src64 0 0) 0 64) = .inl 0)) && decide (e.shPlace { en with imm := 16 } = .inl p))) &&
    [Instr.shset { en with imm := 0xFF }, .shget { en with imm := 0xFF }].all (meetsS solo) && (meetsS solo (.mxwait en) fun e => e.L != 0 && e.s.cmds.isEmpty) &&
    (meetsS { solo with cmds := queued.cmds } (.mxwait en) fun e => e.L != 0 && e.s.cmds.any fun k => k.2.wave == e.w) &&
    [0, 1, 2, 3, 4, 5].all fun k => meetsS (onWave (fun v => { v with mxStop := some { vec := [1, 2, 3, 4, 5], status := 7 } }) solo) (.mxqry { en with imm := k }) fun e => e.wv.mxStop.isSome) = true := by decide +kernel
/-- Two local operands of one element of eight, and a command block of `n` iterations. -/
def two (n : Word := 1) : State := shaped dot 0 (shaped dot 1 (onLanes (fun _ l => { l with v := (l.v.set 31 1).set 20 n }) solo))
/-- An engine instruction whose block starts at `v16`, on shapes 0 and 1. -/
def gemm : FE := { en with imm := 0x10, a := 16, c := 0xE8 }
theorem test_ProductsAreQueued : let sh := fun (e : Env) (k : Nat) => shapeOf (e.shapeReg k)
    ([Instr.mxgemm en, .mxconv en, .mxelt en, .mxlda en, .mxsta { en with imm := 0x100 }].all (fun i => meetsS idle i fun e => e.L == 0) &&
    [(Instr.mxgemm gemm, false), (.mxconv gemm, true)].all fun x => meetsS (two) x.1 fun e =>
      let cb := (List.range 16).map fun j => BitVec.ofNat 32 (e.regAt 16 j 0)
      e.L != 0 && isInt8 (sh e 0).fmt == isInt8 (sh e 1).fmt && [0, 1].all (fun k => (sh e k).space != 2 && decide ((sh e k).cause mxAccept = none) && (match e.resolve (sh e k) with
        | .inl y => decide (e.operandFault y y.whole = none) && y.lines.all fun l => decide (e.lineFault true l = none)
        | _ => false)) && (mxTile gemm (sh e 0) (sh e 1)).ok && decide (mxBlockCause x.2 cb (mxTile gemm (sh e 0) (sh e 1)).m = none)) = true := by decide +kernel
theorem test_ShapesOutOfOrderFault : let sh := fun (e : Env) (k : Nat) => shapeOf (e.shapeReg k)
    let cb := fun (e : Env) => (List.range 16).map fun j => BitVec.ofNat 32 (e.regAt 16 j 0)
    let both := fun (e : Env) (c : Bool) => e.L != 0 && decide ((sh e 0).cause mxAccept = none ∧ (sh e 1).cause mxAccept = none) && c
    ([(Instr.mxgemm gemm, false), (.mxconv gemm, true)].all (fun i =>
      meetsS solo i.1 (fun e => e.L != 0 && decide ((sh e 0).cause mxAccept = some 0x67)) &&
      meetsS (shaped dot 0 solo) i.1 (fun e => e.L != 0 && decide ((sh e 0).cause mxAccept = none ∧ (sh e 1).cause mxAccept = some 0x67)) &&
      meetsS (shaped (dot + 9 * 2 ^ 128) 0 two) i.1 (fun e => both e (isInt8 (sh e 0).fmt != isInt8 (sh e 1).fmt)) &&
      meetsS (shaped (dot + 7 * 2 ^ 472) 0 two) i.1 (fun e => both e (isInt8 (sh e 0).fmt == isInt8 (sh e 1).fmt && !(mxTile gemm (sh e 0) (sh e 1)).ok)) &&
      meetsS (onLanes (fun _ l => { l with v := l.v.set 30 0x10000 }) two) i.1 (fun e =>
        both e (isInt8 (sh e 0).fmt == isInt8 (sh e 1).fmt && (mxTile gemm (sh e 0) (sh e 1)).ok && decide (mxBlockCause i.2 (cb e) (mxTile gemm (sh e 0) (sh e 1)).m = some 0x67)))) &&
    [0x80000000, 0x7F3FF].all (fun x => meetsS (onLanes (fun _ l => { l with v := l.v.set 0 x }) solo) (.mxelt en) fun e =>
      e.L != 0 && (bits (e.src constInt 0 0) 31 26 != 0) == (x == 0x80000000) && (bits (e.src constInt 0 0) 31 26 != 0 || decide (1023 < bits (e.src constInt 0 0) 11 0 + bits (e.src constInt 0 0) 18 12))) &&
    [(Instr.mxlda en, false), (.mxsta { en with imm := 0x100 }, true)].all fun i =>
      let ok := fun (sp fmt : Nat) => decide (sp ≤ 1) && (decide (fmt ≤ 2) || (i.2 && decide (4 ≤ fmt) && decide (fmt ≤ 10)))
      meetsS solo i.1 (fun e => e.L != 0 && decide ((sh e 0).cause ok = some 0x67)) &&
      meetsS (onLanes (fun _ l => { l with v := l.v.set 7 1 }) (shaped line8 0 solo)) i.1 fun e => e.L != 0 && decide ((sh e 0).cause ok = none ∧
        transferCause (sh e 0) ((List.range 8).map fun j => BitVec.ofNat 32 (e.regAt 0 j 0)) = some 0x67)) = true := by decide +kernel
theorem test_RowsAreQueued : let sh := fun (e : Env) => shapeOf (e.shapeReg 0)
    let accept := fun (sta : Bool) (sp fmt : Nat) => decide (sp ≤ 1) && (decide (fmt ≤ 2) || (sta && decide (4 ≤ fmt) && decide (fmt ≤ 10)))
    (meetsS solo (.mxelt en) (fun e => e.L != 0) && [line8, local8].all (fun x => (meetsS (shaped x 0 solo) (.mxelt { en with imm := 0x10 }) fun e =>
      e.L != 0 && (sh e).rank == 1 && decide ((sh e).cause (accept false) = none) && match e.resolve (sh e) with
        | .inl y => (y.space == 0 || decide (e.operandFault y y.whole = none)) && (y.space != 0 || decide (e.s.rangeFault 0 y.base (extent y.fmt y.base 8) 0 0 = none)) &&
            y.lines.all fun l => decide (e.lineFault true l = none)
        | _ => false) &&
    [(Instr.mxlda en, false), (.mxsta { en with imm := 0x100 }, true)].all fun i => meetsS (shaped x 0 solo) i.1 fun e =>
      let tb := (List.range 8).map fun j => BitVec.ofNat 32 (e.regAt 0 j 0)
      e.L != 0 && decide ((sh e).cause (accept i.2) = none ∧ transferCause (sh e) tb = none) && match e.resolve (sh e) with
        | .inl y => decide (e.operandFault y (if i.2 then tPieces y tb else y.whole) = none ∧ e.transferPages y tb (if i.2 then 1 else 0) = none) &&
            (i.2 || y.lines.all fun l => decide (e.lineFault true l = none)) && (!i.2 || y.space != 1 || (tPieces y tb).all fun p =>
              !((mget e.s.teams y.scaleBase).getD default).inPlane p.1 p.2 && (linesOf p.1 p.2).all fun n => decide (e.lineFault false (y.scaleBase, n) = none)) &&
            (List.range (y.boxOf 1)).all fun r => e.s.rowKind e.wv.core e.wv.team (bits (cbWord tb 5) 11 0 + r) == isInt8 y.fmt
        | _ => false)) = true := by decide +kernel
theorem test_MatrixCommandsStartAndEnd : (let leaf := fun (x : DWord) => { queued with page := { queued.page with tlb := tlb.map fun t => { t with leaf := x } } }
    let on := { queued with mxes := [(0, { (default : Mxe) with powered := true })] }
    let gone := { queued with page := { queued.page with retired := [0] } }
    let steps := fun (n : Word) (more : Bool) => let s := ran (.mxgemm gemm) (two n)
      (mget s.cmds 4).any fun k => let r := { k with st := .running }
        k.product && s.page.faults.isEmpty && !s.mxeTested r.cluster && ({ s with energy := { s.energy with testing := [0x40] } } : State).mxeTested r.cluster && decide (s.cmdFault r = none) && ({ r with start := bumpVec (r.next.getD r.start) }).next.isSome == more
    steps 1 false && steps 2 true && (mget queued.cmds 4).any fun k => let r := { k with st := .running }
      let ends := fun (s : State) (c : TFault × Access → Bool) => (s.cmdFault r).any c && s.page.faults.isEmpty
      on.canStart 4 k && !k.product && !queued.mxeTested r.cluster && decide (queued.cmdFault r = none) && queued.page.faults.isEmpty && decide (r.since + 100000000 ≤ 100000000) &&
        ends (leaf 0x1B9) (fun x => resolvable x.1.kind) && ends (leaf 0x80000000001F9) (fun x => !resolvable x.1.kind && ((leaf 0x80000000001F9).goneFrame k.ctx x.1 256).isNone) &&
        ends gone (fun x => !resolvable x.1.kind && (gone.goneFrame k.ctx x.1 256).isSome)) = true := by decide +kernel
/-! ## System instructions, traps -/

/-- The example machine in a trap. -/
def trapped : State := onWave (fun v => { v with trapped := true, x := { v.x with s := 0xFFFFFFFF } }) lab
/-- With a trap handler. -/
def handler : State → State := onCtx fun c => { c with desc := { c.desc with trapbase := 0x4000 } }
theorem test_SpecialRegistersAreReadAndWritten : let st := fun (s : State) (n : Word) (c : Env → Bool) => meets s (.swr { im with a := 4, imm := n }) c
    let any := fun (_ : Env) => true
    let one := holding 0x100 lab
    ([0x10, 0x20, 0x100].all (fun n => meets lab (.srd { im with imm := n }) fun e => every e fun l => (e.sreg n.toNat l).isSome) &&
    (meets lab (.srd { im with imm := 0xFFFF }) fun e => (e.sreg 0xFFFF 0).isNone) && st idle 0x10 any && st one 0x10 (fun e => every e fun l => bits (e.src constInt 4 l) 10 8 == 1) &&
    st lab 0x10 (fun e => bits (e.src constInt 4 0) 10 8 == 0) && st (holding 0x700 lab) 0x10 (fun e => bits (e.src constInt 4 0) 10 8 == 7) &&
    [0x20, 0x21, 0x22, 0x23, 0x30, 0x3B, 0x122, 0x123].all (fun n => st one n any) &&
    [0x40, 0x47, 0x4A, 0x4B].all (fun n => st trapped n fun e => e.wv.trapped && e.L &&& ~~~ e.wv.x.s == 0) && st lab 0x121 (fun e => !e.team.loc.fifomapBad 0 && e.team.loc.fifoPend.isEmpty && e.s.fifoRoom e.wv.team 0) &&
    st (onTeam (fun t => { t with loc := { t.loc with fifoPend := [1] } }) lab) 0x121 (fun e => !e.team.loc.fifomapBad 0 && !e.team.loc.fifoPend.isEmpty) &&
    st (holding 1 lab) 0x121 (fun e => !e.team.loc.fifomapBad 1 && !e.s.fifoRoom e.wv.team 1) &&
    st (holding 0x80000000 lab) 0x121 (fun e => e.team.loc.fifomapBad 0x80000000) && st lab 0x33 any && st lab 0x40 (fun e => !e.wv.trapped)) = true := by decide
theorem test_SoftwareTrapsAndTheirEntry : (meets lab (.trap { im with imm := 15 }) (fun e => e.cl.cond == none) && meets lab (.trap { im with imm := 16 }) && meets idle (.trap im) &&
    meets (onClause (fun c => { c with cond := some { cause := 0x10, lanes := 1, addr := 0, info := 0, after := true } }) lab) (.trap im) (fun e => e.cl.cond != none) &&
    [0, 1, 2].all (fun k => meets trapped (.tret { r with mod := k })) && meets lab (.tret r) fun e => !e.wv.trapped) = true ∧
    ((mget (handler lab).waves 3).any fun v => !v.trapped && ((handler lab).ctx v.ctxn).desc.trapbase != 0) = true := by decide
theorem test_FaultsStopTheClauseOrTheContext : [lab, handler trapped].all (fun s => (mget s.waves 3).any fun v => (mget s.ctxs v.ctxn).any fun x =>
    decide (x.st = .active) && (v.trapped || x.desc.trapbase == 0) && v.clause.any fun c => c.sr0.length == 32) = true := by decide
theorem test_ClocksMeasurementsAndSignals : let on := onCtx (fun c => { c with desc := { c.desc with meas := true } }) lab
    ([Instr.clock r, .clock { r with mod := 1 }, .ecnt { im with imm := 0x100 }].all (meets lab) && meets idle (.measure en) && meetsS lab (.measure en) (fun e => !e.ctx.desc.meas) &&
    (meetsS on (.measure en) fun e => e.ctx.desc.meas && decide (e.src64 0 0 + e.src constInt 0 0 ≤ 2 ^ 57 ∧ e.s.rangeFault e.wv.ctxn 0 0 0 = none) && e.s.inDevice e.wv.ctxn 0 0) &&
    ([0, 1].all fun k => meetsM lab (.signal { m with mod := k }) m fun e => every e fun l => decide (e.place (if k = 0 then 1 else 2) 8 (e.ea m 8 l) = .inl 0)) &&
    meetsM lab (.signal { m with mod := 4 }) m fun e => e.badQueue { m with mod := 4 } != 0) = true := by decide

/-! ## Waves and the placer -/

/-- A code object of one clause of one instruction at 0x10000: an IADD. -/
def code : State → State := fun s => { onCtx (fun c => { c with objs := [{ (default : CodeObj) with addr := 0x10000, len := 16, textLen := 16 }] }) s with
  mem := [(0x10007, 0xFF), (0x1000E, 0x70), (0x1000F, 0x14)] }
/-- Its wave between two clauses, in a state. -/
def between (st : WaveState := .ready) : State := onWave (fun v => { v with clause := none, st := st }) lab
/-- A change of the one wave of a state at a clause boundary. -/
def waveIs (s : State) (c : Wave → Bool) : Bool := (mget s.waves 3).any c
theorem test_WaveEventsAndIssueSelection : (let s := code (between)
      (match leastBy (s.issueRank 1) (s.ready 0 0) with
        | some (w, v) => w == 3 && ((s.wave s.cur).clause).isNone && (match s.fetchClause v.ctxn 0x10000 v.core v.alloc with
          | .ok _ ws => (firstMma 0 ws).isNone && (v.stopHere 0x10000).isNone && s.waves.length == 1
          | _ => false)
        | none => false)) = true ∧
    (waveIs (ran (.rcp r) lab) (fun v => v.flights.length == 1 && v.mayLand 0) && (let s := tagged .full 0 (ran (.ldlw { m with mod := 4 }) lab)
      waveIs s fun v => v.parks.any fun p => let x := (s.release 3 (v.waiting Park.orders 0) p).1
        p.orders && !x.lanes.isEmpty && (s.ctx v.ctxn).runs && (s.teamOf v).onCore && (p.gone s (x.lanes.map (·.1))).isNone && p.lanes.all fun l => (mget x.lanes l.1).isSome) &&
    [false, true].all (fun parked => let s := onTeam (fun t => if parked then { t with st := .parked } else t) (waits [(1, .fget m, [0, 31])] filled)
      waveIs s fun v => v.parks.any fun p => let x := (s.release 3 (v.waiting Park.orders 0) p).1
        p.orders && !x.lanes.isEmpty && (s.ctx v.ctxn).runs && (s.teamOf v).onCore == !parked && (p.gone s (x.lanes.map (·.1))).isNone && p.lanes.any fun l => (mget x.lanes l.1).isNone) &&
    [(false, 0x000), (true, 0x300)].all (fun (x : Bool × Nat) => let s := handler (onLanes (fun _ n => if x.1 then { n with pc := 0x4000 } else n)
        (onWave (fun v => { v with trapped := x.1, pend := [(0, { cause := 0x40, lanes := 1, addr := 0, info := BitVec.ofNat 32 x.2, after := false })] }) (between)))
      [s, onTeam (fun t => { t with st := .parked }) s].all fun s => waveIs s fun v => v.clause.isNone && v.faultWait.isEmpty && v.pend.length == 1 && (s.ctx v.ctxn).runs &&
        (v.trapped && (v.lane ((lowest v.lastSet).getD 0)).pc == (s.ctx v.ctxn).desc.trapbase && v.pend.all fun y => bits y.2.info.toNat 9 8 == 3) == x.1) &&
    (let s := onWave (fun v => { v with dbg := { v.dbg with stepPending := true } }) (between)
     waveIs s fun v => v.clause.isNone && v.faultWait.isEmpty && v.pend.isEmpty && (s.ctx v.ctxn).runs && (s.teamOf v).onCore && v.st == .ready && s.stepDue 3 v.lastSet) &&
    waveIs (between .parked) (fun v => v.st == .parked && v.pend.isEmpty && v.faultWait.isEmpty) &&
    waveIs (onWave (fun v => { v with sleep := some 0 }) lab) (fun v => v.sleep.any fun d => decide (d ≤ lab.now)) &&
    waveIs (onWave (fun v => { v with xsleep := some 0 }) lab) (fun v => v.xsleep.any fun d => decide (d ≤ lab.now)) &&
    (let s := { onTeam (fun t => { t with loc := { t.loc with fifoPend := [1] } }) lab with dev := { lab.dev with octants := [(0, [2, 1, 1, 1, 0, 0, 0, 0])] } }
     (mget s.teams 2).any fun t => t.loc.fifoPend == [1] && t.onCore && s.fifoRoom 2 1)) = true := by decide +kernel
/-- A state where the cores of cluster 0 have four LOCAL octants each. -/
def framed (s : State) : State := { s with dev := { s.dev with octants := [0, 1, 2, 3].map fun k => (k, [1, 1, 1, 1, 0, 0, 0, 0]) } }
/-- A grid of two teams of one wave of eight registers, in gangs of `gang`, none of them admitted. -/
def waiting (gang : Nat) (waves regs : Nat := 1) : Grid :=
  { (default : Grid) with st := .decoded, teams := 2, entry := { (default : Entry) with gang := gang, waves := waves, regblk := regs, loc := 8192 } }
theorem test_TeamsAndGangsArePlaced : (let s := { framed lab with grids := [(1, waiting 0)], teams := [], waves := [] }
      s.admits && (s.grids.filter (s.admissible 0)).length == 1 && s.flows.isEmpty && s.waves.all (fun x => decide (x.1 < s.key ∧ x.2.team < s.key)) &&
        (s.coreFor 0 (waiting 0).entry true).any fun x => x.1 == 0 && x.2.isSome) = true ∧
    (let s := { framed lab with grids := [(1, waiting 2)], teams := [], waves := [], gangs := [(6, { (default : Gang) with grid := 1 })] }
      let gr := waiting 2
      let s0 := (s.unreserve 0).noteResident gr.ctx
      (s.oldestGang 0).any (fun x => x.1 == 6) && !s.defers 0 (s.estimateOf gr) 2 && s.dev.clusterIn 0 0 && (placeGang 6 1 (s.dev.clusterCores 0 0) 2 0 s0).1.length == 2) = true := by decide +kernel
theorem test_TeamsParkAndRetire : (let kids := onWave (fun v => { v with kidsWait := some 0 }) (between .parked);
      let gang := { onTeam (fun t => { t with gang := some 6 }) (between .parked) with gangs := [(6, { (default : Gang) with st := .placed, teams := [2] })] }
      let other := { Team.holding 1 with st := .parked, runnableAt := 1, loc := .fresh 524288 }
      let parked := onTeam (fun t => { t with st := .parked, runnableAt := 1 }) (framed (between .parked))
      let packed := { onTeam (fun t => { t with st := .parked, runnableAt := 1, gang := some 6 }) (framed (between .parked)) with gangs := [(6, { (default : Gang) with st := .parked, teams := [2] })] }
      kids.parksNow 2 && ({ gang with teams := mset gang.teams 7 other } : State).gangParksNow 6 && parked.nextParked 0 == some 2 && (mget parked.teams 2).any (·.gang.isNone) && packed.nextParked 0 == some 2 && (mget packed.teams 2).any (·.gang == some 6) &&
      (parked.unpark 2).isSome && (unparkAll (packed.gangTeams 6) packed).isSome &&
      (mget (onTeam (fun t => { t with st := .draining }) (between .retired)).teams 2).any fun t => t.st == .draining && !t.preempted && t.gang.isNone && lab.copies.isEmpty && lab.cmds.isEmpty) = true := by decide +kernel
theorem test_OctantsDrainAndContextsArePreempted : (let s := onTeam (fun t => { t with loc := { t.loc with fifoPend := [1] } }) lab
     let drains := fun (m : Nat) => { s with dev := { s.dev with drains := [(0, 7, m)] } }
     s.mayswitch 0 7 2 && s.dev.drains.isEmpty && (drains 2).mayswitch 0 7 2 && !(drains 3).mayswitch 0 7 3) = true ∧
    (let late := { lab with dev := { lab.dev with time := 1000000 }, ctxs := [(0, lab.ctx 0), (1, { (lab.ctx 0) with desc := { (lab.ctx 0).desc with prio := 1 } } )], grids := mset lab.grids 9 { waiting 0 32 24 with ctx := 1, entry := { (default : Entry) with waves := 32, regblk := 24, loc := 100000000 } } }
      let x := late.ctx 0
      x.runs && decide (x.residentSince + 1000000 ≤ late.now) && late.teams.any (fun t => late.teamCtx t.2 == 0 && t.2.onCore) && late.starved 1) = true ∧
    (let pre := fun (b : Bool) => onCtx (fun c => { c with preempting := true, saved := b })
      let s := onTeam (fun t => { t with preempted := true }) (pre true (framed (between)))
      (pre false (between)).canSave 0 && (s.restoreAll 0).isSome) = true := by decide +kernel
/-! ## Queues, packets, launches -/

/-- Queue 0 of the example context: its ring at 0x2000, its control block at 0x3000. -/
def queue0 : Queue := { (default : Queue) with ring := 0x2000, ctl := 0x3000, logSize := 6, st := .mappedActive, write := 1, priv := true }
/-- The example machine with that queue and one packet of some words. -/
def packet (ws : List Nat) : State := { lab with queues := [(0, queue0)], mem := writeCells [] 0x2000 (ws.flatMap (leBytes 8)) }
/-- The packet a state decodes next. -/
def next0 (s : State) : Pkt :=
  Pkt.ofBytes (s.svbytes 0 0x2000 64)
/-- Its packet may be decoded and meets a condition, after the copy too. -/
def decodes (s : State) (c : State → Pkt → Bool) : Bool :=
  s.dev.pilotDown.isNone && !s.awaits (.queue 0) && (s.queue 0).pkts.isEmpty && (s.rangeFault 0 0x2000 64 0).isNone && (s.rangeFault 0 0x3000 8 0).isNone &&
    (s.agentFault 0 0x3008 32 1).isNone && !bitAt ((next0 s).word 0) 14 && c (s.copied 0 queue0 (next0 s)) (next0 s)
/-- What `decodes` answers is a witness. -/
theorem test_decodes {s : State} {c : State → Pkt → Bool} (h : decodes s c = true) (hq : s.queues = [(0, queue0)]) :
    s.Decodes 0 queue0 (next0 s) ∧ c (s.copied 0 queue0 (next0 s)) (next0 s) = true := by
  have hx : s.queue 0 = queue0 := by rw [State.queue, hq]; decide
  simp only [decodes, hx, Bool.and_eq_true, Bool.not_eq_true', Option.isNone_iff_eq_none, and_assoc] at h
  obtain ⟨h1, h2, -, h3, h4, h5, h6, h7⟩ := h
  exact ⟨⟨by rw [hq]; decide, h1, rfl, by decide, by decide, h2, h3, ⟨h4, h5⟩, rfl, by simp [h6]⟩, h7⟩
/-- A packet of a kind with a well-formed body. -/
def good (ws : List Nat) (c : State → Pkt → Bool := fun _ _ => true) : Bool := decodes (packet ws) fun u p => p.malformed.isNone && c u p
theorem test_PacketsAreDecoded : (decodes (packet [0, 1]) (fun _ p => p.malformed == some 8) && decodes (packet [13]) (fun _ p => p.kind == 13) &&
    [[0], [5], [10], [4], [8], [9], [11], [11, 0, 0, 0x100000000 + 7], [3, 0, 0, 0, 0, 0, 0, 0], [1], [2, 0, 0, 0, 1]].all (fun ws => good ws) &&
    ((packet [11]).queue 0).priv && good [12] (fun u _ => (u.agentFault 0 0x3018 8 1).isNone) &&
    good [6, 0, 0, 0x3000, 0, 5, 1] (fun u _ => (u.rangeFault 0 0x3000 8 0).isNone)) = true := by decide
theorem test_PrivilegedAndMeasuredPackets : (let on := fun (ws : List Nat) => onCtx (fun c => { c with desc := { c.desc with meas := true, rcpt := true, planecnt := 1 } }) (packet ws)
      decodes (on [8, 0, 0, 0x3000, 4]) (fun u p => p.malformed.isNone && (u.ctx 0).desc.meas && (u.rangeFault 0 0x3000 4 0).isNone && u.inDevice 0 0x3000 4) &&
      decodes (on [9, 0, 0, 0x5000]) (fun u p => p.malformed.isNone && (u.ctx 0).desc.rcpt && (u.agentFault 0 0x5000 4096 1).isNone) &&
      (let g := { (default : Region) with decl := { cells := 4, fxscale := 0, fmt := 12, carry := true, rule := 0 } }
       decodes (onCtx (fun c => { c with regions := [(0, g)] }) (packet [7])) fun u p => p.malformed.isNone && (match u.stepRegion 0 0 false (.packet 0 0) with | .ok _ => true | _ => false)) &&
      [(1, FlowState.running), (2, .quiescing)].all fun x => decodes { packet [3, 0, 0, 0, 0, 0, 0, x.1] with flows := [(5, { flow with st := x.2 })] }
        fun u p => p.malformed.isNone && (u.flowNamed 0 0).any fun f => f.2.st == x.2) = true := by decide
/-- The example machine with a loaded code object of one entry at 0x10000 and a launch descriptor at 0x6000. -/
def launching (teams : Nat) : State :=
  { onCtx (fun c => { c with objs := [{ (default : CodeObj) with addr := 0x10000, entries := [(waiting 0).entry] }] }) (packet [1, 0, 0, 0x6000, 0x6000, 64]) with
    mem := writeCells [] 0x6000 (leBytes 8 0x10000 ++ leBytes 4 0 ++ leBytes 4 teams ++ List.replicate 48 0) }
/-- The image of a code object of one entry, with gangs of `gang`: a header, a clause of 16 bytes, the entry. -/
def imageBytes (gang : Nat) : List Byte :=
  leBytes 8 0x313045444F43425A ++ leBytes 4 128 ++ leBytes 2 0 ++ leBytes 2 1 ++ leBytes 4 64 ++ leBytes 4 16 ++ leBytes 4 96 ++ leBytes 2 1 ++ List.replicate 34 0 ++
    List.replicate 32 0 ++ leBytes 4 0 ++ [1, 1, BitVec.ofNat 8 gang, 0] ++ leBytes 4 8192 ++ List.replicate 20 0
/-- The example machine with that image at 0x10000, not loaded yet, and a launch of two of its teams; the context measures or not. -/
def fresh (gang : Nat) (meas : Bool) : State :=
  let s := onCtx (fun c => { c with objs := [], desc := { c.desc with meas := meas } }) (launching 2)
  { s with mem := writeCells s.mem 0x10000 (imageBytes gang) }
theorem test_NewCodeObjectsAreLaunched : [(0, false), (0, true), (2, false)].all fun x => let s := fresh x.1 x.2
    (match s.checkLaunch 0 0x6000 0x6000 64 0x18 3 with
      | .ok l => l.new && l.grid.entry.gang == x.1 && l.grid.teams == 2 && l.obj.addr == 0x10000 && (l.obj.entryMarks l.grid.entry).isEmpty &&
          (match s.checkMarks 0 0x6000 64 (s.mflags 0 0x18001) [] with | .ok ins => ins.isEmpty | _ => false)
      | _ => false) && (match s.launchImage 0 0x6000 0x6000 64 0x18 with | .ok (_, _, new) => new | _ => false) &&
      (s.ctx 0).desc.meas == x.2 && (s.ctx 0).appends.isEmpty && decide ((s.ctx 0).objs.length < 1024) && (mget s.ctxs 0).isSome && (mget s.queues 0).isSome := by decide +kernel
/-- A launch of an entry that is not there, in an image that passes its checks. -/
theorem test_ImagesOfRefusedLaunchesAreRegistered : let s := { (fresh 0 false) with mem := writeCells (fresh 0 false).mem 0x6008 [1] }
    ((match s.checkLaunch 0 0x6000 0x6000 64 0x18 3 with | .bad c d => c == 8 && d == 0x1008 | _ => false) &&
      (match s.launchImage 0 0x6000 0x6000 64 0x18 with | .ok (_, _, new) => new | _ => false)) = true := by decide +kernel
/-- With its packet taken. -/
def taken : State := { launching 1 with queues := [(0, { queue0 with decode := 1, pkts := [(0, { next0 (packet [1, 0, 0, 0x6000, 0x6000, 64]) with opening := false })] })] }
theorem test_LaunchesMakeGridsThatRetire : (let fine := fun (s : State) (c : Chk Launch) => (match c with | .ok l => !l.new && l.grid.entry.gang == 0 | _ => false) && !(s.ctx 0).desc.meas && (s.ctx 0).appends.isEmpty
      fine (launching 1) ((launching 1).checkLaunch 0 0x6000 0x6000 64 0x18 3) && (match (launching 0).checkLaunch 0 0x6000 0x6000 64 0x18 3 with | .bad .. => true | _ => false) &&
      [(0, false), (1, true)].all fun n =>
        let s := { launching n.1 with grids := [(1, { waiting 0 with teams := 1, st := .running }), (9, { (default : Grid) with st := .submitted, origin := .child 2, parent := some 1, desc := 0x6000, args := 0x6000, arglen := 64 })] }
        !s.awaits (.grid 9) && (s.ctx 0).st == CtxState.active && (match s.checkLaunch 0 0x6000 0x6000 64 0x18 0 with | .ok l => n.2 && !l.new | .bad .. => !n.2 | _ => false) &&
          s.rootOf 17 9 == 1 && (mget s.grids 1).isSome && (mget (onCtx (fun c => { c with desc := { c.desc with meas := true } }) s).ctxs 0).any (·.desc.meas)) = true ∧
    (let g := { waiting 0 with st := .running, teams := 1, retiredTeams := 1, origin := .packet 0 0 }
      let s := { taken with grids := [(1, g)] }
      s.gridOver 1 g && !s.awaits (.grid 1) && (mget s.ctxs 0).isSome && (mget (s.queue 0).pkts 0).any fun p => p.done.isNone && p.bad.isNone) = true ∧
    ([1, 4, 5].all fun k =>
      let nd := { (default : Node) with st := k }
      let s := { taken with queues := mmap taken.queues fun _ x => { x with pkts := mmap x.pkts fun _ p => { p with nodes := [nd] } } }
      !s.nodeBusy 0 0 0 nd && !s.nodeWaits 0 0 0 && !s.awaits (.node 0 0 0) && (mget (s.queue 0).pkts 0).any fun p => p.nodes.length == 1) = true := by decide
/-- Packet 0 of queue 0 of a state completes: its writes reach their places, one after the other. -/
def completes (s : State) : Bool := (mget s.queues 0).any fun x => (mget x.pkts 0).any fun p => p.done.any fun d =>
  let pass := fun (u : State) => u.updPkt 0 0 fun y => { y with stage := y.stage + 1, lost := y.lost.orElse fun _ => none }
  let s1 := pass (s.svwrite x.ctx (x.slotAt 0 + 4) (leBytes 4 (statusWord d.1 d.2)))
  let s2 := pass (match p.signal with
    | some (a, op) => (s1.waitersOn x.ctx a).foldl (fun u k => u.postReread 1 k) (s1.putSignal x.ctx a op (p.word 0x10))
    | none => s1)
  let s3 := if bitAt (p.word 0) 21 then s2.irq x.irqMsg else s2
  !p.opening && p.stage == 0 && !s.awaits (.pkt 0 0) && s.dev.pilotDown.isNone && !s.pktWaits 0 0 &&
    (s.agentFault x.ctx (x.slotAt 0 + 4) 4 1).isNone && p.signal.all (fun y => (s1.agentFault x.ctx y.1 8 (signalAcc y.2)).isNone) &&
    (s3.agentFault x.ctx (x.ctl + 0x10) 8 1).isNone
/-- The example machine with a packet of some words that has done its work, and a WAIT on address 0x3800 in queue 1. -/
def ended (ws : List Nat) (d : Nat × Nat) : State :=
  { packet ws with queues := [(0, { queue0 with decode := 1, pkts := [(0, { next0 (packet ws) with opening := false, done := some d })] }),
      (1, { queue0 with pkts := [(0, { next0 (packet [6, 0, 0, 0x3800]) with opening := false })] })] }
/-- A change of the packet of queue 0. -/
def onPkt (f : Pkt → Pkt) (s : State) : State := s.updPkt 0 0 f
theorem test_PacketsComplete : ([(0, 0), (8, 0x18), (7, 0xA2)].all (fun d => [[1], [0x200001, 0x3800], [0x280001, 0x3800, 5], [0x100001, 0x3800, 1]].all fun ws => completes (ended ws d)) &&
    completes (onCtx (fun c => { c with st := .faulted }) (ended [1] (7, 0xA2))) &&
    [[1], [13]].all (fun ws => [none, some 0x51].all fun k => [false, true].all fun down => [CtxState.active, .faulted].all fun st =>
      let s := onCtx (fun c => { c with st := st }) (onPkt (fun p => { p with lost := k, ctxDown := down }) (ended ws (0, 0)))
      ((mget (s.queue 0).pkts 0).any fun p => p.lost == k && p.ctxDown == down) && (s.ctx 0).st == st)) = true := by decide +kernel
theorem test_WakesAndAccessesOfTheHostWait : let p := fun (st : LinkState) (w : List HostAct) => { lab with ports := [{ (default : Port) with st := st }, default, default], host := { lab.host with waiting := w } }
    ((p .up []).hostOpen && !(p .up [.wake 0]).hostOpen && (p .up [.wake 0]).hostUp && !(p .retraining []).hostOpen && ((p .retraining []).ports.getD 0 default).st == .retraining &&
      !(p .down []).hostUp && ((p .down []).ports.getD 0 default).st == .down && (queue0.st != .destroyed) && ((ended [1] (0, 0)).queue 1).waiting.isSome &&
      (((ended [1] (0, 0)).queue 0).waiting).isNone && !(ended [1] (0, 0)).awaits (.pkt 1 0)) = true := by decide +kernel
theorem test_WaitsReadAgain : let at_ := fun (s : State) (c : Option TFault → Bool) => ((s.queue 1).waiting).any fun w => w.1 == 0 && !s.awaits (.pkt 1 0) && c (s.rangeFault 0 (w.2.word 0x18) 8 0)
    let leaf := fun (x : DWord) => { ended [1] (0, 0) with page := { lab.page with tlb := tlb.map fun t => { t with leaf := x } } }
    (at_ (ended [1] (0, 0)) (·.isNone) && at_ (leaf 0x1B9) (fun x => x.any fun f => resolvable f.kind) &&
      at_ (leaf 0x80000000001F9) (fun x => x.any fun f => !resolvable f.kind && ((leaf 0x80000000001F9).goneFrame 0 f).isNone) &&
      (let s := { ended [1] (0, 0) with queues := mmap (ended [1] (0, 0)).queues fun _ x => { x with pkts := mmap x.pkts fun _ p => { p with deadline := some 0 } } }
       ((s.queue 1).waiting).any fun w => w.2.deadline.any fun t => decide (t ≤ s.now))) = true := by decide +kernel
theorem test_QueuesAreMapped : (let s := fun (st : QState) => { packet [] with queues := [(0, { queue0 with st := st })] };
      (s .runnableUnmapped).freeHwSlot == some 0 && (s .runnableUnmapped).nextQueue == some 0 && decide ((s .runnableUnmapped).qprio queue0 ≤ 3) && !(s .mapping).awaits (.queue 0) &&
      ((s .mapping).rangeFault 0 0x3000 8 0).isNone && ((s .mapping).agentFault 0 0x3008 32 1).isNone && (s .unmapping).dev.pilotDown.isNone && (s .unmapping).host.latch.isEmpty &&
      [(QState.mappedIdle, 1000000), (.mappedActive, 1000000), (.mappedIdle, 100000)].all fun y =>
        let late : State := { s y.1 with dev := { lab.dev with time := y.2 }, queues := [(0, { queue0 with st := y.1 }), (1, { queue0 with st := .runnableUnmapped })] };
        decide (y.2 ≤ late.now) && late.queues.any fun z => z.2.st == .runnableUnmapped && decide (late.qprio queue0 ≤ late.qprio z.2)) = true := by decide +kernel
/-! ## The host -/

/-- The host link is open and entry 0 of the mailbox at host address 0 holds some bytes. -/
def mail (e : List Byte) (s : State := lab) : State :=
  { s with ports := [{ (default : Port) with st := .up }, default, default], hostMem := writeCells [] 0 e, host := { s.host with submitted := 1 } }
/-- The mailbox command of a state. -/
def entry0 (s : State) : List Byte := s.pread true 0 64
/-- A state has a command of an opcode at hand. -/
def commands (op : Nat) (ops : Nat → Nat) (s : State) : Bool :=
  s.hostUp && s.host.bootstat == 1 && s.dev.pilotDown.isNone && decide (s.host.taken < s.host.submitted) && !s.awaits .mbx && s.host.mbxbase == 0 && s.host.taken == 0 &&
    ((entry0 s).getD 0 0).toNat == op && (List.range 64).all fun k => k == 0 || (decide (4 ≤ k) && decide (k < 8)) || Nat.land ((entry0 s).getD k 0).toNat (255 - ops k) == 0
/-- What `commands` answers is a witness. -/
theorem test_commands {op : Nat} {ops : Nat → Nat} {s : State} (h : commands op ops s = true) : s.Command op ops (entry0 s) := by
  simp only [commands, Bool.and_eq_true, Bool.not_eq_true', Option.isNone_iff_eq_none, beq_iff_eq, decide_eq_true_eq, List.all_eq_true, List.mem_range,
    Bool.or_eq_true, and_assoc] at h
  obtain ⟨h1, h2, h3, h4, h5, h6, h7, h8, h9⟩ := h
  exact ⟨⟨h1, h2, h3, h4, h5, by simp [entry0, h6, h7], h8⟩, fun k hk h0 h47 => ((h9 k hk).resolve_left fun hx => hx.elim h0 h47)⟩
/-- A 12-bit id at 8. -/
def id8 (k : Nat) : Nat := if k = 8 then 255 else if k = 9 then 15 else 0
/-- An 8-byte operand at 8. -/
def op8 (k : Nat) : Nat := if 8 ≤ k ∧ k < 16 then 255 else 0
/-- The example context in a state. -/
def ctxIs (st : CtxState) (s : State := lab) : State := onCtx (fun c => { c with st := st, desc := { c.desc with rcpt := true } }) s
/-- A translation like that of the example context for another. -/
def alsoFor (c : Nat) (s : State) : State := { s with page := { s.page with tlb := s.page.tlb ++ (tlb.map fun t => { t with ctx := c }) } }
theorem test_ContextsAreCreated : (commands 0x77 (fun _ => 255) (mail [0x77])) = true ∧
    ([0, 2 ^ 32, 2 ^ 34, 5 * 2 ^ 32].all fun flags =>
      let d := leBytes 8 0 ++ leBytes 8 (3 + flags) ++ List.replicate 48 0 ++ leBytes 8 64 ++ List.replicate 56 0
      let s := alsoFor 3 { mail ([1, 0, 0, 0, 0, 0, 0, 0] ++ leBytes 8 0x4000) with mem := writeCells [] 0x4000 d, dev := { lab.dev with paired := true } };
      let x := ctxDescOf (s.pread false 0x4000 128)
      commands 1 op8 s && leNat (((entry0 s).drop 8).take 8) == 0x4000 && !s.cmdPending 3 && (s.descChecks (s.pread false 0x4000 128)).all (·.1) &&
        x.pairctx == bitAt flags 34 && x.meas == bitAt flags 32 && leNat (((s.pread false 0x4000 128).drop 8).take 2) == 3 && (s.rangeFault 3 (x.logbase + 16) 48 1).isNone) = true ∧
    (mail [] : State).hostOpen && decide ((mail []).host.taken < 2) && decide ((mail []).host.taken ≥ (0 : DWord).toNat) = true := by decide +kernel
theorem test_MalformedCommands :
    (([1, 2, 3, 4, 5, 6, 0x10, 0x11, 0x12, 0x20, 0x21, 0x22] : List Nat).all fun op => let s := mail [BitVec.ofNat 8 op, 1]
      s.hostUp && s.host.bootstat == 1 && s.dev.pilotDown.isNone && decide (s.host.taken < s.host.submitted) && !s.awaits .mbx && s.host.mbxbase == 0 &&
        s.host.taken == 0 && ((entry0 s).getD 0 0).toNat == op && Nat.land ((entry0 s).getD 1 0).toNat (255 - 0) != 0) = true ∧
    ([(1, 128), (0x10, 64), (0x20, 4096)].all fun x => let s := mail ([BitVec.ofNat 8 x.1, 0, 0, 0, 0, 0, 0, 0] ++ leBytes 8 1)
      commands x.1 op8 s && leNat (((entry0 s).drop 8).take 8) % x.2 != 0) = true ∧
    (let s := mail ([5] ++ List.replicate 15 0 ++ leBytes 8 1)
     commands 5 (fun k => if 32 ≤ k ∧ k < 64 then 255 else if 16 ≤ k ∧ k < 24 then 255 else id8 k) s && leNat (((entry0 s).drop 16).take 8) % 4096 != 0) = true ∧
    (let s := fun (op : Nat) => { mail ([BitVec.ofNat 8 op, 0, 0, 0, 0, 0, 0, 0] ++ leBytes 8 0x4000) with mem := writeCells [] 0x4000 [1] }
     commands 1 op8 (s 1) && commands 0x10 op8 (s 0x10) && !(s 1).cmdPending 0 &&
       (((s 1).descChecks ((s 1).pread false 0x4000 128)).find? fun x => !x.1).isSome &&
       ((queueChecks ((s 0x10).pread false 0x4000 64)).find? fun x => !x.1) == some (false, 0)) = true := by decide +kernel
theorem test_ContextCommands :
    ([CtxState.active, .created, .suspended, .faulted, .quiescing, .destroyed].all fun st => [2, 3, 4].all fun k =>
      let s := mail [BitVec.ofNat 8 k] (ctxIs st)
      commands k id8 s && leNat (((entry0 s).drop 8).take 2) == 0 && s.ctxSt 0 == st && !s.cmdPending 0 && (mget s.ctxs 0).isSome) = true ∧
    ([(CtxState.active, true), (.faulted, false), (.faulted, true)].all fun x =>
      let s := mail ([5] ++ List.replicate 15 0 ++ leBytes 8 0x5000) (onCtx (fun c => { c with desc := { c.desc with rcpt := x.2 } }) (ctxIs x.1));
      commands 5 (fun k => if 32 ≤ k ∧ k < 64 then 255 else if 16 ≤ k ∧ k < 24 then 255 else id8 k) s && leNat (((entry0 s).drop 16).take 8) == 0x5000 &&
        (s.agentFault 0 0x5000 4096 1).isNone && !s.cmdPending 0 && s.ctxSt 0 == x.1 && (s.ctx 0).desc.rcpt == x.2 && (s.ctx 0).appends.isEmpty) = true ∧
    ([CtxState.active, .destroyed].all fun st => let s := mail [6, 0, 0, 0, 0, 0, 0, 0, 1, 0, 0, 0, 1] (ctxIs st)
      let new := mapIx (fun i x => if i = 1 then 1 else x &&& ~~~(1 : BitVec 8)) 0 s.dev.masks
      commands 6 (fun k => if k = 8 then 7 else if k = 12 then 255 else 0) s &&
        s.ctxs.any (fun x => x.2.st != .destroyed && new.getD x.2.desc.part 0 != s.dev.masks.getD x.2.desc.part 0) == (st == .active)) = true ∧
    ([false, true].all fun b => let s := onCtx (fun c => { c with st := .quiescing, saved := true, cmd := some { slot := 0, destroy := b } }) { lab with teams := [] };
      (s.heldTeams 0).isEmpty && s.cmds.isEmpty && (s.ctx 0).cmd.isSome) = true := by decide +kernel
theorem test_QueueCommands :
    (let d := leBytes 8 0x7000 ++ leBytes 8 5 ++ leBytes 8 0x3000 ++ leBytes 8 6 ++ List.replicate 32 0
      let s := { mail ([0x10, 0, 0, 0, 0, 0, 0, 0] ++ leBytes 8 0x4000) with mem := writeCells [] 0x4000 d };
      commands 0x10 op8 s && leNat (((entry0 s).drop 8).take 8) == 0x4000 && (queueChecks (s.pread false 0x4000 64)).all (·.1) &&
        leNat (((s.pread false 0x4000 64).drop 8).take 2) == 5 && !s.cmdPending 0 && s.ctxSt 0 == .active && (mget s.queues 5).isNone &&
        (s.rangeFault 0 0x3000 8 0).isNone && (s.agentFault 0 0x3008 32 1).isNone) = true ∧
    ([(0x11, QState.mappedIdle, 1, CtxState.active), (0x11, .idleUnmapped, 0, .active), (0x11, .mappedActive, 0, .active), (0x11, .mapping, 0, .active), (0x11, .unmapping, 0, .active),
      (0x12, .faulted, 0, .active), (0x12, .faulted, 0, .faulted), (0x12, .mappedIdle, 0, .active)].all fun x =>
      let s := mail [BitVec.ofNat 8 x.1] (ctxIs x.2.2.2 { lab with queues := [(0, { queue0 with st := x.2.1, decode := x.2.2.1 })] });
      commands x.1 id8 s && leNat (((entry0 s).drop 8).take 2) == 0 && (mget s.queues 0).any (fun q => q.st == x.2.1 && decide (q.decode ≤ q.retire) == (x.2.2.1 == 0)) &&
        s.ctxSt 0 == x.2.2.2 && (s.rangeFault 0 0x3000 8 0).isNone && (s.agentFault 0 0x3008 32 1).isNone) = true := by decide +kernel
/-- A key store whose first leaf counter is at `l`, with a block of sixteen leaves reserved. -/
def stocked (l : Nat) : KeyUnit :=
  let r : Reservation := { gen := lab.keys.gen, limit := 16, seq := 1, crc := 0 }
  { lab.keys with leaves := [(lab.keys.gen, l)], flash := [{ r with crc := crc32 r.bytes }], spare := none, owed := false }
theorem test_ServiceCommandsAndTheChain :
    (commands 0x20 op8 (mail ([0x20, 0, 0, 0, 0, 0, 0, 0] ++ leBytes 8 0x4000)) && commands 0x21 (fun _ => 0) (mail [0x21]) &&
      [(0, 0), (2, 1), (3, 0)].all fun x => let s := { mail ([0x22, 0, 0, 0, 0, 0, 0, 0, BitVec.ofNat 8 x.1, 0, 0, 0, BitVec.ofNat 8 x.2, 0, 0, 0] ++ leBytes 8 0x4000) with keys := { lab.keys with genDigests := [(1, 0)] } }
        commands 0x22 (fun k => if 8 ≤ k ∧ k < 24 then 255 else 0) s && (mget s.keys.genDigests 1).isSome && leNat (((entry0 s).drop 12).take 4) == x.2) = true ∧
    ([0, 64].all fun n => [(6, Waiter.none), (8, .none), (3, .flight 3 0 [])].all fun r =>
      let s := onCtx (fun c => { c with count := n, desc := { c.desc with logbase := 0x4000, loglen := 64 }, appends := [{ type := r.1, subject := 0, addr := 0, len := 0, aux := 0, digest := 0, waiter := r.2 }] }) lab
      (s.logFault 0).isNone && s.logFull 0 == (n == 64) && s.page.faults.isEmpty && (s.ctx 0).appends.length == 1) = true ∧
    (let near := { stocked 0 with leaves := [(lab.keys.gen, 2 ^ 40 - 1)] }
     decide (near.spare = none ∧ near.owed = false ∧ 2 ^ 40 < near.leaf + 2 ^ 24) && (stocked 3).takeLeaf.1 == some 3 && decide ((stocked 3).leaf < 2 ^ 40)) = true := by decide +kernel
theorem test_SpentLeavesAreReservedAnew : let k := stocked 16
    (∀ i, i < 3 → Config.flashWriteOk (k.flashWrites + i) = false) → k.owed = false ∧ k.leaf < 2 ^ 40 ∧ k.takeLeaf.1 = none := by
  intro k h
  have h0 := h 0 (by decide)
  have h1 := h 1 (by decide)
  have h2 := h 2 (by decide)
  have hf : (List.range 3).find? (fun j => Config.flashWriteOk (k.flashWrites + j)) = none := by
    simp only [show List.range 3 = [0, 1, 2] from rfl, List.find?, h0, h1, h2]
  refine ⟨rfl, by decide, ?_⟩
  simp only [KeyUnit.takeLeaf, show (k.owed || decide (2 ^ 40 ≤ k.leaf)) = false by decide, if_false, Bool.not_true, Bool.false_eq_true,
    show ¬ (k.leaf < k.limit) by decide +kernel, KeyUnit.reserve, KeyUnit.write, hf]
theorem test_TranslationEvents : (let f := { (default : FaultRec) with token := 4, written := true }
      let s := mail [] { lab with page := { lab.page with faults := [f], invs := [(0x1000, 0)] } };
      s.hostOpen && [FaultAgent.queue 0, .pkt 0 0, .node 0 0 0, .grid 1, .mbx].all (fun a => (s.pilotAgent a).isSome) && (s.pilotAgent (.wave 3)).isNone && (mget (onWave (fun v => { v with faultWait := [4] }) s).waves 3).any (·.faultWait == [4]) &&
      (s.faultNamed 4).isSome && (s.faultNamed 5).isNone && !s.onMeasured f && s.page.invs.length == 1 && !s.storesOwed 0x1000 0 && (0 : DWord).getLsbD 16 == false && (0x10000 : DWord).getLsbD 16) = true ∧
    (let u := ran (.tcopyo en) (shaped line8 0 (holding 1 solo));
      u.storesOwed 0x2000 0 && !u.storesOwed 0x8000 0) = true ∧
    (let s := { lab with page := { lab.page with tlb := [] } };
      let at_ := fun (l : Nat) (e : Nat) => (0x1000 * l, e)
      let tree := fun (leaf : Nat) => { s with mem := [at_ 1 0x2001, at_ 2 0x3001, at_ 3 0x4001, at_ 4 0x5001, at_ 5 leaf].foldl (fun m x => writeCells m x.1 (leBytes 8 x.2)) [] };
      let bad := fun (u : State) (root : Nat) => match walk u 0 (s.ctx 0).desc.part 0 0 4 root with | .bad k _ _ => some (resolvable k) | _ => none
      [0, 256, 600].all (fun a => (s.cached 0 0 (agentOf a)).isNone) && (mget s.ctxs 0).any (fun x => x.st != .destroyed) &&
      bad s (s.ctx 0).desc.asroot == some true && bad (tree 0x1C3) 0x1000 == none && bad (tree 0x40000000000001C3) 0x1000 == some false) = true := by decide +kernel
theorem test_HostRegisters : ((mail []).hostOpen && (mail [] (ctxIs .destroyed)).ctxs.all (fun c => c.2.st == .destroyed) && (mail []).ctxs.any (fun c => c.2.st != .destroyed) && (64 : DWord).toNat % 512 % 32 == 0 &&
      (mget (mail []).waves 3).any fun w => w.ctxn == 0) = true := by decide
/-! ## Links, energy, errors, resets -/

/-- The host link is open, and ports 1 and 2 are in a state. -/
def ported (x : Port) (y : Port := default) (s : State := lab) : State := { mail [] s with ports := [{ (default : Port) with st := .up }, x, y] }
/-- The host link is in a state, a tenth of a second after reset. -/
def hosted (st : LinkState) : State := { lab with ports := [{ (default : Port) with st := st }, default, default], dev := { lab.dev with time := 100000000 } }
theorem test_Links : (let p := fun (st : LinkState) => ported { (default : Port) with st := st } { (default : Port) with st := st };
      let all := [LinkState.down, .training, .up, .degraded, .retraining, .failed]
      all.all (fun st => (p st).hostUp && [1, 2].all (fun k => ((p st).ports[k]?).any fun x => x.st == st)) &&
      all.all (fun st => ((hosted st).ports[0]?).any fun x => x.st == st && decide (x.since + 100000000 ≤ (hosted st).now)) && !(hosted .down).hostUp &&
      [(0, 4), (0, 3), (1, 16), (1, 8), (1, 15), (1, 7)].all (fun w => decide (w.1 < 3 ∧ w.2 < 17)) &&
      (mget lab.ctxs 0).any (fun c => c.st == .active) && (mget (onCtx (fun c => { c with desc := { c.desc with meas := true } }) lab).ctxs 0).any fun c => c.st == .active && c.desc.meas) = true := by decide +kernel
theorem test_HostAccesses : (let code := onCtx (fun c => { c with objs := [{ (default : CodeObj) with addr := 0x10000, len := 16, textLen := 16 }] }) lab;
      decide (8 + 8 ≤ Config.hbmBytes) && (mail []).hostUp && ((mail []).regionsAt 8).isEmpty && ((mail []).privsAt 8).isEmpty && !(mail []).codeHolds 8 &&
      (mail [] code).codeHolds 0x10FF8 && !(mail [] code).codeHolds 0x11000 && !(mail [] code).codeHolds 0xFFF8 && !((mail [] priv).privsAt 0x100000).isEmpty) = true ∧
    (let x : MeshPkt := { nacks := 1, waiting := true, resendAt := 0, escalated := false, age := 0 };
      [x, { x with waiting := false }, { x with escalated := true }].all (fun y => mget [(4, y)] 4 == some y) && decide (x.resendAt ≤ lab.clk 256) &&
        [false, true].all (fun b => ({ lab with dev := { lab.dev with paired := b } } : State).dev.paired == b) &&
        (onCtx (fun c => { c with desc := { c.desc with pairctx := true } }) lab).ctxs.any fun c => c.2.st == .active && c.2.desc.pairctx) = true := by decide +kernel
theorem test_crc64_zeros (n : Nat) : crc64 (List.replicate n 0) = 0 := by
  induction n with
  | zero => rfl
  | succ n ih => rw [List.replicate_succ, crc64, List.foldl_cons, show crc64Byte 0 0 = 0 by decide]; exact ih
theorem test_leBytes_zero (n : Nat) : leBytes n 0 = List.replicate n 0 := by
  induction n with
  | zero => rfl
  | succ n ih => rw [leBytes, Nat.zero_div, ih, List.replicate_succ]; rfl
theorem test_flits : flitOk 0#2048 = true := by
  simp only [flitOk, flitBits, BitVec.toNat_zero, test_leBytes_zero, test_crc64_zeros, bits, Nat.zero_div, Nat.zero_mod]; rfl
theorem test_leBytes_add (n x y : Nat) : leBytes n (x + y * 256 ^ n) = leBytes n x := by
  induction n generalizing x with
  | zero => rfl
  | succ n ih =>
    have h : (x + y * 256 ^ (n + 1)) / 256 = x / 256 + y * 256 ^ n := by
      rw [Nat.pow_succ, ← Nat.mul_assoc, Nat.add_mul_div_right _ _ (by decide)]
    have h2 : BitVec.ofNat 8 (x + y * 256 ^ (n + 1)) = BitVec.ofNat 8 x := by
      apply BitVec.eq_of_toNat_eq
      simp only [BitVec.toNat_ofNat, Nat.pow_succ, ← Nat.mul_assoc]
      omega
    rw [leBytes, leBytes, h, ih, h2]
/-- A flit of each assigned type with its CRC, in order as the first one, and so taken by a port that expects number 0. -/
theorem test_taken_flits (t : Nat) (ht : t ≤ 4) : let c := (crc64 (leBytes 248 (t * 1024))).toNat
    let f := BitVec.ofNat 2048 (t * 1024 + c * 256 ^ 248)
    flitOk f = true ∧ bits f.toNat 9 0 = (default : Port).expected ∧ bits f.toNat 13 10 = t ∧ bits f.toNat 15 14 = 0 ∧ bits f.toNat 31 26 = 0 ∧
      bits f.toNat 63 48 = 0 := by
  intro c f
  have hc : c < 2 ^ 64 := (crc64 (leBytes 248 (t * 1024))).isLt
  have hf : f.toNat = t * 1024 + c * 256 ^ 248 := by
    simp only [f, BitVec.toNat_ofNat]; apply Nat.mod_eq_of_lt; omega
  refine ⟨?_, ?_, ?_, ?_, ?_, ?_⟩
  · simp only [flitOk, flitBits, hf, test_leBytes_add, bits, beq_iff_eq]
    show c = _
    omega
  · rw [hf, show (default : Port).expected = 0 from rfl]; simp only [bits]; omega
  all_goals rw [hf]; simp only [bits]; omega
theorem test_Ports : (let x : Port := { (default : Port) with st := .up, enable := true }
    let old := List.replicate 15 0
    x.unacked.isEmpty && x.queued.isEmpty && decide (x.unacked.length < 512 ∧ (List.replicate 512 (0 : BitVec 2048)).length = 512) &&
      ((ported x x lab).ports[1]?).any (fun y => y.enable && y.st == .up && y.unacked.isEmpty) && ({ x with replayTimes := old }.nak 0 0 0).replayTimes.length == 16 &&
      (x.nak 0 0 0).replayTimes.length == 1 && ((ported x x lab).hostOpen) && [LinkState.down, .failed, .up, .training].all (fun st => ((ported x { x with st := st } lab).ports[2]?).any fun y => y.st == st) &&
      [0, 1].all (fun w => let s : State := { mail [] with host := { (mail []).host with waiting := List.replicate w (.wake 0) } }; s.hostUp && s.hostOpen == (w == 0))) = true := by decide +kernel
/-- An aligned address of the host over device memory, in memory with loaded code or without. -/
theorem test_HostMemoryIsReached : let a := Config.hdmBase + 0x10000
    let pa := a - Config.hdmBase
    (Config.hdmBase ≤ a ∧ pa % 8 = 0 ∧ (mail []).dev.base ≤ pa ∧ pa + 8 ≤ (mail []).dev.base + Config.hbmBytes) ∧ ¬ (Config.hdmBase ≤ a + 1 ∧ (a + 1 - Config.hdmBase) % 8 = 0) ∧
      (mail []).hostOpen = true ∧ (mail []).codeHolds 0x10000 = false ∧
      (mail [] (onCtx (fun c => { c with objs := [{ (default : CodeObj) with addr := 0x10000, len := 16, textLen := 16 }] }) lab)).codeHolds 0x10000 = true := by
  refine ⟨?_, ?_, by decide, by decide +kernel, by decide +kernel⟩
  · have h : (mail []).dev.base = 0 := by decide
    have h2 : Config.hbmBytes = 0x8000000000 := rfl
    simp only [h, h2]; omega
  · omega
/-- A package whose budget is what its islands would spend; one whose limit has not fallen. -/
theorem test_PowerLimits : let sum := (List.range 160).foldl (fun a k => a + Config.islandEnergy 0 k) 0
    let s : State := { lab with energy := { lab.energy with budget := 1000 * sum } }
    1000 * sum ≤ s.powerLimit ∧ s.dev.time = 0 ∧ lab.energy.lastLimit ≤ lab.powerLimit ∧ lab.energy.fell = none := by
  refine ⟨?_, by decide, by decide, by decide⟩
  exact Nat.le_refl _
theorem test_EnergyAndErrors :
    ((List.replicate 160 1)[0x98]? == some 1 && 0 % 10000 == 0 && 1000 % 10000 != 0 && (ctxIs .active).ctxs.length == 1 &&
      [(true, true), (true, false), (false, false)].all (fun b => let s : State := { lab with dev := { lab.dev with pairCard := b.1, paired := b.2 } }; s.dev.pairCard == b.1 && s.dev.paired == b.2) &&
      decide (¬ (0xB0 ≤ 0x58 ∧ 0x58 ≤ 0xBF)) && [(true, false), (false, false), (true, true)].all (fun b => let x := (onCtx (fun c => { c with preempting := b.1, saved := b.2 }) lab).ctx 0; x.preempting == b.1 && x.saved == b.2) &&
      (mget lab.ctxs 0).any (fun x => x.st == .active) && ((mget lab.waves 3).any fun v => v.clause.any fun c => c.set &&& 1 != 0) &&
      ([0x000000, 0x00FF00, 0xFFFF05, 0x000045, 0x000083, 0x000093] : List (BitVec 24)).all fun u =>
        ({ lab with energy := { lab.energy with testing := [u.toNat] } } : State).energy.testing.contains u.toNat && !lab.energy.testing.contains u.toNat) = true := by decide
theorem test_ErrorsAndWork : (let s := onClause (fun c => { c with words := [0x8074090200A94010] }) lab
      ((begin_ { s with cur := 3 } 7).any fun e => e.cl.set &&& 1 != 0 && lowest (e.cl.set &&& 1) == some 0 &&
        ((e.cl.words[e.cl.idx]?).bind decodeWord).any (fun | .ld _ => true | _ => false)) && (lab.workOn 0).contains 0 && (mget lab.ctxs 0).any (fun x => x.st != .destroyed && !x.preempting) &&
      decide (lab.dev.time < lab.energy.wearAt + 10000000000) && decide (lab.energy.wearAt + 10000000000 ≤ ({ lab.dev with time := 10000000000 } : Dev).time) &&
      (onTeam (fun t => { t with st := .parked }) lab).teams.all fun t => !t.2.onCore) = true := by decide +kernel
theorem test_PilotsResetsPowerAndFirmware : (let down := fun (x : Option Nat) => { lab with dev := { lab.dev with pilotDown := x }, queues := [(0, { queue0 with st := .mapping })] };
      (down none).dev.pilotDown.isNone && (down (some 0xA5)).dev.pilotDown == some 0xA5 && (mget (down (some 0xA5)).ctxs 0).any (fun x => x.st == .active) &&
      (mget (down none).queues 0).any (fun q => q.inFlight && (mget lab.ctxs q.ctx).any fun c => c.st != .destroyed) && ((down none).queues.map (·.1)).length == 1 &&
      (mget (onCtx (fun c => { c with desc := { c.desc with meas := true } }) lab).ctxs 0).any (fun x => x.desc.meas && x.st != .destroyed) && lab.queues.all (fun q => !q.2.inFlight) &&
      lab.ctxs.length == 1 && !({ lab.dev with powered := false } : Dev).powered && (mget ({ lab.keys with versions := [(7, 1)] } : KeyUnit).versions 7).isSome &&
      (mget ({ lab.keys with versions := [(7, 1)] } : KeyUnit).versions 8).isNone) = true := by decide

/-! ## The machine as a whole -/

theorem test_AStepRunsTheDecodedInstruction : let s := full.withFetchWord 64 0x1C10080800000010
    (s.dev.powered && s.agenda.isEmpty && (mget s.waves s.cur).any fun v => v.clause.any fun c => (c.words[c.idx]?.bind decodeWord).any fun
      | .iaddi f => f.imm == 16
      | _ => false) = true := by decide
theorem test_ClausesAreFetchedAdvanceAndRetire : (match (code (between)).fetchClause 0 0x10000 0 192 with
      | .ok _ ws => ws.length == 1
      | _ => false) = true ∧
    (let last := look lab (.nop r)
      let more := look (onClause (fun c => { c with words := [0x70000000000000, 0x70000000000000] }) lab) (.nop r)
      last.cl.words.length == last.cl.idx + 1 && more.cl.words.length == more.cl.idx + 2 && (mget lab.waves last.w).any fun v => v.clause.any fun c => !c.trap && c.cond.isNone && v.dbg.ctl == 0 && !v.dbg.stepPending) = true := by decide
theorem test_IndexesOutOfRangeFault : let s := onLanes (fun l x => { x with i0 := if l = 31 then 0x08000008 else 0x08000000, i3 := 0x08000008 }) lab
    [(0xE0, 31), (0xE3, 0)].all (fun (x : Nat × Nat) => (formOf (.mov { r with a := BitVec.ofNat 8 x.1 })).any fun y => (begin_ s y.2).any fun e =>
      let hit := fun l => y.1.ops.find? fun o => decide (0xE0 ≤ o.spec ∧ o.spec < 0xE4) && (e.wv.index l (o.spec - 0xE0) (o.n == 2)).isNone
      (List.range 16).all (fun t => !e.full (some t)) && !e.full none && e.behind == 0 && inMask e.L x.2 && (List.range x.2).all (fun k => !inMask e.L k || (hit k).isNone) &&
        (hit x.2).any fun o => o.spec == x.1) = true := by decide +kernel
theorem test_EveryStepKeepsMemoryCanonical : let s := full.withFetchWord 64 0x1C10080800000010
    (Memory.wf s.mem && Memory.wf s.hostMem && s.teams.all (fun t => Memory.wf t.2.loc.data) && (match step s with
      | .next _ => true
      | _ => false)) = true := by decide

/-! ## Words written out from the spec's encodings -/

theorem test_decode_integer : ([(0x1C10080800000010, .iaddi { im with pred := 1, d := 8, a := 8, imm := 16 }),
    (0x3472480400000064, .iseti { im with mod := 2, d := 72, a := 4, imm := 100 }),
    (0x2F70070600000000, .popc { r with d := 7, a := 6 }),
    (0x3673060200000000, .vote { r with mod := 3, d := 6, a := 2 })] : List (DWord × Instr)).all (fun x => decodeWord x.1 == some x.2) = true := by decide
theorem test_decode_float : ([(0x4270040506040280, .ffma { r with d := 4, a := 5, b := 6, c := 4, rnd := 1, markA := true }),
    (0x4070100809000200, .fadd { r with d := 16, a := 8, b := 9, rnd := 1 }),
    (0x4170090808000200, .fmul { r with d := 9, a := 8, b := 8, rnd := 1 }),
    (0x6573080200000000, .sincy { r with mod := 3, d := 8, a := 2 }),
    (0x6F70060405002C00, .f2fp { r with d := 6, a := 4, b := 5, fmt := 2, rnd := 6 })] : List (DWord × Instr)).all (fun x => decodeWord x.1 == some x.2) = true := by decide
theorem test_decode_matrix : ([(0x7172080004E80000, .mmaBf16 { r with mod := 2, d := 8, b := 4, c := 232 })] : List (DWord × Instr)).all (fun x => decodeWord x.1 == some x.2) = true := by decide
theorem test_decode_control : ([(0x01000000FFFFFFFD, .bra { b with pred := 0, off := 4294967293 }),
    (0x0670000000000009, .meet { b with off := 9 }),
    (0x0C70000800001013, .region { im with a := 8, imm := 4115 }),
    (0x0B700000000007D0, .sleep { im with imm := 2000 }),
    (0x0F70000000000000, .waitkids r),
    (0x0970000000000000, .exit r),
    (0x0070000000000000, .nop r),
    (0x0D1B1408C5000000, .spawn { r with pred := 1, mod := 11, d := 20, a := 8, b := 197 }),
    (0x0E700A0204C60080, .launch { r with d := 10, a := 2, b := 4, c := 198, markA := true })] : List (DWord × Instr)).all (fun x => decodeWord x.1 == some x.2) = true := by decide
theorem test_decode_memory : ([(0x8174080200A00000, .st { m with mod := 4, d := 8, a := 2, scope := 5, tv := false }),
    (0x81740A0200B0C010, .st { m with mod := 4, d := 10, a := 2, scope := 5, order := 2, wk := 1, off := 16 }),
    (0x8074090200A94010, .ld { m with mod := 4, d := 9, a := 2, scope := 5, order := 1, wk := 2, off := 16 }),
    (0x907004C6CBA00000, .stz { m with d := 4, a := 198, b := 203, scope := 5, tv := false }),
    (0x917008020400C000, .fput { m with d := 8, a := 2, b := 4, wk := 1 }),
    (0x92700A0200014000, .fget { m with d := 10, a := 2, wk := 2 }),
    (0x96711408100000B2, .tcopy { en with mod := 1, d := 20, a := 8, b := 16, imm := 178 })] : List (DWord × Instr)).all (fun x => decodeWord x.1 == some x.2) = true := by decide
theorem test_decode_sync : ([(0xB070000000000003, .bar { im with imm := 3 }),
    (0xB170000000000001, .barg { im with imm := 1 }),
    (0xB272E80000000000, .elect { r with mod := 2, d := 232 }),
    (0xB37000060000C000, .pbind { m with a := 6, wk := 1 }),
    (0xB47108020001C000, .pld { m with mod := 1, d := 8, a := 2, wk := 3 }),
    (0xB672040200014000, .pst { m with mod := 2, d := 4, a := 2, wk := 2 }),
    (0xB870000000000000, .pstep { m with tv := false })] : List (DWord × Instr)).all (fun x => decodeWord x.1 == some x.2) = true := by decide
theorem test_decode_flow : ([(0xC070000000000000, .dock en),
    (0xC171E800C400FF02, .rtrace { en with mod := 1, d := 232, b := 196, imm := 65282 }),
    (0xC271283000000001, .renq { en with mod := 1, d := 40, a := 48, imm := 1 }),
    (0xC872E814080A0103, .racc { en with mod := 2, d := 232, a := 20, b := 8, c := 10, imm := 259 })] : List (DWord × Instr)).all (fun x => decodeWord x.1 == some x.2) = true := by decide
theorem test_decode_mxe : ([(0xD37428D000E80210, .mxgemm { en with mod := 4, d := 40, a := 208, c := 232, imm := 528 }),
    (0xD875290000000000, .mxwait { en with mod := 5, d := 41 })] : List (DWord × Instr)).all (fun x => decodeWord x.1 == some x.2) = true := by decide
theorem test_decode_system : ([(0xE070280000000042, .srd { im with d := 40, imm := 66 }),
    (0xE210000000000003, .trap { im with pred := 1, imm := 3 }),
    (0xE370000000000000, .tret r),
    (0xE4730802C4000001, .measure { en with mod := 3, d := 8, a := 2, b := 196, imm := 1 }),
    (0xE670280000000100, .ecnt { im with d := 40, imm := 256 }),
    (0xE7150402C6D0C000, .signal { m with pred := 1, mod := 5, d := 4, a := 2, b := 198, scope := 6, order := 2, wk := 1 })] : List (DWord × Instr)).all (fun x => decodeWord x.1 == some x.2) = true := by decide

/-! ## Ill-formed instructions: each check refuses its own -/

theorem test_wellFormed_smoke : (Instr.mov r).wellFormed 192 = true ∧
    -- a field that the entry does not use
    (Instr.mov { r with b := 1 }).reservedZero = false ∧ (Instr.nop { r with d := 1 }).reservedZero = false ∧ (Instr.movi { im with a := 1 }).reservedZero = false ∧
    (Instr.ld { m with mod := 4, tv := false, wk := 1 }).reservedZero = false ∧ (Instr.exit { r with sat := true }).reservedZero = false ∧
    -- a value that the entry does not accept
    (Instr.mov { r with pred := 15 }).modifiersOk = false ∧ (Instr.mmaF16 { r with pred := 0 }).modifiersOk = false ∧ (Instr.fadd { r with rnd := 7 }).modifiersOk = false ∧
    (Instr.ld { m with scope := 7 }).modifiersOk = false ∧ (Instr.st { m with order := 1 }).modifiersOk = false ∧
    -- a register that is none of the entry's
    (Instr.mov { r with d := 0xE4 }).operandsOk 192 = false ∧ (Instr.mov { r with a := 0xFF }).operandsOk 192 = false ∧ (Instr.mov { r with d := 0xF0 }).operandsOk 192 = false ∧
    (Instr.movw { r with d := 1 }).operandsOk 192 = false ∧ (Instr.mov { r with d := 16 }).operandsOk 16 = false := by decide
theorem test_clauses_are_checked : (let h := fun (b : Bool) => ({ cls := 0, count := 2, wait := 0, yield_ := false, brt := b, rsv := true } : Header)
    [([0x0970000000000000, 0x0070000000000000], false), ([0x0070000000000000, 0x0100000000000000], true)].map fun x =>
      (clauseCause (h false) 192 x.1).isSome) = [true, true] := by decide
/-- R409, R413: the read of core 45 of a line pinned to core 0: 7 hops west and 2 north, then down; its answer rises first. -/
theorem test_route : let a := meshAt 45 0; let b := meshAt 0 1
    (((meshRoute a b).length, (meshRoute a b)[6]?, (meshRoute a b).getLast?, (meshRoute b a).head?, (meshRoute b a).length) ==
      (10, some (0, 2, 0), some (0, 0, 1), some (0, 0, 0), 10)) = true := by decide

end Sys2Proof.Tests
end

section
/-! PROOFS. The integer, logic, predicate and lane instructions (R188 to R207): values of their operations as words, the frame of their
results, and the statements of the family. -/
namespace Sys2Proof.Proofs.Integer
open Sys2Proof.Machine Sys2Proof.Laws

/-! ## Bits of words -/

theorem bitAt_eq_testBit (x n : Nat) : bitAt x n = x.testBit n := by
  rw [Nat.testBit_eq_decide_div_mod_eq]; rfl

@[simp] theorem bitAt_toNat {w : Nat} (x : BitVec w) (n : Nat) : bitAt x.toNat n = x.getLsbD n := by
  rw [bitAt_eq_testBit, BitVec.testBit_toNat]

theorem bn_le_one (b : Bool) : bn b ≤ 1 := by cases b <;> decide

theorem append_toNat {m n : Nat} (x : BitVec m) (y : BitVec n) : (x ++ y).toNat = x.toNat * 2 ^ n + y.toNat := by
  rw [BitVec.toNat_append, ← Nat.shiftLeft_add_eq_or_of_lt y.isLt, Nat.shiftLeft_eq]

theorem extract_toNat {w : Nat} (x : BitVec w) (s n : Nat) : (x.extractLsb' s n).toNat = x.toNat / 2 ^ s % 2 ^ n := by
  rw [BitVec.extractLsb'_toNat, Nat.shiftRight_eq_div_pow]

/-- The number of `n` bits with bit `i` as `f` says, as LOP3 builds it (R197). -/
def bitSum (f : Nat → Bool) (n : Nat) : Nat := (List.range n).foldl (fun x i => x + bn (f i) * 2 ^ i) 0

/-- A further bit lies above those before. -/
theorem bitSum_succ (f : Nat → Bool) (n : Nat) : bitSum f (n + 1) = 2 ^ n * bn (f n) + bitSum f n := by
  rw [bitSum, bitSum, List.range_succ, List.foldl_append, List.foldl_cons, List.foldl_nil, Nat.add_comm, Nat.mul_comm]

theorem bitSum_lt (f : Nat → Bool) (n : Nat) : bitSum f n < 2 ^ n := by
  induction n with
  | zero => exact Nat.one_pos
  | succ n ih =>
    have hb := Nat.mul_le_mul_left (2 ^ n) (bn_le_one (f n))
    rw [bitSum_succ, Nat.pow_succ]
    omega

theorem testBit_bitSum (f : Nat → Bool) (n i : Nat) (h : i < n) : (bitSum f n).testBit i = f i := by
  induction n with
  | zero => omega
  | succ n ih =>
    rw [bitSum_succ, Nat.testBit_two_pow_mul_add _ (bitSum_lt f n)]
    by_cases hi : i < n
    · rw [if_pos hi, ih hi]
    · obtain rfl : i = n := by omega
      rw [if_neg hi, Nat.sub_self]
      cases f i <;> decide

/-! ## Integers as words (R22, R190) -/

/-- The low bits of any number, read in a signedness. -/
theorem extInt_eq (sg : Bool) (w x : Nat) : extInt sg w x = numOf sg (BitVec.ofNat w x) := by
  rw [← extInt_toNat, BitVec.toNat_ofNat]
  simp [extInt, sx]

theorem ofNat_toNat_div {w : Nat} (x : BitVec w) (s n : Nat) : BitVec.ofNat n (x.toNat / 2 ^ s) = x.extractLsb' s n := by
  apply BitVec.eq_of_toNat_eq
  rw [extract_toNat, BitVec.toNat_ofNat]

/-- A word read as an integer and written to another width is extended in its signedness, or cut. -/
theorem ofInt_numOf {w : Nat} (sg : Bool) (x : BitVec w) (v : Nat) :
    BitVec.ofInt v (numOf sg x) = if sg then x.signExtend v else x.zeroExtend v := by
  cases sg
  · simp [numOf, BitVec.ofInt_natCast, BitVec.ofNat_toNat]
  · rfl

theorem ofInt_numOf_self {w : Nat} (sg : Bool) (x : BitVec w) : BitVec.ofInt w (numOf sg x) = x := by
  rw [ofInt_numOf]; cases sg <;> simp

/-! ## Fields of an instruction that are reserved (R62, R188) -/

/-- What zero reserved fields say of each field that an entry of this family may leave unused. -/
structure Clear (f : F3) (u : Use3) : Prop where
  d : u.d = false → f.d = 0
  b : u.b = false → u.braw = false → f.b = 0
  c : u.c = false → u.craw = false → f.c = 0
  fmt : u.fmt = false → f.fmt = 0
  rnd : f.rnd.toNat &&& (7 - u.rnd) = 0
  sat : u.sat = false → f.sat = false
  mod : f.mod.toNat &&& (15 - u.mod) = 0

theorem clear_fields {f : F3} {u : Use3} (h : f.clear u = true) : Clear f u := by
  simp only [F3.clear, Bool.and_eq_true, Bool.or_eq_true, beq_iff_eq, Bool.not_eq_true'] at h
  obtain ⟨⟨⟨⟨⟨⟨⟨⟨⟨⟨hd, -⟩, hb⟩, hc⟩, hfmt⟩, hrnd⟩, hsat⟩, -⟩, -⟩, -⟩, hmod⟩ := h
  have used : ∀ {x : Bool} {P : Prop}, x = true ∨ P → x = false → P := fun h hx => h.resolve_left (by rw [hx]; exact Bool.false_ne_true)
  exact ⟨used hd, fun hu hr => used (used hb hu).2 hr, fun hu hr => used (used hc hu).2 hr, used hfmt, hrnd, used hsat, hmod⟩

section clear
variable {f : F3} {u : Use3} (h : f.clear u = true)
include h

theorem clear_mod : f.mod.toNat &&& (15 - u.mod) = 0 := (clear_fields h).mod
theorem clear_rnd : f.rnd.toNat &&& (7 - u.rnd) = 0 := (clear_fields h).rnd
theorem clear_d (hu : u.d = false) : f.d = 0 := (clear_fields h).d hu
theorem clear_b (hu : u.b = false) (hr : u.braw = false) : f.b = 0 := (clear_fields h).b hu hr
theorem clear_c (hu : u.c = false) (hr : u.craw = false) : f.c = 0 := (clear_fields h).c hu hr
theorem clear_fmt (hu : u.fmt = false) : f.fmt = 0 := (clear_fields h).fmt hu
theorem clear_sat (hu : u.sat = false) : f.sat = false := (clear_fields h).sat hu

end clear

/-- The bits of MOD above those an entry uses are zero. -/
theorem clear_mod_div {f : F3} {u : Use3} (h : f.clear u = true) (k : Fin 4) (hu : u.mod = 2 ^ k.val - 1) :
    f.mod.toNat / 2 ^ k.val = 0 := by
  have hm : ∀ (k : Fin 4) (m : BitVec 4), m.toNat &&& (15 - (2 ^ k.val - 1)) = 0 → m.toNat / 2 ^ k.val = 0 := by decide
  exact hm k f.mod (hu ▸ clear_mod h)

theorem clear_mod_zero {f : F3} {u : Use3} (h : f.clear u = true) (hu : u.mod = 0) : f.mod = 0 := by
  have := clear_mod_div h 0 (by simpa using hu)
  exact BitVec.eq_of_toNat_eq (by simpa using this)

theorem clear_ext {f : F3} {u : Use3} (h : f.clear u = true) (hf : u.fmt = false) (hr : u.rnd = 0) (hs : u.sat = false) :
    f.ext = 0 := by
  have h7 : ∀ r : BitVec 3, r.toNat &&& 7 = 0 → r = 0 := by decide
  have hrnd := clear_rnd h
  rw [hr] at hrnd
  simp [F3.ext, clear_fmt h hf, clear_sat h hs, h7 _ hrnd, bn]

/-! ## Modifiers and operands that are refused (R57, R63, R67) -/

/-- An instruction whose form does not accept its modifiers is refused. -/
theorem refused_of_mods {i : Instr} {f : Form} {p : BitVec 4} (hf : formOf i = some (f, p)) (h : f.mods = false) :
    i.modifiersOk = false := by
  simp [Instr.modifiersOk, hf, h]

/-- Every operand of an instruction whose operands are legal is legal. -/
theorem ok_of_operandsOk {i : Instr} {f : Form} {p : BitVec 4} {alloc : Nat} {o : Opd} (h : i.operandsOk alloc = true)
    (hf : formOf i = some (f, p)) (ho : o ∈ f.ops) : o.ok alloc = true := by
  simp only [Instr.operandsOk, hf, Bool.and_eq_true, List.all_eq_true] at h
  exact h.1 o ho

/-- A legal register of a pair is even. -/
theorem even_of_ok {o : Opd} {alloc : Nat} (h : o.ok alloc = true) (ha : o.align = 2) (hs : o.spec < 0xE0) : o.spec % 2 = 0 := by
  unfold Opd.ok at h
  rw [ha, if_pos hs] at h
  split at h
  · simp only [Bool.and_eq_true, beq_iff_eq] at h; exact h.1.2
  · simp only [Bool.and_eq_true, beq_iff_eq] at h
    have := h.1.2
    omega

/-- A legal operand that names a register directly is one. -/
theorem register_of_ok {o : Opd} {alloc : Nat} (h : o.ok alloc = true) (hk : o.k = kVWonly) : o.spec < 0xE0 := by
  refine Decidable.byContradiction fun hs => ?_
  simp [Opd.ok, hk, kVWonly, hs, show ¬ o.spec < 0xC0 by omega] at h

/-! ## Results of an instruction at hand -/

/-- A 32-bit result in each active lane. -/
theorem vec32_sets {s : State} {e : Env} {i : Instr} {fm : Form} {g : Env → Nat → Nat} {x : Nat → Nat} (f : F3) (h : s.AtHand i e)
    (hf : formOf i = some (fm, f.pred)) (hi : exec i s = vec32 fm f s g) (hn : ∀ l, g (e.note fm f.marked) l = g e l)
    (hx : ∀ l, g e l = x l) : e.Sets i f.d x :=
  sets_of h hf g hi hn fun l => congrArg _ (hx l)

/-- A 32-bit result in each active lane, as a word. -/
theorem vec32_word {s : State} {e : Env} {i : Instr} {fm : Form} {g : Env → Nat → Nat} (f : F3) (h : s.AtHand i e)
    (hf : formOf i = some (fm, f.pred)) (hi : exec i s = vec32 fm f s g) (hn : ∀ l, g (e.note fm f.marked) l = g e l) :
    e.Sets i f.d fun l => (BitVec.ofNat 32 (g e l)).toNat :=
  sets_of h hf g hi hn fun l => by rw [BitVec.ofNat_toNat, BitVec.setWidth_eq]

/-- A 64-bit result in each active lane. -/
theorem vec64_sets {s : State} {e : Env} {i : Instr} {fm : Form} {g : Env → Nat → Nat} {x : Nat → Nat} (f : F3) (h : s.AtHand i e)
    (hf : formOf i = some (fm, f.pred)) (hi : exec i s = vec64 fm f s g) (hn : ∀ l, g (e.note fm f.marked) l = g e l)
    (hx : ∀ l, g e l = x l) : e.Sets64 i f.d x :=
  sets64_of h hf g hi hn hx

/-- A 32-bit result of an immediate instruction. -/
theorem vecI_sets {s : State} {e : Env} {i : Instr} {fm : Form} {g : Env → Nat → Nat} {x : Nat → Nat} (f : FI) (h : s.AtHand i e)
    (hf : formOf i = some (fm, f.pred)) (hi : exec i s = vecI fm f s g) (hn : ∀ l, g (e.note fm []) l = g e l)
    (hx : ∀ l, g e l = x l) : e.Sets i f.d x :=
  sets_of h hf g hi hn fun l => congrArg _ (hx l)

/-- A 32-bit result and a predicate in each active lane. -/
theorem setsP_of {i : Instr} {f : Form} {p : BitVec 4} {ms : List Nat} {s : State} {e : Env} {d : BitVec 8} {x : Nat → Nat} {n : Nat}
    {b : Nat → Bool} (h : s.AtHand i e) (hf : formOf i = some (f, p)) (g : Env → Nat → Nat) (gb : Env → Nat → Bool)
    (hi : exec i s = issue f p ms none s fun e => e.short fun l => { regs := e.put d 0 l (g e l) ++ putP n l (gb e l) })
    (hx : ∀ l, inMask e.L l = true → BitVec.ofNat 32 (g (e.note f ms) l) = BitVec.ofNat 32 (x l))
    (hb : ∀ l, inMask e.L l = true → gb (e.note f ms) l = b l) : e.SetsP i d x n b := by
  obtain ⟨h1, h2⟩ := atHand_form h hf
  exact short_setsP g gb (fun _ _ => 0) hi h1 h2 hx hb fun _ _ => rfl

theorem take_putP (n l : Nat) (b : Bool) (ln : Lane) : ln.take { regs := putP n l b } = ln.setPred n b := by
  simp only [Lane.take, foldl_putP]
  generalize ln.setPred n b = y
  simp [Lane.flag]

/-- A predicate alone in each active lane. -/
theorem setPred_ran {i : Instr} {f : Form} {p : BitVec 4} {ms : List Nat} {s : State} {e : Env} {n : Nat} {b : Nat → Bool}
    (h : s.AtHand i e) (hf : formOf i = some (f, p)) (gb : Env → Nat → Bool)
    (hi : exec i s = issue f p ms none s fun e => e.short fun l => { regs := putP n l (gb e l) })
    (hb : ∀ l, gb (e.note f ms) l = b l) : e.Ran i (fun l ln => ln.setPred n (b l)) e.wv.w := by
  obtain ⟨h1, h2⟩ := atHand_form h hf
  refine short_ran _ hi h1 h2 _ _ (fun l ln _ _ => by rw [take_putP, hb]) fun wv hwv => ?_
  split
  · rw [← hwv]
  · rw [putWave_putP, ← hwv]

/-! ## The meaning of each instruction of the family -/

section arms
variable (s : State)

theorem exec_mov (f : F3) : exec (.mov f) s = execMov f s := rfl
theorem exec_movw (f : F3) : exec (.movw f) s = execMovw f s := rfl
theorem exec_sel (f : F3) : exec (.sel f) s = execSel f s := rfl
theorem exec_lop3 (f : F3) : exec (.lop3 f) s = execLop3 f s := rfl
theorem exec_bfe (f : F3) : exec (.bfe f) s = execBfe f s := rfl
theorem exec_bfi (f : F3) : exec (.bfi f) s = execBfi f s := rfl
theorem exec_popc (f : F3) : exec (.popc f) s = execPopc f s := rfl
theorem exec_clz (f : F3) : exec (.clz f) s = execClz f s := rfl
theorem exec_ctz (f : F3) : exec (.ctz f) s = execCtz f s := rfl
theorem exec_brev (f : F3) : exec (.brev f) s = execBrev f s := rfl
theorem exec_prmt (f : F3) : exec (.prmt f) s = execPrmt f s := rfl
theorem exec_iadd (f : F3) : exec (.iadd f) s = execIadd f s := rfl
theorem exec_isub (f : F3) : exec (.isub f) s = execIsub f s := rfl
theorem exec_imul (f : F3) : exec (.imul f) s = execImul f s := rfl
theorem exec_imulh (f : F3) : exec (.imulh f) s = execImulh f s := rfl
theorem exec_imad (f : F3) : exec (.imad f) s = execImad f s := rfl
theorem exec_imin (f : F3) : exec (.imin f) s = execImin f s := rfl
theorem exec_imax (f : F3) : exec (.imax f) s = execImax f s := rfl
theorem exec_iabs (f : F3) : exec (.iabs f) s = execIabs f s := rfl
theorem exec_ineg (f : F3) : exec (.ineg f) s = execIneg f s := rfl
theorem exec_isad (f : F3) : exec (.isad f) s = execIsad f s := rfl
theorem exec_iaddc (f : F3) : exec (.iaddc f) s = execIaddc f s := rfl
theorem exec_isubb (f : F3) : exec (.isubb f) s = execIsubb f s := rfl
theorem exec_imadw (f : F3) : exec (.imadw f) s = execImadw f s := rfl
theorem exec_iaddw (f : F3) : exec (.iaddw f) s = execIaddw f s := rfl
theorem exec_lea (f : F3) : exec (.lea f) s = execLea f s := rfl
theorem exec_idp4 (f : F3) : exec (.idp4 f) s = execIdp4 f s := rfl
theorem exec_idp2 (f : F3) : exec (.idp2 f) s = execIdp2 f s := rfl
theorem exec_shl (f : F3) : exec (.shl f) s = execShl f s := rfl
theorem exec_shr (f : F3) : exec (.shr f) s = execShr f s := rfl
theorem exec_sar (f : F3) : exec (.sar f) s = execSar f s := rfl
theorem exec_fsh (f : F3) : exec (.fsh f) s = execFsh f s := rfl
theorem exec_rot (f : F3) : exec (.rot f) s = execRot f s := rfl
theorem exec_shw (f : F3) : exec (.shw f) s = execShw f s := rfl
theorem exec_iset (f : F3) : exec (.iset f) s = execIset f s := rfl
theorem exec_plop (f : F3) : exec (.plop f) s = execPlop f s := rfl
theorem exec_vote (f : F3) : exec (.vote f) s = execVote f s := rfl
theorem exec_shfl (f : F3) : exec (.shfl f) s = execShfl f s := rfl
theorem exec_bcast (f : F3) : exec (.bcast f) s = execBcast f s := rfl
theorem exec_cvti (f : F3) : exec (.cvti f) s = execCvti f s := rfl
theorem exec_movi (f : FI) : exec (.movi f) s = execMovi f s := rfl
theorem exec_iaddi (f : FI) : exec (.iaddi f) s = execIaddi f s := rfl
theorem exec_andi (f : FI) : exec (.andi f) s = execAndi f s := rfl
theorem exec_ori (f : FI) : exec (.ori f) s = execOri f s := rfl
theorem exec_xori (f : FI) : exec (.xori f) s = execXori f s := rfl
theorem exec_iseti (f : FI) : exec (.iseti f) s = execIseti f s := rfl

end arms

/-! ## The three-input table (R197) -/

theorem lop3_eq (lut a b c : Nat) :
    lop3 lut a b c = bitSum (fun i => bitAt lut (bn (bitAt a i) + 2 * bn (bitAt b i) + 4 * bn (bitAt c i))) 32 := rfl

/-! ## Counts and reversals of bits (R198) -/

/-- R198: the 1 bits of a number, counted. -/
theorem popN_eq (n x : Nat) : popN n x = ((List.range n).filter x.testBit).length := by
  induction n generalizing x with
  | zero => rfl
  | succ n ih =>
    have hs : (x.testBit ∘ Nat.succ) = (x / 2).testBit := funext fun i => Nat.testBit_succ x i
    rw [popN, ih, List.range_succ_eq_map, List.filter_cons, List.filter_map, hs, Nat.testBit_zero]
    rcases Nat.mod_two_eq_zero_or_one x with h | h <;> simp [h, Nat.add_comm]

/-- The zero bits below the lowest 1 bit. -/
theorem ctzN_spec (n x : Nat) : ctzN n x ≤ n ∧ (∀ i, i < ctzN n x → x.testBit i = false) ∧
    (ctzN n x < n → x.testBit (ctzN n x) = true) := by
  induction n generalizing x with
  | zero => simp [ctzN]
  | succ n ih =>
    obtain ⟨hle, hlow, hbit⟩ := ih (x / 2)
    rw [ctzN]
    split
    · next h => simp [Nat.testBit_zero, h]
    · next h =>
      refine ⟨by omega, fun i hi => ?_, fun hlt => ?_⟩
      · cases i with
        | zero => simpa [Nat.testBit_zero] using h
        | succ i => rw [Nat.testBit_succ]; exact hlow i (by omega)
      · rw [Nat.add_comm 1, Nat.testBit_succ]; exact hbit (by omega)

/-- R198: the leading zero bits, as CLZ counts them from the place of the highest 1 bit. -/
theorem clz_spec (x : Word) : let n := if x.toNat = 0 then 32 else 31 - x.toNat.log2
    n ≤ 32 ∧ (∀ i, i < 32 → 32 - n ≤ i → x.getLsbD i = false) ∧ (n < 32 → x.getLsbD (31 - n) = true) := by
  by_cases h : x.toNat = 0
  · obtain rfl : x = 0 := BitVec.eq_of_toNat_eq h
    simp
  · have hlog : x.toNat.log2 < 32 := (Nat.log2_lt h).2 x.isLt
    simp only [h, if_false, ← BitVec.testBit_toNat]
    refine ⟨by omega, fun i _ hi => ?_, fun _ => ?_⟩
    · exact Nat.testBit_lt_two_pow (Nat.lt_of_lt_of_le Nat.lt_log2_self (Nat.pow_le_pow_right (by decide) (by omega)))
    · rw [show 31 - (31 - x.toNat.log2) = x.toNat.log2 by omega]; exact Nat.testBit_log2 h

theorem revN_lt (n x : Nat) : revN n x < 2 ^ n := by
  induction n generalizing x with
  | zero => exact Nat.one_pos
  | succ n ih =>
    have h := ih (x / 2)
    have hm := Nat.mul_le_mul_right (2 ^ n) (show x % 2 ≤ 1 by omega)
    rw [revN, Nat.pow_succ]
    omega

theorem testBit_revN (n x i : Nat) (h : i < n) : (revN n x).testBit i = x.testBit (n - 1 - i) := by
  induction n generalizing x with
  | zero => omega
  | succ n ih =>
    rw [revN, Nat.mul_comm, Nat.testBit_two_pow_mul_add _ (revN_lt n _)]
    by_cases hi : i < n
    · rw [if_pos hi, ih _ hi, ← Nat.testBit_succ]; congr 1; omega
    · obtain rfl : i = n := by omega
      simp [Nat.testBit_zero]

/-! ## Bit fields and bytes (R198, R199) -/

/-- R198: an extracted field, extended in its signedness; a field of no bits is zero. -/
theorem bfe_eq (sg : Bool) (x : Word) (pos len : Nat) :
    (if len = 0 then 0 else wrapNat 32 (extInt sg len (x.toNat / 2 ^ pos))) =
      (if sg then (x.extractLsb' pos len).signExtend 32 else (x.extractLsb' pos len).zeroExtend 32).toNat := by
  split
  · next h =>
    subst h
    rw [BitVec.eq_nil (x.extractLsb' pos 0)]
    cases sg <;> simp
  · rw [extInt_eq, ofNat_toNat_div, wrapNat_eq, ofInt_numOf]

/-- R198: the number whose bits from `pos` on are replaced by the `len` low bits of `a`. -/
theorem field_replaced (a c pos len : Nat) :
    c - bits c (pos + len - 1) pos % 2 ^ len * 2 ^ pos + a % 2 ^ len * 2 ^ pos =
      2 ^ (pos + len) * (c / 2 ^ (pos + len)) + (2 ^ pos * (a % 2 ^ len) + c % 2 ^ pos) := by
  have hfield : bits c (pos + len - 1) pos % 2 ^ len = c / 2 ^ pos % 2 ^ len := by
    cases len with
    | zero => rw [Nat.pow_zero, Nat.mod_one, Nat.mod_one]
    | succ n => rw [bits, show pos + (n + 1) - 1 + 1 - pos = n + 1 by omega, Nat.mod_mod]
  have hc : c = 2 ^ (pos + len) * (c / 2 ^ (pos + len)) + c % 2 ^ pos + c / 2 ^ pos % 2 ^ len * 2 ^ pos := by
    calc c = 2 ^ pos * (c / 2 ^ pos) + c % 2 ^ pos := (Nat.div_add_mod ..).symm
      _ = 2 ^ pos * (2 ^ len * (c / 2 ^ pos / 2 ^ len) + c / 2 ^ pos % 2 ^ len) + c % 2 ^ pos := by rw [Nat.div_add_mod (c / 2 ^ pos)]
      _ = _ := by rw [Nat.div_div_eq_div_mul, ← Nat.pow_add, Nat.mul_add, ← Nat.mul_assoc, ← Nat.pow_add, Nat.add_right_comm,
        Nat.mul_comm (2 ^ pos) (c / 2 ^ pos % 2 ^ len)]
  rw [hfield, Nat.mul_comm (a % 2 ^ len)]
  omega

/-- R198: the word with a field replaced, bit by bit. -/
theorem bfi_eq (a c : Word) (pos len i : Nat) (hi : i < 32) :
    (BitVec.ofNat 32 (c.toNat - bits c.toNat (pos + len - 1) pos % 2 ^ len * 2 ^ pos + a.toNat % 2 ^ len * 2 ^ pos)).getLsbD i =
      if pos ≤ i ∧ i < pos + len then a.getLsbD (i - pos) else c.getLsbD i := by
  have hr : c.toNat % 2 ^ pos < 2 ^ pos := Nat.mod_lt _ (Nat.two_pow_pos _)
  have hlow : 2 ^ pos * (a.toNat % 2 ^ len) + c.toNat % 2 ^ pos < 2 ^ (pos + len) := by
    have hm := Nat.mul_le_mul_left (2 ^ pos) (show a.toNat % 2 ^ len + 1 ≤ 2 ^ len from Nat.mod_lt _ (Nat.two_pow_pos _))
    rw [← Nat.pow_add] at hm
    rw [Nat.mul_succ] at hm
    omega
  rw [field_replaced, BitVec.getLsbD_ofNat, decide_eq_true hi, Bool.true_and, Nat.testBit_two_pow_mul_add _ hlow,
    Nat.testBit_two_pow_mul_add _ hr, Nat.testBit_mod_two_pow, Nat.testBit_mod_two_pow, Nat.testBit_div_two_pow,
    BitVec.testBit_toNat, BitVec.testBit_toNat, BitVec.testBit_toNat]
  by_cases hlo : i < pos
  · simp [hlo, show i < pos + len by omega, show ¬ pos ≤ i by omega]
  · by_cases hhi : i < pos + len
    · simp [hlo, hhi, show pos ≤ i by omega, show i - pos < len by omega]
    · simp [hhi, show i - (pos + len) + (pos + len) = i by omega]

/-- R199: the byte a selector picks, by its mode. -/
theorem prmtByte_eq (a b : Word) (sel : BitVec 8) :
    prmtByte a.toNat b.toNat sel.toNat =
      (let x : BitVec 8 := (b ++ a).extractLsb' (8 * (sel.toNat % 8)) 8
       if sel.toNat / 8 % 4 = 0 then x else if sel.toNat / 8 % 4 = 1 then 0
       else if sel.toNat / 8 % 4 = 2 then (if x.getLsbD 7 then 0xFF else 0) else 0xFF).toNat := by
  have hx : ((b ++ a).extractLsb' (8 * (sel.toNat % 8)) 8).toNat =
      (a.toNat + b.toNat * 2 ^ 32) / 2 ^ (8 * (sel.toNat % 8)) % 256 := by
    have happ := (append_toNat b a).trans (Nat.add_comm _ _)
    exact (extract_toNat _ _ _).trans (congrArg (fun n => n / 2 ^ (8 * (sel.toNat % 8)) % 256) happ)
  simp only [prmtByte, ← hx]
  generalize (b ++ a).extractLsb' (8 * (sel.toNat % 8)) 8 = x
  have hsign : x.getLsbD 7 = decide (128 ≤ x.toNat) := by
    have := x.isLt
    rw [← BitVec.testBit_toNat, Nat.testBit_eq_decide_div_mod_eq]
    exact decide_eq_decide.2 (by omega)
  have hmode : sel.toNat / 8 % 4 < 4 := Nat.mod_lt _ (by decide)
  rw [hsign]
  generalize sel.toNat / 8 % 4 = m at hmode
  match m, hmode with
  | 0, _ => rfl
  | 1, _ => rfl
  | 2, _ => by_cases h : 128 ≤ x.toNat <;> simp [h]
  | 3, _ => rfl

/-- The number of `n` bytes with byte `k` as `b` says, as PRMT builds it (R199). -/
def byteSum (b : Nat → Nat) (n : Nat) : Nat := (List.range n).foldl (fun x k => x + b k * 2 ^ (8 * k)) 0

/-- A further byte lies above those before. -/
theorem byteSum_succ (b : Nat → Nat) (n : Nat) : byteSum b (n + 1) = byteSum b n + b n * 2 ^ (8 * n) := by
  rw [byteSum, byteSum, List.range_succ, List.foldl_append, List.foldl_cons, List.foldl_nil]

theorem byteSum_lt {b : Nat → Nat} (hb : ∀ k, b k < 256) (n : Nat) : byteSum b n < 2 ^ (8 * n) := by
  induction n with
  | zero => exact Nat.one_pos
  | succ n ih =>
    have hm := Nat.mul_le_mul_right (2 ^ (8 * n)) (Nat.le_of_lt_succ (hb n))
    rw [byteSum_succ, Nat.mul_succ, Nat.pow_add]
    omega

theorem byteSum_byte {b : Nat → Nat} (hb : ∀ k, b k < 256) (n k : Nat) (hk : k < n) :
    byteSum b n / 2 ^ (8 * k) % 256 = b k := by
  induction n with
  | zero => omega
  | succ n ih =>
    rw [byteSum_succ]
    by_cases h : k < n
    · have hp : b n * 2 ^ (8 * n) = b n * 2 ^ (8 * (n - k - 1)) * 256 * 2 ^ (8 * k) := by
        rw [Nat.mul_assoc, Nat.mul_assoc, show 256 = 2 ^ 8 from rfl, ← Nat.pow_add, ← Nat.pow_add]
        congr 2; omega
      rw [hp, Nat.add_mul_div_right _ _ (Nat.two_pow_pos _), Nat.add_mul_mod_self_right, ih h]
    · obtain rfl : k = n := by omega
      rw [Nat.add_mul_div_right _ _ (Nat.two_pow_pos _), Nat.div_eq_of_lt (byteSum_lt hb k), Nat.zero_add, Nat.mod_eq_of_lt (hb k)]

/-- R199: each byte of the permuted word is the byte its selector picks. -/
theorem prmt_eq (a b c : Word) (k : Nat) (hk : k < 4) :
    (BitVec.ofNat 32 (byteSum (fun k => prmtByte a.toNat b.toNat (c.toNat / 2 ^ (8 * k) % 256)) 4)).extractLsb' (8 * k) 8 =
      let sel : BitVec 8 := c.extractLsb' (8 * k) 8
      let x : BitVec 8 := (b ++ a).extractLsb' (8 * (sel.toNat % 8)) 8
      if sel.toNat / 8 % 4 = 0 then x else if sel.toNat / 8 % 4 = 1 then 0
      else if sel.toNat / 8 % 4 = 2 then (if x.getLsbD 7 then 0xFF else 0) else 0xFF := by
  have hsel : ∀ k, c.toNat / 2 ^ (8 * k) % 256 = (c.extractLsb' (8 * k) 8).toNat := fun k => (extract_toNat c (8 * k) 8).symm
  have hlt : ∀ k, prmtByte a.toNat b.toNat (c.toNat / 2 ^ (8 * k) % 256) < 256 := fun k => by
    rw [hsel, prmtByte_eq]; exact BitVec.isLt _
  apply BitVec.eq_of_toNat_eq
  rw [extract_toNat, toNat_ofNat_lt (byteSum_lt hlt 4)]
  exact (byteSum_byte hlt 4 k hk).trans (by rw [hsel, prmtByte_eq])

/-! ## Moves, logic and bit fields (R191, R197 to R199) -/

/-- Settles O10: each result, as the number the model builds, is the word the rule describes; the bit-by-bit results by the sums of bits
and bytes they are built from. -/
theorem movesLogicAndBitFields : Obligations.MovesLogicAndBitFields := by
  unfold Obligations.MovesLogicAndBitFields
  refine ⟨fun f i hi h => ?_, fun f h => ⟨clear_mod_div h 1 rfl, clear_b h rfl rfl, clear_c h rfl rfl⟩,
    fun f h => ⟨clear_mod_zero h rfl, clear_c h rfl rfl⟩, fun f h => clear_mod_div h 1 rfl, fun f h => clear_c h rfl rfl,
    fun f h => ?_, fun f i hi h => ?_, fun f alloc h hd => ?_, fun s e => ⟨?_, ?_, ?_, ?_, ?_⟩,
    fun s e => ⟨?_, ?_, ?_, ?_, ?_, ?_, ?_, ?_, ?_, ?_, ?_⟩⟩
  · simp only [List.mem_cons, List.not_mem_nil, or_false] at hi
    rcases hi with rfl | rfl | rfl | rfl | rfl | rfl | rfl <;> exact clear_mod_zero h rfl
  · have hr : (formMovi f).rsv = true := h
    simpa [formMovi] using hr
  · simp only [List.mem_cons, List.not_mem_nil, or_false] at hi
    have hr : (formDAI f).rsv = true := by rcases hi with rfl | rfl | rfl <;> exact h
    simpa [formDAI] using hr
  · exact even_of_ok (ok_of_operandsOk h rfl (o := dst 0 f.d 2) (by simp [formMovw])) rfl hd
  -- MOV, MOV.64, MOVI, MOVW, SEL
  · intro f h hm
    refine sets_of (ms := f.marked) h rfl (fun e l => e.a f l) ?_ (fun _ => rfl) fun l => ?_
    · simp [exec_mov, execMov, hm]
    · rw [wa_toNat]
  · intro f h hm
    refine sets64_of (ms := f.marked) h rfl (fun e l => e.src64 f.a l) ?_ (fun _ => rfl) fun l => ?_
    · simp [exec_mov, execMov, hm]
    · rw [wide_toNat]
  · exact fun f h => vecI_sets f h rfl (exec_movi s f) (fun _ => rfl) fun _ => rfl
  · intro f h
    refine vec64_sets f h rfl (exec_movw s f) (fun _ => rfl) fun l => ?_
    rw [append_toNat, wa_toNat, wb_toNat, Nat.mul_comm, Nat.add_comm]
  · intro f h
    refine vec32_sets f h rfl (exec_sel s f) (fun _ => rfl) fun l => ?_
    simp only [wa_toNat, wb_toNat]
  -- LOP3, ANDI, ORI, XORI
  · intro f h
    refine ⟨_, vec32_word f h rfl (exec_lop3 s f) (fun _ => rfl), fun l i hi => ?_⟩
    rw [lop3_eq, BitVec.getLsbD_ofNat, decide_eq_true hi, Bool.true_and, testBit_bitSum _ 32 i hi]
    simp only [← wa_toNat, ← wb_toNat, ← wc_toNat, bitAt_toNat]
  · exact fun f h => vecI_sets f h rfl (exec_andi s f) (fun _ => rfl) fun l => by rw [BitVec.toNat_and, wi_toNat]; rfl
  · exact fun f h => vecI_sets f h rfl (exec_ori s f) (fun _ => rfl) fun l => by rw [BitVec.toNat_or, wi_toNat]; rfl
  · exact fun f h => vecI_sets f h rfl (exec_xori s f) (fun _ => rfl) fun l => by rw [BitVec.toNat_xor, wi_toNat]; rfl
  -- BFE, BFI
  · intro f h
    refine vec32_sets f h rfl (exec_bfe s f) (fun _ => rfl) fun l => ?_
    simp only [← wa_toNat, ← wb_toNat]
    exact bfe_eq _ _ _ _
  · intro f h
    refine ⟨_, vec32_word f h rfl (exec_bfi s f) (fun _ => rfl), fun l i hi => ?_⟩
    simp only [← wa_toNat, ← wb_toNat, ← wc_toNat]
    exact bfi_eq _ _ _ _ i hi
  -- POPC, CLZ, CTZ, BREV, PRMT
  · intro f h
    refine vec32_sets f h rfl (exec_popc s f) (fun _ => rfl) fun l => ?_
    have hb : (e.wa f l).toNat.testBit = (e.wa f l).getLsbD := funext fun i => BitVec.testBit_toNat _
    rw [← wa_toNat, popN_eq, hb]
  · intro f h
    refine ⟨_, vec32_sets f h rfl (exec_clz s f) (fun _ => rfl) fun _ => rfl, fun l => ?_⟩
    rw [← wa_toNat]
    exact clz_spec _
  · intro f h
    refine ⟨_, vec32_sets f h rfl (exec_ctz s f) (fun _ => rfl) fun _ => rfl, fun l => ?_⟩
    simp only [← wa_toNat, ← BitVec.testBit_toNat]
    exact ctzN_spec 32 _
  · intro f h
    refine ⟨_, vec32_word f h rfl (exec_brev s f) (fun _ => rfl), fun l i hi => ?_⟩
    rw [BitVec.getLsbD_ofNat, decide_eq_true hi, Bool.true_and, ← wa_toNat, testBit_revN 32 _ i hi, BitVec.testBit_toNat]
  · intro f h
    refine ⟨_, vec32_word f h rfl (exec_prmt s f) (fun _ => rfl), fun l k hk => ?_⟩
    simp only [← wa_toNat, ← wb_toNat, ← wc_toNat]
    exact prmt_eq _ _ _ k hk

/-! ## Arithmetic on 32-bit values (R192) -/

/-- The high word of a 64-bit product. -/
theorem highWord_eq (y : Int) : wrapNat 32 (y / ((2 ^ 32 : Nat) : Int)) = ((BitVec.ofInt 64 y).extractLsb' 32 32).toNat := by
  rw [extract_toNat, BitVec.toNat_ofInt, wrapNat]
  omega

/-- Taking the smaller of two words by the integers they stand for. -/
theorem min_eq (sg : Bool) {w : Nat} (x y : BitVec w) :
    (BitVec.ofInt w (min (numOf sg x) (numOf sg y))) = if numOf sg x ≤ numOf sg y then x else y := by
  rw [Int.min_def]; split <;> rw [ofInt_numOf_self]

theorem max_eq (sg : Bool) {w : Nat} (x y : BitVec w) :
    (BitVec.ofInt w (max (numOf sg x) (numOf sg y))) = if numOf sg x ≤ numOf sg y then y else x := by
  rw [Int.max_def]; split <;> rw [ofInt_numOf_self]

/-- Settles O11: the operands are read as the integers of their signedness, and the exact result is fitted to the word. -/
theorem integerArithmeticIsExactThenFitted : Obligations.IntegerArithmeticIsExactThenFitted := by
  unfold Obligations.IntegerArithmeticIsExactThenFitted
  refine ⟨fun f i hi h => ?_, fun f i hi h => ?_, fun f i hi h => ?_, fun f i hi h => ?_, fun f h => ?_,
    fun s e => ⟨?_, ?_, ?_, ?_, ?_, ?_, ?_, ?_, ?_, ?_, ?_⟩⟩
  · simp only [List.mem_cons, List.not_mem_nil, or_false] at hi
    rcases hi with rfl | rfl | rfl | rfl | rfl | rfl <;> exact ⟨clear_mod_div h 1 rfl, clear_c h rfl rfl⟩
  · simp only [List.mem_cons, List.not_mem_nil, or_false] at hi
    rcases hi with rfl | rfl <;> exact clear_mod_div h 1 rfl
  · simp only [List.mem_cons, List.not_mem_nil, or_false] at hi
    rcases hi with rfl | rfl <;> exact ⟨clear_mod_zero h rfl, clear_b h rfl rfl, clear_c h rfl rfl⟩
  · simp only [List.mem_cons, List.not_mem_nil, or_false] at hi
    rcases hi with rfl | rfl | rfl <;> exact clear_sat h rfl
  · have hr : (formDAI f).rsv = true := h
    simpa [formDAI] using hr
  -- IADD, ISUB, IMUL, IMULH, IMAD, IADDI
  · exact fun f h => vec32_sets f h rfl (exec_iadd s f) (fun _ => rfl) fun l => by rw [fitInt_eq, ai_eq, bi_eq]
  · exact fun f h => vec32_sets f h rfl (exec_isub s f) (fun _ => rfl) fun l => by rw [fitInt_eq, ai_eq, bi_eq]
  · exact fun f h => vec32_sets f h rfl (exec_imul s f) (fun _ => rfl) fun l => by rw [fitInt_eq, ai_eq, bi_eq]
  · exact fun f h => vec32_sets f h rfl (exec_imulh s f) (fun _ => rfl) fun l => by rw [highWord_eq, ai_eq, bi_eq]
  · exact fun f h => vec32_sets f h rfl (exec_imad s f) (fun _ => rfl) fun l => by rw [fitInt_eq, ai_eq, bi_eq, ci_eq]
  · exact fun f h => vecI_sets f h rfl (exec_iaddi s f) (fun _ => rfl) fun l => by rw [BitVec.toNat_add, wi_toNat]
  -- IMIN, IMAX, IABS, INEG, ISAD
  · refine fun f h => vec32_sets f h rfl (exec_imin s f) (fun _ => rfl) fun l => ?_
    rw [min_eq, ai_eq, bi_eq, apply_ite BitVec.toNat, wa_toNat, wb_toNat]
  · refine fun f h => vec32_sets f h rfl (exec_imax s f) (fun _ => rfl) fun l => ?_
    rw [max_eq, ai_eq, bi_eq, apply_ite BitVec.toNat, wa_toNat, wb_toNat]
  · exact fun f h => vec32_sets f h rfl (exec_iabs s f) (fun _ => rfl) fun l => by rw [fitInt_eq, ← wa_toNat, sx_toNat]
  · exact fun f h => vec32_sets f h rfl (exec_ineg s f) (fun _ => rfl) fun l => by rw [fitInt_eq, ← wa_toNat, sx_toNat]
  · exact fun f h => vec32_sets f h rfl (exec_isad s f) (fun _ => rfl) fun l => by rw [fitInt_eq, ai_eq, bi_eq, wc_toNat]

/-! ## Carries, wide sums and dot products (R193 to R195, R205) -/

/-- R193: the sum of a carry chain wraps as words do. -/
theorem sum_eq {x y : Word} {a b : Nat} (c : Nat) (ha : x.toNat = a) (hb : y.toNat = b) :
    (a + b + c) % 2 ^ 32 = (x + y + BitVec.ofNat 32 c).toNat := by
  subst ha hb
  simp only [BitVec.toNat_add, BitVec.toNat_ofNat, Nat.mod_add_mod, Nat.add_mod_mod]

/-- R193: the difference of a borrow chain wraps as words do. -/
theorem wrap_sub_eq {x y : Word} {a b : Nat} (c : Nat) (ha : x.toNat = a) (hb : y.toNat = b) :
    wrapNat 32 ((a : Int) - b - c) = (x - y - BitVec.ofNat 32 c).toNat := by
  subst ha hb
  rw [wrapNat_eq]
  congr 1
  simp only [Int.sub_eq_add_neg, BitVec.sub_eq_add_neg, BitVec.ofInt_add, BitVec.ofInt_neg, BitVec.ofInt_natCast, BitVec.ofNat_toNat, BitVec.setWidth_eq]

/-- R193: a difference borrows when it is below zero. -/
theorem borrow_eq (a b c : Nat) : decide ((a : Int) - b - c < 0) = decide (a < b + c) :=
  decide_eq_decide.2 (by omega)

/-- R193: the reserved fields of IADDC and ISUBB. -/
theorem carry_reserved {f : F3} (h : (formCarry f).rsv = true) :
    f.mod = 0 ∧ f.ext = 0 ∧ f.c.getLsbD 7 = false ∧ f.c.getLsbD 3 = false := by
  simp only [formCarry, bitAt_toNat, Bool.and_eq_true, Bool.not_eq_true'] at h
  obtain ⟨⟨hc, h7⟩, h3⟩ := h
  exact ⟨clear_mod_zero hc rfl, clear_ext hc rfl rfl rfl, h7, h3⟩

/-- R195: an element of a packed word. -/
theorem element_eq (sg : Bool) (x : Word) (w i : Nat) : extInt sg w (x.toNat / 2 ^ (w * i)) = numOf sg (x.extractLsb' (w * i) w) := by
  rw [extInt_eq, ofNat_toNat_div]

/-- R195: the four products of IDP4. -/
theorem dot4_eq (ua ub : Bool) (x y : Word) :
    dotN ua ub 8 4 x.toNat y.toNat =
      numOf (!ua) (x.extractLsb' (8 * 0) 8) * numOf (!ub) (y.extractLsb' (8 * 0) 8) +
      numOf (!ua) (x.extractLsb' (8 * 1) 8) * numOf (!ub) (y.extractLsb' (8 * 1) 8) +
      numOf (!ua) (x.extractLsb' (8 * 2) 8) * numOf (!ub) (y.extractLsb' (8 * 2) 8) +
      numOf (!ua) (x.extractLsb' (8 * 3) 8) * numOf (!ub) (y.extractLsb' (8 * 3) 8) := by
  rw [dotN, show List.range 4 = [0, 1, 2, 3] from rfl]
  simp only [List.foldl_cons, List.foldl_nil, element_eq, Int.zero_add]

/-- R195: the two products of IDP2. -/
theorem dot2_eq (ua ub : Bool) (x y : Word) :
    dotN ua ub 16 2 x.toNat y.toNat =
      numOf (!ua) (x.extractLsb' (16 * 0) 16) * numOf (!ub) (y.extractLsb' (16 * 0) 16) +
      numOf (!ua) (x.extractLsb' (16 * 1) 16) * numOf (!ub) (y.extractLsb' (16 * 1) 16) := by
  rw [dotN, show List.range 2 = [0, 1] from rfl]
  simp only [List.foldl_cons, List.foldl_nil, element_eq, Int.zero_add]

/-- R205: a scaled and extended index, as words. -/
theorem scaled_eq (sg : Bool) (y : Word) (k : Nat) :
    BitVec.ofInt 64 (numOf sg y * ((2 ^ k : Nat) : Int)) = (if sg then y.signExtend 64 else y.zeroExtend 64) <<< k := by
  have hk : BitVec.ofNat 64 (2 ^ k) = BitVec.twoPow 64 k := BitVec.eq_of_toNat_eq (by rw [BitVec.toNat_ofNat, BitVec.toNat_twoPow])
  rw [BitVec.ofInt_mul, ofInt_numOf, BitVec.ofInt_natCast, BitVec.shiftLeft_eq_mul_twoPow, hk]

/-- R194, R205: a 64-bit operand added to an integer, modulo 2^64. -/
theorem ofInt_add_wide (x : Int) (y : DWord) : wrapNat 64 (x + (y.toNat : Int)) = (BitVec.ofInt 64 x + y).toNat := by
  rw [wrapNat_eq, BitVec.ofInt_add, BitVec.ofInt_natCast, BitVec.ofNat_toNat, BitVec.setWidth_eq]

/-- Settles O12: carries by the integer sum and difference, wide results modulo 2^64, dot products element by element. -/
theorem carriesWideSumsAndDotProducts : Obligations.CarriesWideSumsAndDotProducts := by
  unfold Obligations.CarriesWideSumsAndDotProducts
  refine ⟨fun f i hi h => ?_, fun f h => clear_sat h rfl, fun f i hi h => ?_, fun f h => ⟨clear_c h rfl rfl, clear_sat h rfl⟩,
    fun f alloc h => ⟨?_, ?_⟩, fun f alloc h => ⟨?_, ?_⟩, fun s e => ⟨?_, ?_, ?_, ?_, ?_, ?_, ?_⟩⟩
  · simp only [List.mem_cons, List.not_mem_nil, or_false] at hi
    exact carry_reserved (by rcases hi with rfl | rfl <;> exact h)
  · simp only [List.mem_cons, List.not_mem_nil, or_false] at hi
    rcases hi with rfl | rfl | rfl <;> exact clear_mod_div h 2 rfl
  · exact even_of_ok (ok_of_operandsOk h rfl (o := dst 0 f.d 2) (by simp [formImadw])) rfl
  · exact even_of_ok (ok_of_operandsOk h rfl (o := src 3 f.c 2) (by simp [formImadw])) rfl
  · exact even_of_ok (ok_of_operandsOk h rfl (o := dst 0 f.d 2) (by simp [formLea])) rfl
  · exact even_of_ok (ok_of_operandsOk h rfl (o := src 1 f.a 2) (by simp [formLea])) rfl
  -- IADDC, ISUBB
  · intro f h
    refine setsP_of h rfl _ _ (exec_iaddc s f) (fun l _ => ?_) fun l _ => ?_
    · exact congrArg (BitVec.ofNat 32) (sum_eq (e.carryIn f l) (wa_toNat e f l) (wb_toNat e f l))
    · rw [wa_toNat, wb_toNat]; rfl
  · intro f h
    refine setsP_of h rfl _ _ (exec_isubb s f) (fun l _ => ?_) fun l _ => ?_
    · exact congrArg (BitVec.ofNat 32) (wrap_sub_eq (e.carryIn f l) (wa_toNat e f l) (wb_toNat e f l))
    · rw [wa_toNat, wb_toNat]; exact borrow_eq _ _ _
  -- IMADW, IADDW, LEA
  · refine fun f h => vec64_sets f h rfl (exec_imadw s f) (fun _ => rfl) fun l => ?_
    rw [ai_eq, bi_eq, ← wide_toNat, ofInt_add_wide]
  · refine fun f h => vec64_sets f h rfl (exec_iaddw s f) (fun _ => rfl) fun l => ?_
    simp only [← wide_toNat, extInt_toNat, fitInt_eq]
  · refine fun f h => vec64_sets f h rfl (exec_lea s f) (fun _ => rfl) fun l => ?_
    rw [← wide_toNat, ← wb_toNat, Int.add_comm, extInt_toNat, ofInt_add_wide, scaled_eq, BitVec.add_comm]
    cases f.mod.getLsbD 3 <;> rfl
  -- IDP4, IDP2
  · refine fun f h => vec32_sets f h rfl (exec_idp4 s f) (fun _ => rfl) fun l => ?_
    simp only [← wa_toNat, ← wb_toNat, ← wc_toNat, fitInt_eq, sx_toNat, dot4_eq]
  · refine fun f h => vec32_sets f h rfl (exec_idp2 s f) (fun _ => rfl) fun l => ?_
    simp only [← wa_toNat, ← wb_toNat, ← wc_toNat, fitInt_eq, sx_toNat, dot2_eq]

/-! ## Shifts and rotates (R196) -/

/-- R196: a left shift of a number of `w` bits is that of the word, by any amount. -/
theorem shlN_eq {w : Nat} (x : BitVec w) (n : Nat) : shlN w x.toNat n = (x <<< n).toNat := by
  unfold shlN
  split
  · next h => rw [BitVec.shiftLeft_eq_zero h]; rfl
  · rw [BitVec.toNat_shiftLeft, Nat.shiftLeft_eq]

/-- R196: an unsigned right shift, by any amount. -/
theorem shrN_eq {w : Nat} (x : BitVec w) (n : Nat) : shrN w x.toNat n = (x >>> n).toNat := by
  unfold shrN
  rw [BitVec.toNat_ushiftRight, Nat.shiftRight_eq_div_pow]
  split
  · next h => exact (Nat.div_eq_of_lt (Nat.lt_of_lt_of_le x.isLt (Nat.pow_le_pow_right (by decide) h))).symm
  · rfl

/-- From the width on, only the sign of an integer is left. -/
theorem toInt_div_two_pow_min {w : Nat} (x : BitVec w) (n : Nat) :
    x.toInt / ((2 ^ min n w : Nat) : Int) = x.toInt / ((2 ^ n : Nat) : Int) := by
  by_cases h : n ≤ w
  · rw [Nat.min_eq_left h]
  · have hlo := BitVec.le_two_mul_toInt (x := x)
    have hhi := BitVec.two_mul_toInt_lt (x := x)
    have hp : ((2 ^ w : Nat) : Int) ≤ ((2 ^ n : Nat) : Int) := by exact_mod_cast Nat.pow_le_pow_right (by decide) (by omega)
    have hw : (0 : Int) < ((2 ^ w : Nat) : Int) := by exact_mod_cast Nat.two_pow_pos w
    have hlo' : -((2 ^ w : Nat) : Int) ≤ 2 * x.toInt := by simpa using hlo
    have hhi' : 2 * x.toInt < ((2 ^ w : Nat) : Int) := by simpa using hhi
    rw [Nat.min_eq_right (by omega)]
    have hdiv : ∀ p : Int, ((2 ^ w : Nat) : Int) ≤ p → x.toInt / p = if x.toInt < 0 then -1 else 0 := by
      intro p hle
      split
      · exact Int.ediv_eq_neg_one_of_neg_of_le (by assumption) (by omega)
      · exact Int.ediv_eq_zero_of_lt (by omega) (by omega)
    rw [hdiv _ (Int.le_refl _), hdiv _ hp]

/-- R196: a signed right shift, by any amount. -/
theorem sarN_eq {w : Nat} (x : BitVec w) (n : Nat) : sarN w x.toNat n = (x.sshiftRight n).toNat := by
  rw [sarN, wrapNat_eq, sx_toNat, toInt_div_two_pow_min, BitVec.sshiftRight_eq, Int.shiftRight_eq_div_pow]


/-- A rotation to the left, as ROT builds it. -/
theorem rotate_eq (x : Word) {k : Nat} (hk : k < 32) : (x.toNat * 2 ^ k + x.toNat / 2 ^ (32 - k)) % 2 ^ 32 = (x.rotateLeft k).toNat := by
  have hlow : x.toNat / 2 ^ (32 - k) < 2 ^ k := by
    rw [Nat.div_lt_iff_lt_mul (Nat.two_pow_pos _), ← Nat.pow_add, show k + (32 - k) = 32 by omega]
    exact x.isLt
  have hhigh : x.toNat * 2 ^ k % 2 ^ 32 = x.toNat % 2 ^ (32 - k) * 2 ^ k := by
    rw [← Nat.mul_mod_mul_right, ← Nat.pow_add, show 32 - k + k = 32 by omega]
  have hsum : x.toNat % 2 ^ (32 - k) * 2 ^ k + x.toNat / 2 ^ (32 - k) < 2 ^ 32 := by
    have hm : x.toNat % 2 ^ (32 - k) + 1 ≤ 2 ^ (32 - k) := Nat.mod_lt _ (Nat.two_pow_pos _)
    have := Nat.mul_le_mul_right (2 ^ k) hm
    rw [← Nat.pow_add, show 32 - k + k = 32 by omega, Nat.succ_mul] at this
    omega
  have hor := Nat.shiftLeft_add_eq_or_of_lt hlow (x.toNat % 2 ^ (32 - k))
  rw [Nat.shiftLeft_eq] at hor
  rw [BitVec.toNat_rotateLeft, Nat.mod_eq_of_lt hk, Nat.shiftLeft_eq, Nat.shiftRight_eq_div_pow, hhigh, ← hor, ← Nat.mod_add_mod, hhigh,
    Nat.mod_eq_of_lt hsum]

/-- A rotation to the right is one to the left by what is left of the width. -/
theorem rotateRight_eq (x : Word) {n : Nat} (hn : n < 32) : x.rotateRight n = x.rotateLeft ((32 - n) % 32) := by
  apply BitVec.eq_of_getLsbD_eq
  intro i hi
  rw [BitVec.getLsbD_rotateRight, BitVec.getLsbD_rotateLeft, Nat.mod_mod, Nat.mod_eq_of_lt hn]
  by_cases h0 : n = 0
  · subst h0; simp [hi]
  · rw [Nat.mod_eq_of_lt (show 32 - n < 32 by omega), show 32 - (32 - n) = n by omega]

theorem funnelLeft_eq (x : DWord) (n : Nat) : x.toNat * 2 ^ n / 2 ^ 32 % 2 ^ 32 = ((x <<< n).extractLsb' 32 32).toNat := by
  rw [extract_toNat, BitVec.toNat_shiftLeft, Nat.shiftLeft_eq]
  omega

theorem funnelRight_eq (x : DWord) (n : Nat) : x.toNat / 2 ^ n % 2 ^ 32 = ((x >>> n).extractLsb' 0 32).toNat := by
  rw [extract_toNat, BitVec.toNat_ushiftRight, Nat.shiftRight_eq_div_pow, Nat.pow_zero, Nat.div_one]

/-- Settles O13: the model's shifts of numbers are the shifts of words by the whole amount, and ROT a rotation by what is left of it
modulo 32. -/
theorem shiftsUseTheWholeAmount : Obligations.ShiftsUseTheWholeAmount := by
  unfold Obligations.ShiftsUseTheWholeAmount
  refine ⟨fun f i hi h => ?_, fun f i hi h => ?_, fun f h => clear_mod_div h 2 rfl, fun f h => ?_,
    fun s e => ⟨?_, ?_, ?_, ?_, ?_, ?_⟩⟩
  · simp only [List.mem_cons, List.not_mem_nil, or_false] at hi
    rcases hi with rfl | rfl | rfl <;> exact clear_mod_zero h rfl
  · simp only [List.mem_cons, List.not_mem_nil, or_false] at hi
    rcases hi with rfl | rfl <;> exact clear_mod_div h 1 rfl
  · exact refused_of_mods rfl (by simp [formShw, h])
  -- SHL, SHR, SAR
  · exact fun f h => vec32_sets f h rfl (exec_shl s f) (fun _ => rfl) fun l => by rw [← shlN_eq, wa_toNat, wb_toNat]
  · exact fun f h => vec32_sets f h rfl (exec_shr s f) (fun _ => rfl) fun l => by rw [← shrN_eq, wa_toNat, wb_toNat]
  · exact fun f h => vec32_sets f h rfl (exec_sar s f) (fun _ => rfl) fun l => by rw [← sarN_eq, wa_toNat, wb_toNat]
  -- FSH, ROT, SHW
  · refine fun f h => vec32_sets f h rfl (exec_fsh s f) (fun _ => rfl) fun l => ?_
    simp only [← wa_toNat, ← wb_toNat, ← wc_toNat, ← append_toNat]
    split
    · exact funnelLeft_eq _ _
    · exact funnelRight_eq _ _
  · refine fun f h => vec32_sets f h rfl (exec_rot s f) (fun _ => rfl) fun l => ?_
    have hn : (e.wb f l).toNat % 32 < 32 := Nat.mod_lt _ (by decide)
    simp only [← wa_toNat, ← wb_toNat]
    split
    · rw [rotate_eq _ (Nat.mod_lt _ (by decide)), rotateRight_eq _ hn]
    · rw [rotate_eq _ hn]
  · refine fun f h => vec64_sets f h rfl (exec_shw s f) (fun _ => rfl) fun l => ?_
    simp only [← wide_toNat, ← wb_toNat]
    generalize f.mod.toNat % 4 = m
    match m with
    | 0 => exact shlN_eq _ _
    | 1 => exact shrN_eq _ _
    | m + 2 => exact sarN_eq _ _

/-! ## Compares and predicates (R200 to R202) -/

/-- R200: a compare combined with a further predicate. -/
theorem combined_eq (e : Env) (c : BitVec 8) (l : Nat) {r : Nat → Bool} {b : Bool} (hb : b = r l) : e.combined c l b = e.joined c r l := by
  subst hb
  unfold Env.combined Env.joined combine
  generalize bits c.toNat 5 4 = k
  match k with
  | 0 => rfl
  | 1 => rfl
  | k + 2 => rfl

/-- What ISET leaves, by its comparison. -/
theorem iset_setsP {s : State} {e : Env} {f : F3} {r : Nat → Bool} (h : s.AtHand (.iset f) e)
    (hr : ∀ l, (if f.mod.getLsbD 3 then
      icond f.fmt.toNat (extInt (!f.rnd.getLsbD 2) 64 (e.src64 f.a l)) (extInt (!f.rnd.getLsbD 2) 64 (e.src64 f.b l))
      else icond f.fmt.toNat (extInt (!f.rnd.getLsbD 2) 32 (e.a f l)) (extInt (!f.rnd.getLsbD 2) 32 (e.b f l))) = r l) :
    e.SetsP (.iset f) f.d (fun l => if e.joined f.c r l then 0xFFFFFFFF else 0) (f.mod.toNat % 8) (e.joined f.c r) :=
  setsP_of h rfl _ _ (exec_iset s f)
    (fun l _ => congrArg (fun b : Bool => BitVec.ofNat 32 (if b then 0xFFFFFFFF else 0)) (combined_eq e f.c l (hr l)))
    fun l _ => combined_eq e f.c l (hr l)

theorem iset_reserved {f : F3} (h : (formIset f).rsv = true) : bits f.c.toNat 7 6 = 0 ∧ f.rnd.toNat % 4 = 0 ∧ f.sat = false := by
  simp only [formIset, cmpField, Bool.and_eq_true, beq_iff_eq] at h
  obtain ⟨hc, h7⟩ := h
  have hr : ∀ r : BitVec 3, r.toNat &&& 3 = 0 → r.toNat % 4 = 0 := by decide
  exact ⟨h7, hr _ (clear_rnd hc), clear_sat hc rfl⟩

theorem iseti_reserved {f : FI} (h : (formIseti f).rsv = true) : f.d.toNat % 8 = 0 ∧ f.mod.toNat / 8 = 0 := by
  have hm : ∀ m : BitVec 4, m.getLsbD 3 = false → m.toNat / 8 = 0 := by decide
  simp only [formIseti, bits, Bool.and_eq_true, beq_iff_eq, Bool.not_eq_true'] at h
  exact ⟨by simpa using h.1, hm _ h.2⟩

/-- The upper four bits of a raw predicate field are reserved. -/
theorem upper_reserved {x : BitVec 8} (h : bits x.toNat 7 4 = 0) : x.toNat / 16 = 0 := by
  have := x.isLt
  simp only [bits] at h
  omega

theorem plop_reserved {f : F3} (h : (formPlop f).rsv = true) :
    f.mod.toNat / 8 = 0 ∧ f.d = 0 ∧ f.a.toNat / 16 = 0 ∧ f.b.toNat / 16 = 0 ∧ f.c.toNat / 16 = 0 := by
  simp only [formPlop, Bool.and_eq_true, beq_iff_eq] at h
  obtain ⟨⟨⟨hu, ha⟩, hb⟩, hc⟩ := h
  exact ⟨clear_mod_div hu 3 rfl, clear_d hu rfl, upper_reserved ha, upper_reserved hb, upper_reserved hc⟩

/-! ## Votes and lane exchange (R203, R204) -/

theorem vote_reserved {f : F3} (h : (formVote f).rsv = true) : f.mod.toNat / 8 = 0 ∧ f.a.toNat / 16 = 0 ∧ f.b.toNat / 16 = 0 := by
  simp only [formVote, Bool.and_eq_true, beq_iff_eq] at h
  obtain ⟨⟨hu, ha⟩, hb⟩ := h
  exact ⟨clear_mod_div hu 3 rfl, upper_reserved ha, upper_reserved hb⟩

/-- An optional predicate destination is `p7` where there is none. -/
theorem optional_putP (c : Bool) (n l : Nat) (b : Bool) : (if c then putP n l b else []) = putP (if c then n else 7) l b := by
  cases c <;> rfl

/-- R203: a predicate holds in every lane of a list when as many lanes as there are pass. -/
theorem all_pass_eq (q : Nat → Bool) (ls : List Nat) : ((ls.filter q).length == ls.length) = decide (ls.filter q = ls) :=
  decide_eq_decide.2 (List.length_filter_eq_length_iff.trans List.filter_eq_self.symm)

theorem any_pass_eq (ls : List Nat) : (!ls.isEmpty) = decide (ls ≠ []) := by
  cases ls <;> rfl

/-- R203: the ballot, as the mask of the lanes that pass. -/
theorem ballot_eq (L : LaneMask) (q : Nat → Bool) :
    BitVec.ofNat 32 (((lanesOf L).filter q).foldl (fun x l => x + 2 ^ l) 0) = maskOf fun l => decide (l ∈ (lanesOf L).filter q) := by
  have hm : (lanesOf L).filter q = (List.range 32).filter fun l => decide (l ∈ (lanesOf L).filter q) := by
    rw [lanesOf, List.filter_filter]
    apply List.filter_congr
    intro l hl
    simp [List.mem_range.1 hl]
  rw [maskOf]
  conv => lhs; rw [hm, List.foldl_filter]

/-- R203: a lane of the wave is the first that passes. -/
theorem first_pass_eq (ls : List Nat) {l : Nat} (hl : l < 32) : (l == ls.headD 32) = decide (ls.head? = some l) := by
  cases ls with
  | nil => simp; omega
  | cons a t => exact decide_eq_decide.2 (by simp [eq_comm])

theorem eq_pass_eq (q : Nat → Bool) (ls : List Nat) :
    ((ls.filter q).length == ls.length || (ls.filter q).isEmpty) = (decide (ls.filter q = ls) || !decide (ls.filter q ≠ [])) := by
  rw [all_pass_eq, ← any_pass_eq, Bool.not_not]

theorem lt_of_inMask {m : LaneMask} {l : Nat} (h : inMask m l = true) : l < 32 := BitVec.lt_of_getLsbD h

/-- In ballot mode a vote writes no predicate: another word is refused (R203). -/
theorem ballot_writes_none {s : State} {e : Env} {f : F3} (h : s.AtHand (.vote f) e) (hm : f.mod = 3) : bitAt f.b.toNat 3 = false := by
  obtain ⟨-, hmods, -⟩ := atHand_wf h rfl
  simp only [formVote, hm] at hmods
  revert hmods
  cases bitAt f.b.toNat 3 <;> simp

/-- R203: the result of the modes `.all`, `.any` and `.eq` over the lanes `ls`, of which `yes` pass. -/
def voteHolds (m : Nat) (yes ls : List Nat) : Bool :=
  match m with
  | 0 => yes.length == ls.length
  | 1 => !yes.isEmpty
  | _ => yes.length == ls.length || yes.isEmpty

/-- R203: the value of a vote by its mode. -/
def voteValue (m : Nat) (yes ls : List Nat) : Nat :=
  match m with
  | 3 => yes.foldl (fun x l => x + 2 ^ l) 0
  | 4 => yes.length
  | 5 => yes.headD 32
  | _ => if voteHolds m yes ls then 0xFFFFFFFF else 0

/-- R203: the predicate of a vote in a lane by its mode. -/
def votePred (m : Nat) (yes ls : List Nat) (l : Nat) : Bool :=
  match m with
  | 4 => !yes.isEmpty
  | 5 => l == yes.headD 32
  | _ => voteHolds m yes ls

theorem exec_vote_eq (s : State) (f : F3) :
    exec (.vote f) s = issue (formVote f) f.pred [] none s fun e =>
      let yes := (lanesOf e.L).filter (e.coded f.a)
      e.short fun l =>
        { regs := e.put f.d 0 l (voteValue (f.mod.toNat % 8) yes (lanesOf e.L)) ++
            putP (if bitAt f.b.toNat 3 then bits f.b.toNat 2 0 else 7) l (votePred (f.mod.toNat % 8) yes (lanesOf e.L) l) } := by
  rw [exec_vote, execVote]
  simp only [optional_putP]
  rfl

section vote
variable {s : State} {e : Env} {f : F3}

/-- What VOTE leaves, by the mode's value and predicate. -/
theorem vote_setsP {x : Nat → Nat} {b : Nat → Bool} (h : s.AtHand (.vote f) e)
    (hx : ∀ l, voteValue (f.mod.toNat % 8) ((lanesOf e.L).filter (e.coded f.a)) (lanesOf e.L) = x l)
    (hb : ∀ l, l < 32 → votePred (f.mod.toNat % 8) ((lanesOf e.L).filter (e.coded f.a)) (lanesOf e.L) l = b l) :
    e.SetsP (.vote f) f.d x (if bitAt f.b.toNat 3 then bits f.b.toNat 2 0 else 7) b :=
  setsP_of h rfl _ _ (exec_vote_eq s f) (fun l _ => congrArg _ (hx l)) fun l hl => hb l (lt_of_inMask hl)

/-- A vote in the modes `.all`, `.any` and `.eq`. -/
theorem vote_holds {r : Bool} (h : s.AtHand (.vote f) e) (hm : f.mod.toNat % 8 < 3)
    (hr : voteHolds (f.mod.toNat % 8) ((lanesOf e.L).filter (e.coded f.a)) (lanesOf e.L) = r) :
    e.SetsP (.vote f) f.d (fun _ => if r then 0xFFFFFFFF else 0) (if bitAt f.b.toNat 3 then bits f.b.toNat 2 0 else 7) fun _ => r := by
  have hv : ∀ m, m < 3 → ∀ yes ls l, voteValue m yes ls = (if voteHolds m yes ls then 0xFFFFFFFF else 0) ∧
      votePred m yes ls l = voteHolds m yes ls := by
    intro m hm yes ls l
    match m, hm with
    | 0, _ => exact ⟨rfl, rfl⟩
    | 1, _ => exact ⟨rfl, rfl⟩
    | 2, _ => exact ⟨rfl, rfl⟩
  subst hr
  exact vote_setsP h (fun l => (hv _ hm _ _ l).1) fun l _ => (hv _ hm _ _ l).2

/-- A vote in ballot mode. -/
theorem vote_ballot (h : s.AtHand (.vote f) e) (hm : f.mod = 3) :
    e.Sets (.vote f) f.d fun _ => (maskOf fun l => decide (l ∈ (lanesOf e.L).filter (e.coded f.a))).toNat := by
  refine sets_of (ms := []) h rfl (fun e _ => ((lanesOf e.L).filter (e.coded f.a)).foldl (fun x l => x + 2 ^ l) 0) ?_ (fun _ => rfl)
    fun l => ?_
  · rw [exec_vote_eq, ballot_writes_none h hm, hm]
    simp [putP, voteValue]
  · rw [ballot_eq, BitVec.ofNat_toNat, BitVec.setWidth_eq]

end vote

theorem vote_refused {f : F3} (h : 6 ≤ f.mod.toNat % 8 ∨ f.b.getLsbD 3 = true ∧ (f.mod.toNat % 8 = 3 ∨ f.b.toNat % 8 = 7)) :
    (Instr.vote f).modifiersOk = false := by
  have hp : bits f.b.toNat 2 0 = f.b.toNat % 8 := by simp [bits]
  rcases h with h | ⟨hb, h | h⟩
  · exact refused_of_mods rfl (by simp [formVote, show ¬ f.mod.toNat % 8 ≤ 5 by omega])
  · exact refused_of_mods rfl (by simp [formVote, hb, h])
  · exact refused_of_mods rfl (by simp [formVote, hb, hp, h])

theorem shfl_reserved {f : F3} (h : (formShfl f).rsv = true) : f.mod.toNat / 4 = 0 ∧ f.ext / 16 = 0 := by
  have hf : f.fmt = 0 := clear_fmt h rfl
  have hr := f.rnd.isLt
  have hb := bn_le_one f.sat
  refine ⟨clear_mod_div h 2 rfl, ?_⟩
  rw [F3.ext, hf]
  simp
  omega

theorem bcast_reserved {f : F3} (h : (formBcast f).rsv = true) : f.mod.toNat / 2 = 0 ∧ (f.mod = 1 → f.b = 0) :=
  ⟨clear_mod_div h 1 rfl, fun hm => clear_b h (by rw [hm]; rfl) rfl⟩

theorem shfl_refused {f : F3} (h : f.ext % 16 = 15) : (Instr.shfl f).modifiersOk = false := by
  have h3 : bitAt 15 3 = true := by decide
  exact refused_of_mods rfl (by simp [formShfl, h, h3])

/-- R204: the source lane of a lane, and whether it wraps. -/
def shuffle (e : Env) (f : F3) (l : Nat) : Nat × Bool :=
  let w := 2 ^ min (e.c f e.l0) 5
  shflSource (f.mod.toNat % 4) w l (e.b f l % w)

theorem exec_shfl_eq (s : State) (f : F3) :
    exec (.shfl f) s = issue (formShfl f) f.pred f.marked none s fun e => e.short fun l =>
      { regs := e.put f.d 0 l (e.inLane f.a (shuffle e f l).1) ++
          putP (if bitAt (f.ext % 16) 3 then f.ext % 8 else 7) l (shuffle e f l).2 } := by
  rw [exec_shfl, execShfl]
  simp only [optional_putP, Nat.mod_mod_of_dvd f.ext (show 8 ∣ 16 by decide)]
  rfl

/-- R204: the source lane and its wrap, mode by mode. -/
theorem shuffle_eq (e : Env) {f : F3} (hm : f.mod.toNat / 4 = 0) (l : Nat) :
    shuffle e f l =
      let w := 2 ^ min (e.wc f e.l0).toNat 5
      let b := (e.wb f l).toNat % w
      (if f.mod = 0 then l - l % w + b else if f.mod = 1 then l - l % w + (l % w + w - b) % w
        else if f.mod = 2 then l - l % w + (l % w + b) % w else l - l % w + Nat.xor (l % w) b,
       if f.mod = 1 then decide (l % w < b) else if f.mod = 2 then decide (w ≤ l % w + b) else false) := by
  have h4 : ∀ m : BitVec 4, m.toNat / 4 = 0 → m = 0 ∨ m = 1 ∨ m = 2 ∨ m = 3 := by decide
  simp only [shuffle, wb_toNat, wc_toNat]
  rcases h4 f.mod hm with h | h | h | h <;> rw [h] <;> rfl

/-- R204: MOD[0] alone marks `.first`. -/
theorem first_of_mod {m : BitVec 4} (hm : m.toNat / 2 = 0) : m.getLsbD 0 = decide (m = 1) := by
  have h2 : ∀ m : BitVec 4, m.toNat / 2 = 0 → m.getLsbD 0 = decide (m = 1) := by decide
  exact h2 m hm

/-- Settles O14: compares by the integers of their operands, votes by the lanes that pass, exchanges by the source lane. -/
theorem comparesVotesAndLaneExchange : Obligations.ComparesVotesAndLaneExchange := by
  unfold Obligations.ComparesVotesAndLaneExchange
  refine ⟨fun f h => iset_reserved h, fun f h => ?_, fun f h => iseti_reserved h, fun f h => ?_, fun f h => plop_reserved h,
    fun f h => ?_, fun f h => vote_reserved h, fun f h => ?_, fun f h => shfl_reserved h, fun f h => ?_, fun f h => bcast_reserved h,
    fun f i alloc hi h => ?_, fun s e => ⟨?_, ?_, ?_, ?_⟩, fun s e => ⟨?_, ?_, ?_⟩⟩
  · rcases h with h | h
    · exact refused_of_mods rfl (by simp [formIset, show ¬ f.fmt.toNat ≤ 5 by omega])
    · exact refused_of_mods rfl (by simp [formIset, h])
  · rcases h with h | h
    · exact refused_of_mods rfl (by simp [formIseti, h])
    · exact refused_of_mods rfl (by simp [formIseti, show ¬ bits f.d.toNat 7 4 ≤ 5 by omega])
  · exact refused_of_mods rfl (by simp [formPlop, h])
  · exact vote_refused h
  · exact shfl_refused h
  · simp only [List.mem_cons, List.not_mem_nil, or_false] at hi
    rcases hi with rfl | rfl
    · exact register_of_ok (ok_of_operandsOk h rfl (o := src 1 f.a 1 kVWonly) (by simp [formShfl])) rfl
    · exact register_of_ok (ok_of_operandsOk h rfl (o := src 1 f.a 1 kVWonly) (by simp [formBcast])) rfl
  -- ISET, ISET.64, ISETI, PLOP
  · exact fun f h hm => iset_setsP h fun l => by rw [hm, if_neg Bool.false_ne_true, ← wa_toNat, ← wb_toNat, extInt_toNat, extInt_toNat]
  · exact fun f h hm => iset_setsP h fun l => by rw [hm, if_pos rfl, ← wide_toNat, ← wide_toNat, extInt_toNat, extInt_toNat]
  · intro f h
    refine setPred_ran h rfl _ (exec_iseti s f) fun l => ?_
    rw [← extInt_toNat, ← extInt_toNat, wi_toNat]
    rfl
  · exact fun f h => setPred_ran h rfl _ (exec_plop s f) fun l => rfl
  -- VOTE, SHFL, BCAST
  · intro f h
    refine ⟨fun hm => ?_, fun hm => ?_, fun hm => ?_, vote_ballot h, fun hm => ?_, fun hm => ?_⟩
    · exact vote_holds h (by simp [hm]) (by rw [hm]; exact all_pass_eq _ _)
    · exact vote_holds h (by simp [hm]) (by rw [hm]; exact any_pass_eq _)
    · exact vote_holds h (by simp [hm]) (by rw [hm]; exact eq_pass_eq _ _)
    · exact vote_setsP h (fun _ => by rw [hm]; rfl) fun _ _ => by rw [hm]; exact any_pass_eq _
    · exact vote_setsP h (fun _ => by rw [hm]; rfl) fun _ hl => by rw [hm]; exact first_pass_eq _ hl
  · intro f h
    obtain ⟨hm, -⟩ := shfl_reserved (atHand_wf h rfl).1
    refine setsP_of h rfl _ _ (exec_shfl_eq s f) (fun l _ => ?_) fun l _ => ?_
    · have hsl := congrArg (fun x : Nat × Bool => BitVec.ofNat 32 (e.inLane f.a x.1)) (shuffle_eq e hm l)
      exact hsl.trans (congrArg _ (wa_toNat e f _).symm)
    · exact congrArg Prod.snd (shuffle_eq e hm l)
  · intro f h
    obtain ⟨hm, -⟩ := bcast_reserved (atHand_wf h rfl).1
    refine sets_of h rfl _ (exec_bcast s f) (fun _ => rfl) fun l => ?_
    simp only [first_of_mod hm, decide_eq_true_eq, wa_toNat, wb_toNat]
    rfl

/-! ## Conversions (R206) -/

/-- R206: a narrowing of a word `x`: fitted to the target, then extended by the target's signedness. -/
theorem narrow_eq {w : Nat} (sat ss ts : Bool) (tw : Nat) (x : BitVec w) :
    wrapNat 32 (extInt ts tw (fitInt sat ts tw (extInt ss w x.toNat))) =
      (let y := satTo sat ts tw (numOf ss x)
       if ts then y.signExtend 32 else y.zeroExtend 32).toNat := by
  rw [fitInt_eq, extInt_toNat, extInt_toNat, wrapNat_eq, ofInt_numOf]

/-- R206: a sign extension of the low bits of a word. -/
theorem signExtend_low (x : Word) (w v : Nat) : wrapNat v (sx w x.toNat) = ((x.truncate w).signExtend v).toNat := by
  have hx : sx w x.toNat = (x.truncate w).toInt := by rw [← sx_toNat, BitVec.truncate, BitVec.toNat_setWidth]; simp [sx]
  rw [hx, wrapNat_eq]
  rfl

theorem cvti_reserved {f : F3} (h : (formCvti f).rsv = true) : f.b = 0 ∧ f.c = 0 ∧ (f.mod.toNat ≤ 5 → f.sat = false) :=
  ⟨clear_b h rfl rfl, clear_c h rfl rfl, fun hm => clear_sat h (decide_eq_false (by omega))⟩

/-- An operation of CVTI with a 32-bit result. -/
theorem cvti_sets {s : State} {e : Env} {f : F3} {x : Nat → Nat} (h : s.AtHand (.cvti f) e) (hm : f.mod.toNat ≠ 4 ∧ f.mod.toNat ≠ 5)
    (hx : ∀ l, cvti f.mod.toNat f.sat (if 12 ≤ f.mod.toNat then (e.wide f.a l).toNat else (e.wa f l).toNat) = x l) :
    e.Sets (.cvti f) f.d x := by
  refine sets_of (ms := f.marked) h rfl (fun e l => cvti f.mod.toNat f.sat (if 12 ≤ f.mod.toNat then e.src64 f.a l else e.a f l)) ?_
    (fun _ => rfl) fun l => ?_
  · simp only [exec_cvti, execCvti, hm.1, hm.2, decide_false, Bool.or_self, Bool.false_eq_true, if_false]
  · rw [← hx, wide_toNat, wa_toNat]

theorem cvti_sets64 {s : State} {e : Env} {f : F3} {x : Nat → Nat} (h : s.AtHand (.cvti f) e) (hm : f.mod.toNat = 4 ∨ f.mod.toNat = 5)
    (hx : ∀ l, cvti f.mod.toNat f.sat (e.wa f l).toNat = x l) : e.Sets64 (.cvti f) f.d x := by
  have h12 : ¬ 12 ≤ f.mod.toNat := by omega
  refine sets64_of (ms := f.marked) h rfl (fun e l => cvti f.mod.toNat f.sat (e.a f l)) ?_ (fun _ => rfl) fun l => ?_
  · simp only [exec_cvti, execCvti, h12, if_false, Bool.or_eq_true, decide_eq_true_eq, hm, if_true]
  · rw [← hx, wa_toNat]

/-- Settles O15: extensions of the low bits, and nine narrowings that are one lemma at nine signednesses and widths. -/
theorem integerConversions : Obligations.IntegerConversions := by
  unfold Obligations.IntegerConversions
  refine ⟨fun f h => cvti_reserved h, fun f h => refused_of_mods rfl (by simp [formCvti, h]), fun s e f h => ?_⟩
  refine ⟨fun hm => ?_, fun hm => ?_, fun hm => ?_, fun hm => ?_, fun hm => ?_, fun hm => ?_, fun hm => ?_, fun hm => ?_, fun hm => ?_,
    fun hm => ?_, fun hm => ?_, fun hm => ?_, fun hm => ?_, fun hm => ?_, fun hm => ?_⟩
  · exact cvti_sets h (by simp [hm]) fun l => by rw [hm]; exact signExtend_low _ 8 32
  · exact cvti_sets h (by simp [hm]) fun l => by rw [hm]; rfl
  · exact cvti_sets h (by simp [hm]) fun l => by rw [hm]; exact signExtend_low _ 16 32
  · exact cvti_sets h (by simp [hm]) fun l => by rw [hm]; rfl
  · exact cvti_sets64 h (by simp [hm]) fun l => by rw [hm]; exact (wrapNat_eq ..).trans (by rw [sx_toNat]; rfl)
  · exact cvti_sets64 h (by simp [hm]) fun l => by rw [hm]; exact Nat.mod_eq_of_lt (BitVec.isLt _)
  · exact cvti_sets h (by simp [hm]) fun l => by rw [hm]; exact narrow_eq f.sat true true 8 _
  · exact cvti_sets h (by simp [hm]) fun l => by rw [hm]; exact narrow_eq f.sat true false 8 _
  · exact cvti_sets h (by simp [hm]) fun l => by rw [hm]; exact narrow_eq f.sat false false 8 _
  · exact cvti_sets h (by simp [hm]) fun l => by rw [hm]; exact narrow_eq f.sat true true 16 _
  · exact cvti_sets h (by simp [hm]) fun l => by rw [hm]; exact narrow_eq f.sat true false 16 _
  · exact cvti_sets h (by simp [hm]) fun l => by rw [hm]; exact narrow_eq f.sat false false 16 _
  · exact cvti_sets h (by simp [hm]) fun l => by rw [hm]; exact narrow_eq f.sat true true 32 _
  · exact cvti_sets h (by simp [hm]) fun l => by rw [hm]; exact narrow_eq f.sat true false 32 _
  · exact cvti_sets h (by simp [hm]) fun l => by rw [hm]; exact narrow_eq f.sat false false 32 _

end Sys2Proof.Proofs.Integer
end
